-- ==== Sys2Proof/Word.lean ====
section
/-! DEFINITION. The word types of the K4 (00 R3: bits are numbered from 0; values are little-endian in memory). -/

namespace Sys2Proof

/-- One byte. -/
abbrev Byte := BitVec 8
/-- A 32-bit register. -/
abbrev W32 := BitVec 32
/-- A 64-bit pair, address, instruction word or counter. -/
abbrev W64 := BitVec 64

end Sys2Proof
end

