-- ==== Sys2Proof/Machine/Crypto.lean ====
section
/-! DEFINITION. The cryptographic functions the manual names: AES-256 (FIPS 197) with its XTS mode (11 R223) and
GCM mode (21 R434), and SHAKE256 and SHA3-384 (FIPS 202; 17 R317, 21 R429). Bytes are numbers below 256. -/

namespace Sys2Proof.Machine

/-! ## AES-256 -/

def aesS0 : List Nat := [
  0x63, 0x7C, 0x77, 0x7B, 0xF2, 0x6B, 0x6F, 0xC5, 0x30, 0x01, 0x67, 0x2B, 0xFE, 0xD7, 0xAB, 0x76,
  0xCA, 0x82, 0xC9, 0x7D, 0xFA, 0x59, 0x47, 0xF0, 0xAD, 0xD4, 0xA2, 0xAF, 0x9C, 0xA4, 0x72, 0xC0,
  0xB7, 0xFD, 0x93, 0x26, 0x36, 0x3F, 0xF7, 0xCC, 0x34, 0xA5, 0xE5, 0xF1, 0x71, 0xD8, 0x31, 0x15,
  0x04, 0xC7, 0x23, 0xC3, 0x18, 0x96, 0x05, 0x9A, 0x07, 0x12, 0x80, 0xE2, 0xEB, 0x27, 0xB2, 0x75]
def aesS1 : List Nat := [
  0x09, 0x83, 0x2C, 0x1A, 0x1B, 0x6E, 0x5A, 0xA0, 0x52, 0x3B, 0xD6, 0xB3, 0x29, 0xE3, 0x2F, 0x84,
  0x53, 0xD1, 0x00, 0xED, 0x20, 0xFC, 0xB1, 0x5B, 0x6A, 0xCB, 0xBE, 0x39, 0x4A, 0x4C, 0x58, 0xCF,
  0xD0, 0xEF, 0xAA, 0xFB, 0x43, 0x4D, 0x33, 0x85, 0x45, 0xF9, 0x02, 0x7F, 0x50, 0x3C, 0x9F, 0xA8,
  0x51, 0xA3, 0x40, 0x8F, 0x92, 0x9D, 0x38, 0xF5, 0xBC, 0xB6, 0xDA, 0x21, 0x10, 0xFF, 0xF3, 0xD2]
def aesS2 : List Nat := [
  0xCD, 0x0C, 0x13, 0xEC, 0x5F, 0x97, 0x44, 0x17, 0xC4, 0xA7, 0x7E, 0x3D, 0x64, 0x5D, 0x19, 0x73,
  0x60, 0x81, 0x4F, 0xDC, 0x22, 0x2A, 0x90, 0x88, 0x46, 0xEE, 0xB8, 0x14, 0xDE, 0x5E, 0x0B, 0xDB,
  0xE0, 0x32, 0x3A, 0x0A, 0x49, 0x06, 0x24, 0x5C, 0xC2, 0xD3, 0xAC, 0x62, 0x91, 0x95, 0xE4, 0x79,
  0xE7, 0xC8, 0x37, 0x6D, 0x8D, 0xD5, 0x4E, 0xA9, 0x6C, 0x56, 0xF4, 0xEA, 0x65, 0x7A, 0xAE, 0x08]
def aesS3 : List Nat := [
  0xBA, 0x78, 0x25, 0x2E, 0x1C, 0xA6, 0xB4, 0xC6, 0xE8, 0xDD, 0x74, 0x1F, 0x4B, 0xBD, 0x8B, 0x8A,
  0x70, 0x3E, 0xB5, 0x66, 0x48, 0x03, 0xF6, 0x0E, 0x61, 0x35, 0x57, 0xB9, 0x86, 0xC1, 0x1D, 0x9E,
  0xE1, 0xF8, 0x98, 0x11, 0x69, 0xD9, 0x8E, 0x94, 0x9B, 0x1E, 0x87, 0xE9, 0xCE, 0x55, 0x28, 0xDF,
  0x8C, 0xA1, 0x89, 0x0D, 0xBF, 0xE6, 0x42, 0x68, 0x41, 0x99, 0x2D, 0x0F, 0xB0, 0x54, 0xBB, 0x16]
/-- The S-box of FIPS 197. -/
def aesS : List Nat := aesS0 ++ aesS1 ++ aesS2 ++ aesS3
def aesI0 : List Nat := [
  0x52, 0x09, 0x6A, 0xD5, 0x30, 0x36, 0xA5, 0x38, 0xBF, 0x40, 0xA3, 0x9E, 0x81, 0xF3, 0xD7, 0xFB,
  0x7C, 0xE3, 0x39, 0x82, 0x9B, 0x2F, 0xFF, 0x87, 0x34, 0x8E, 0x43, 0x44, 0xC4, 0xDE, 0xE9, 0xCB,
  0x54, 0x7B, 0x94, 0x32, 0xA6, 0xC2, 0x23, 0x3D, 0xEE, 0x4C, 0x95, 0x0B, 0x42, 0xFA, 0xC3, 0x4E,
  0x08, 0x2E, 0xA1, 0x66, 0x28, 0xD9, 0x24, 0xB2, 0x76, 0x5B, 0xA2, 0x49, 0x6D, 0x8B, 0xD1, 0x25]
def aesI1 : List Nat := [
  0x72, 0xF8, 0xF6, 0x64, 0x86, 0x68, 0x98, 0x16, 0xD4, 0xA4, 0x5C, 0xCC, 0x5D, 0x65, 0xB6, 0x92,
  0x6C, 0x70, 0x48, 0x50, 0xFD, 0xED, 0xB9, 0xDA, 0x5E, 0x15, 0x46, 0x57, 0xA7, 0x8D, 0x9D, 0x84,
  0x90, 0xD8, 0xAB, 0x00, 0x8C, 0xBC, 0xD3, 0x0A, 0xF7, 0xE4, 0x58, 0x05, 0xB8, 0xB3, 0x45, 0x06,
  0xD0, 0x2C, 0x1E, 0x8F, 0xCA, 0x3F, 0x0F, 0x02, 0xC1, 0xAF, 0xBD, 0x03, 0x01, 0x13, 0x8A, 0x6B]
def aesI2 : List Nat := [
  0x3A, 0x91, 0x11, 0x41, 0x4F, 0x67, 0xDC, 0xEA, 0x97, 0xF2, 0xCF, 0xCE, 0xF0, 0xB4, 0xE6, 0x73,
  0x96, 0xAC, 0x74, 0x22, 0xE7, 0xAD, 0x35, 0x85, 0xE2, 0xF9, 0x37, 0xE8, 0x1C, 0x75, 0xDF, 0x6E,
  0x47, 0xF1, 0x1A, 0x71, 0x1D, 0x29, 0xC5, 0x89, 0x6F, 0xB7, 0x62, 0x0E, 0xAA, 0x18, 0xBE, 0x1B,
  0xFC, 0x56, 0x3E, 0x4B, 0xC6, 0xD2, 0x79, 0x20, 0x9A, 0xDB, 0xC0, 0xFE, 0x78, 0xCD, 0x5A, 0xF4]
def aesI3 : List Nat := [
  0x1F, 0xDD, 0xA8, 0x33, 0x88, 0x07, 0xC7, 0x31, 0xB1, 0x12, 0x10, 0x59, 0x27, 0x80, 0xEC, 0x5F,
  0x60, 0x51, 0x7F, 0xA9, 0x19, 0xB5, 0x4A, 0x0D, 0x2D, 0xE5, 0x7A, 0x9F, 0x93, 0xC9, 0x9C, 0xEF,
  0xA0, 0xE0, 0x3B, 0x4D, 0xAE, 0x2A, 0xF5, 0xB0, 0xC8, 0xEB, 0xBB, 0x3C, 0x83, 0x53, 0x99, 0x61,
  0x17, 0x2B, 0x04, 0x7E, 0xBA, 0x77, 0xD6, 0x26, 0xE1, 0x69, 0x14, 0x63, 0x55, 0x21, 0x0C, 0x7D]
/-- The inverse S-box. -/
def aesI : List Nat := aesI0 ++ aesI1 ++ aesI2 ++ aesI3

def subByte (b : Nat) : Nat := aesS.getD b 0
def invByte (b : Nat) : Nat := aesI.getD b 0

/-- Multiplication by x in GF(2^8). -/
def xtime (b : Nat) : Nat := if b < 128 then 2 * b else (2 * b) ^^^ 0x11B

/-- Multiplication in GF(2^8) by a constant below 16. -/
def gmul (c b : Nat) : Nat :=
  (if c % 2 = 1 then b else 0) ^^^ (if c / 2 % 2 = 1 then xtime b else 0)
    ^^^ (if c / 4 % 2 = 1 then xtime (xtime b) else 0)
    ^^^ (if c / 8 % 2 = 1 then xtime (xtime (xtime b)) else 0)

def xorBytes (a b : List Nat) : List Nat := List.zipWith (· ^^^ ·) a b

/-- The next words of the AES-256 key schedule: `ws` newest first, from word `i` on. -/
def keyWords : Nat → Nat → Nat → List (List Nat) → List (List Nat)
  | 0, _, _, ws => ws
  | fuel + 1, i, rcon, ws =>
    let prev := ws.headD []
    let base := ws.getD 7 []
    if i % 8 = 0 then
      let t := (prev.drop 1 ++ prev.take 1).map subByte
      let t := xorBytes t [rcon, 0, 0, 0]
      keyWords fuel (i + 1) (xtime rcon) (xorBytes base t :: ws)
    else if i % 8 = 4 then keyWords fuel (i + 1) rcon (xorBytes base (prev.map subByte) :: ws)
    else keyWords fuel (i + 1) rcon (xorBytes base prev :: ws)

/-- A list cut into pieces of `n`. -/
def pieces {α : Type} (n : Nat) : Nat → List α → List (List α)
  | 0, _ => []
  | k + 1, l => l.take n :: pieces n k (l.drop n)

/-- The 15 round keys of a 32-byte key, in order. -/
def roundKeys (key : List Nat) : List (List Nat) :=
  pieces 16 15 ((keyWords 52 8 1 (pieces 4 8 key).reverse).reverse.flatten)

def pick (idx : List Nat) (st : List Nat) : List Nat := idx.map fun i => st.getD i 0

def shiftRows (st : List Nat) : List Nat := pick [0, 5, 10, 15, 4, 9, 14, 3, 8, 13, 2, 7, 12, 1, 6, 11] st
def invShiftRows (st : List Nat) : List Nat := pick [0, 13, 10, 7, 4, 1, 14, 11, 8, 5, 2, 15, 12, 9, 6, 3] st

/-- One column times a circulant matrix with first row `c`. -/
def mixCol (c col : List Nat) : List Nat :=
  (List.range 4).map fun r =>
    ((List.range 4).map fun k => gmul (c.getD ((k + 4 - r) % 4) 0) (col.getD k 0)).foldl (· ^^^ ·) 0

def mixColumns (c st : List Nat) : List Nat := ((pieces 4 4 st).map (mixCol c)).flatten

def aesRounds : List (List Nat) → List Nat → List Nat
  | [], st => st
  | [k], st => xorBytes (shiftRows (st.map subByte)) k
  | k :: ks, st => aesRounds ks (xorBytes (mixColumns [2, 3, 1, 1] (shiftRows (st.map subByte))) k)

/-- AES-256 of one block under the round keys. -/
def aesEnc (rk : List (List Nat)) (block : List Nat) : List Nat :=
  aesRounds (rk.drop 1) (xorBytes block (rk.headD []))

def aesInvRounds : List (List Nat) → List Nat → List Nat
  | [], st => st
  | [k], st => xorBytes ((invShiftRows st).map invByte) k
  | k :: ks, st => aesInvRounds ks (mixColumns [14, 11, 13, 9] (xorBytes ((invShiftRows st).map invByte) k))

/-- The inverse cipher. -/
def aesDec (rk : List (List Nat)) (block : List Nat) : List Nat :=
  aesInvRounds (rk.reverse.drop 1) (xorBytes block (rk.reverse.headD []))

/-! ## Numbers and bytes -/

/-- The number of little-endian bytes. -/
def leNat : List Nat → Nat
  | [] => 0
  | b :: bs => b + 256 * leNat bs

/-- The `n` little-endian bytes of a number. -/
def leBytes : Nat → Nat → List Nat
  | 0, _ => []
  | n + 1, w => w % 256 :: leBytes n (w / 256)

/-- The `n` big-endian bytes of a number. -/
def beBytes (n w : Nat) : List Nat := (leBytes n w).reverse
def beNat (bs : List Nat) : Nat := leNat bs.reverse

/-! ## XTS (11 R223) -/

/-- The tweak multiplied by x in GF(2^128), little-endian. -/
def xtsDouble (t : Nat) : Nat :=
  if t < 2 ^ 127 then 2 * t else (2 * t - 2 ^ 128) ^^^ 0x87

def xtsTweak : Nat → Nat → Nat
  | 0, t => t
  | j + 1, t => xtsTweak j (xtsDouble t)

/-- The tweak of block `j` of a granule under the tweak key. -/
def xtsMask (k2 : List Nat) (granule j : Nat) : List Nat :=
  leBytes 16 (xtsTweak j (leNat (aesEnc (roundKeys k2) (leBytes 16 granule))))

/-- Block `j` of a granule, enciphered (`dec` false) or deciphered, under a key pair of 32 bytes each. -/
def xtsBlock (dec : Bool) (k1 k2 : List Nat) (granule j : Nat) (block : List Nat) : List Nat :=
  let m := xtsMask k2 granule j
  xorBytes ((if dec then aesDec else aesEnc) (roundKeys k1) (xorBytes block m)) m

/-! ## GCM (21 R434) -/

/-- Multiplication in GF(2^128) as GHASH defines it, over 128-bit numbers whose bit 127 is the first bit. -/
def ghashMul : Nat → Nat → Nat → Nat → Nat
  | 0, _, _, z => z
  | n + 1, x, v, z =>
    ghashMul n x (if v % 2 = 0 then v / 2 else (v / 2) ^^^ (0xE1 * 2 ^ 120))
      (if x / 2 ^ n % 2 = 1 then z ^^^ v else z)

/-- GHASH of blocks given as 128-bit numbers. -/
def ghash (h : Nat) (blocks : List Nat) : Nat := blocks.foldl (fun y b => ghashMul 128 (y ^^^ b) h 0) 0

/-- The blocks of a byte string, the last padded with zeros. -/
def gcmBlocks (bs : List Nat) : List Nat :=
  (pieces 16 ((bs.length + 15) / 16) bs).map fun p => beNat (p ++ List.replicate (16 - p.length) 0)

/-- The key stream over `n` blocks from a counter. -/
def gcmStream (rk : List (List Nat)) (iv : Nat) (ctr : Nat) : Nat → List Nat
  | 0 => []
  | n + 1 => aesEnc rk (beBytes 16 (iv * 2 ^ 32 + ctr % 2 ^ 32)) ++ gcmStream rk iv (ctr + 1) n

/-- Text enciphered or deciphered with a 96-bit IV. -/
def gcmCrypt (key : List Nat) (iv : Nat) (text : List Nat) : List Nat :=
  xorBytes text (gcmStream (roundKeys key) iv 2 ((text.length + 15) / 16))

/-- The 16-byte tag of a cipher text with additional data. -/
def gcmTag (key : List Nat) (iv : Nat) (aad cipher : List Nat) : List Nat :=
  let rk := roundKeys key
  let h := beNat (aesEnc rk (List.replicate 16 0))
  let s := ghash h (gcmBlocks aad ++ gcmBlocks cipher ++ [aad.length * 8 * 2 ^ 64 + cipher.length * 8])
  xorBytes (beBytes 16 s) (aesEnc rk (beBytes 16 (iv * 2 ^ 32 + 1)))

/-! ## Keccak -/

def keccakRC : List Nat := [
  0x1, 0x8082, 0x800000000000808a, 0x8000000080008000, 0x808b, 0x80000001, 0x8000000080008081, 0x8000000000008009,
  0x8a, 0x88, 0x80008009, 0x8000000a, 0x8000808b, 0x800000000000008b, 0x8000000000008089, 0x8000000000008003,
  0x8000000000008002, 0x8000000000000080, 0x800a, 0x800000008000000a, 0x8000000080008081, 0x8000000000008080, 0x80000001, 0x8000000080008008]

def keccakRho : List Nat := [0, 1, 62, 28, 27, 36, 44, 6, 55, 20, 3, 10, 43, 25, 39, 41, 45, 15, 21, 8, 18, 2, 61, 56, 14]

def rotl64 (n w : Nat) : Nat := (w * 2 ^ n) % 2 ^ 64 ||| w / 2 ^ (64 - n)

/-- One round of Keccak-f[1600] on 25 lanes, lane x + 5 y. -/
def keccakRound (rc : Nat) (a : List Nat) : List Nat :=
  let c := (List.range 5).map fun x =>
    ((List.range 5).map fun y => a.getD (x + 5 * y) 0).foldl (· ^^^ ·) 0
  let d := (List.range 5).map fun x => c.getD ((x + 4) % 5) 0 ^^^ rotl64 1 (c.getD ((x + 1) % 5) 0)
  let t := (List.range 25).map fun i => a.getD i 0 ^^^ d.getD (i % 5) 0
  let b := (List.range 25).map fun i =>
    -- lane (x, y) of B comes from lane ((x + 3y) mod 5, x) of A
    let src := (i % 5 + 3 * (i / 5)) % 5 + 5 * (i % 5)
    rotl64 (keccakRho.getD src 0) (t.getD src 0)
  (List.range 25).map fun i =>
    let y := i / 5
    let v := b.getD i 0 ^^^ ((2 ^ 64 - 1 - b.getD ((i + 1) % 5 + 5 * y) 0) &&& b.getD ((i % 5 + 2) % 5 + 5 * y) 0)
    if i = 0 then v ^^^ rc else v

def keccakF (a : List Nat) : List Nat := keccakRC.foldl (fun s rc => keccakRound rc s) a

/-- Absorbs a block of the rate into the state. -/
def absorb (st : List Nat) (block : List Nat) : List Nat :=
  let lanes := (pieces 8 ((block.length + 7) / 8) block).map leNat
  keccakF ((List.range 25).map fun i => st.getD i 0 ^^^ lanes.getD i 0)

/-- The sponge: `rate` bytes, domain suffix byte, at most one block of output. -/
def sponge (rate suffix outLen : Nat) (msg : List Nat) : List Nat :=
  let n := msg.length / rate
  let st := (pieces rate n msg).foldl absorb (List.replicate 25 0)
  let tail := msg.drop (rate * n)
  let padded := tail ++ suffix :: List.replicate (rate - 1 - tail.length) 0
  let last := padded.take (rate - 1) ++ [padded.getD (rate - 1) 0 ||| 0x80]
  ((absorb st last).map (leBytes 8)).flatten.take outLen

/-- SHAKE256 with `n` bytes of output, n at most 136. -/
def shake256 (n : Nat) (msg : List Nat) : List Nat := sponge 136 0x1F n msg

/-- SHA3-384. -/
def sha3_384 (msg : List Nat) : List Nat := sponge 104 0x06 48 msg

/-- HMAC-SHA3-384 under a key of at most one block. -/
def hmac (key msg : List Nat) : List Nat :=
  let pad := fun (b : Nat) => ((key ++ List.replicate 104 0).take 104).map fun k => k ^^^ b
  sha3_384 (pad 0x5C ++ sha3_384 (pad 0x36 ++ msg))

end Sys2Proof.Machine
end

