-- ==== Sys2Proof/Config.lean ====
section
/-! DEFINITION. What the manual leaves to an implementation, and the free values: constants without a body, so that
nothing can be proved of the value they take. -/

namespace Sys2Proof

namespace Config

/-- Nominal time units in 10 ns: the least common multiple of 1 to 36, so that a cycle of every cluster clock
100 MHz times k, k from 1 to 36 (23 R456), is a whole number of units. DESIGN CHOICE, log 3. -/
def tenNs : Nat := 144403552893600

/-- Units of one GC tick, 1 ns (20 R395). -/
def gcTick : Nat := tenNs / 10

/-- Units of one memory slot, 6.4 ns (12 R238). -/
def memSlot : Nat := tenNs * 16 / 25

/-- Units of one cluster cycle at clock code `k` (23 R456). -/
def cycle (k : Nat) : Nat := tenNs / k

/-- A free 64-bit value (log 5). -/
opaque freeWord : Nat → W64

/-- The shared secret that the ML-KEM-1024 key pair behind an encapsulation key takes from a ciphertext (21 R429; log 102). -/
opaque decaps : List (BitVec 8) → List (BitVec 8) → BitVec 256

/-- The ML-DSA-65 signature of a message under the wrapped identity key (23 R469; log 102). -/
opaque sign : List (BitVec 8) → List (BitVec 8) → List (BitVec 8)

end Config

end Sys2Proof
end

