-- ==== Sys2Proof/Syntax.lean ====
section
/-! DEFINITION. The steps of the K4 as syntax: the wave instructions and graph words of 03 R64, and the steps of the
device, its host and its neighbours that opcode_table.json lists beside them. One constructor for each row. -/

namespace Sys2Proof

/-! ## Operands and formats (03 R52 to R63) -/

/-- A 9-bit operand field (03 R60). -/
inductive Opnd where
  | v (n : Fin 256) | s (n : Fin 64) | m (n : Fin 16) | x | zero | vx (n : Fin 128)
  deriving DecidableEq, Repr

/-- A rounding attribute (02 R37). -/
inductive Rm where
  | rne | rtz | rup | rdn | rna
  deriving DecidableEq, Repr

/-- The fields of an R-format word beside opcode and sub (03 R53). A field that an instruction reads as a literal
(03 R62) is an argument of its constructor, and the operand here is then `zero`. -/
structure RForm where
  d : Opnd
  a : Opnd
  b : Opnd
  c : Opnd
  p : Fin 16
  neg : Bool
  rm : Rm
  reuse : Bool
  sat : Bool
  hint : Fin 8
  deriving DecidableEq, Repr

/-- Access sizes (03 R57). -/
inductive Size where
  | b8 | b16 | b32 | b64 | b128
  deriving DecidableEq, Repr

/-- The space field (03 R56). -/
inductive Space where
  | slice | cluster | die | main | peer
  deriving DecidableEq, Repr

/-- The order field (03 R56). -/
inductive Order where
  | plain | acq | rel | acqRel
  deriving DecidableEq, Repr

/-- The agent scope field (03 R56). -/
inductive Scope where
  | wave | block | team | device | pod
  deriving DecidableEq, Repr

/-- The fields of an M-format word beside opcode and sub (03 R56). `sz` is sub[2:0] where the instruction is
size-coded (R57), and `b8` otherwise. -/
structure MForm where
  sz : Size
  d : Opnd
  a : Opnd
  b : Option (Fin 16)
  space : Space
  flagged : Bool
  order : Order
  scope : Scope
  p : Fin 16
  neg : Bool
  off : BitVec 8
  deriving DecidableEq, Repr

/-- Integer types (04 R79). -/
inductive IType where
  | i32 | ui32 | i64 | ui64 | i16 | ui16 | i8 | ui8
  deriving DecidableEq, Repr

/-- Conditions of ICMP (04 R90). -/
inductive ICond where
  | eq | ne | lt | le | gt | ge
  deriving DecidableEq, Repr

/-- The sub values of MOVI (04 R93). -/
inductive MoviKind where
  | i32 | ui32 | i64 | ui64 | f | d
  deriving DecidableEq, Repr

/-- The sub values of MOVL (04 R94). -/
inductive MovlKind where
  | i64 | ui64 | d
  deriving DecidableEq, Repr

/-- Floating types (05 R96). -/
inductive FType where
  | f | d | h | bf
  deriving DecidableEq, Repr

/-- Conditions of FCMP (05 R103). -/
inductive FCond where
  | eq | ne | lt | le | gt | ge | un | ord
  deriving DecidableEq, Repr

/-- Type codes of CVT (05 R112). -/
inductive CvtType where
  | f | d | h | bf | i32 | ui32 | i64 | ui64
  deriving DecidableEq, Repr

/-- Selectors of FSGN (05 R111). -/
inductive SgnOp where
  | cpy | neg | abs | xor
  deriving DecidableEq, Repr

/-- Element codes (05 R116). -/
inductive Elem where
  | e4m3 | e5m2 | e3m2 | e2m3 | mxi8 | i8 | ui8 | e2m1 | i4 | ui4 | h | bf | i16 | ui16
  deriving DecidableEq, Repr

/-- Selectors of IDRD (08 R165). -/
inductive IdSel where
  | lane | wave | bx | by | bz | gx | gy | gz | bl | rank | gtid | nw | tsize | blw
  deriving DecidableEq, Repr

/-- Modes of SHFL (08 R163). -/
inductive ShflMode where
  | idx | up | down | xor
  deriving DecidableEq, Repr

/-- Operations of VOTE (08 R163). -/
inductive VoteOp where
  | all | any | uni | ballot
  deriving DecidableEq, Repr

/-- Modes of BCAST (08 R163). -/
inductive BcastMode where
  | lane | first | last
  deriving DecidableEq, Repr

/-- Types of WRED and WSCAN (08 R170). -/
inductive RType where
  | f | d | h | bf | i32 | ui32
  deriving DecidableEq, Repr

/-- Node operations of WRED and WSCAN (08 R170). -/
inductive RedOp where
  | sum | min | max
  deriving DecidableEq, Repr

/-- Fields that BRDF reads (08 R163). -/
inductive BrField where
  | gen | arr | exp | flg | st
  deriving DecidableEq, Repr

/-- Formats of TLD and TST (09 R188). -/
inductive TileFmt where
  | f | bf | h
  deriving DecidableEq, Repr

/-- Operations of TFLG (09 R188). -/
inductive TflgOp where
  | rd | clr | mrg | rdc
  deriving DecidableEq, Repr

/-- Operations of ATOM, RED and REDX (13 R268). -/
inductive AtomOp where
  | xchg | add | fadd | smin | smax | and | or | xor
  deriving DecidableEq, Repr

/-- Selectors of FOLRD (20 R425). -/
inductive FolSel where
  | len | frm | g0 | diam | fail
  deriving DecidableEq, Repr

/-- Control registers (01 R13). -/
inductive Csr where
  | ths | wvs | winset | pkr | tcause | taddr | cap | impgen | mapgen
  deriving DecidableEq, Repr

/-- The cond field of a graph word (18 R335). -/
inductive Guard where
  | always | nz (n : Fin 64) | z (n : Fin 64)
  deriving DecidableEq, Repr

/-- The mode and operand of GWAITGC (18 R337). -/
inductive GcMode where
  | rel (ticks : BitVec 46) | cw (n : Fin 64)
  deriving DecidableEq, Repr

/-! ## What the environment brings with a step -/

/-- What a pseudo-channel read finds in the atoms of one request (12 R245). -/
inductive Ecc where
  | good | correctable | detected | poison
  deriving DecidableEq, Repr

/-- What a groom visit finds in one group (12 R258, R259). -/
inductive GroomFind where
  | good | correctable | uncorrectable
  deriving DecidableEq, Repr

/-- A data or retry slot as a port received it: its 256 bytes, and whether the PHY reports it uncorrectable
(20 R404). -/
structure RxSlot where
  pos : Nat
  bad : Bool
  bytes : List Byte
  deriving DecidableEq, Repr

/-- The fields of a sync slot (20 R403). `crcOk` is the outcome of its CRC at the receiver. -/
structure SyncSlot where
  crcOk : Bool
  fdev : BitVec 14
  fmark : Bool
  ffolio : BitVec 63
  rpos : List (BitVec 8)
  ptp : BitVec 512
  deriving DecidableEq, Repr

/-- What arrives on a control channel (21 R426): the flits of a gutter that carry a message, and what the signatures of the message
find that they complete (log 102). -/
structure AttestResp where
  flits : List (BitVec 512)
  /-- every ML-DSA-65 signature that the message carries verifies -/
  valid : Bool
  /-- the unit identifier that the leaf certificate names, in step 4 -/
  unit : BitVec 16
  deriving DecidableEq, Repr

/-- State of a PTP port, as host software sets it (20 R396). -/
inductive PtpRole where
  | master | slave | passive
  deriving DecidableEq, Repr, Inhabited

/-- A PTP message that arrives at a port outside a sync slot, and the configuration of the PTP instance by host software
(20 R396, R397; log 101). -/
inductive PtpMsg where
  | frame (bytes : BitVec 512)
  | role (r : PtpRole)
  | grandmaster (on : Bool)
  deriving DecidableEq, Repr

/-- A host SPDM or TDISP message (23 R448, R455). -/
inductive SpdmMsg where
  /-- a discovery or attestation request, answered from the certificate slot and the measurements -/
  | request (bytes : List Byte)
  /-- TDISP moves the partition's interface to the locked (true) or unlocked (false) state -/
  | lock (part : Fin 8) (locked : Bool)
  /-- a command of R455 as a vendor-defined message in the session of a partition's interface -/
  | command (part : Fin 8) (opcode : BitVec 16) (slot : BitVec 8) (args : List W64)
  /-- a register or slot-table write of R455 in the session of a partition's interface -/
  | write (part : Fin 8) (offset : Nat) (value : Nat)
  deriving DecidableEq, Repr

/-! ## Instructions and steps -/

/-- One constructor for each row of opcode_table.json, in its order. -/
inductive Instr where
  -- integer and address instructions (04)
  | iadd (t : IType) (r : RForm)
  | isub (t : IType) (r : RForm)
  | imul (t : IType) (r : RForm)
  | imulhi (t : IType) (r : RForm)
  | imad (t : IType) (r : RForm)
  | idiv (t : IType) (r : RForm)
  | irem (t : IType) (r : RForm)
  | imin (t : IType) (r : RForm)
  | imax (t : IType) (r : RForm)
  | iabs (t : IType) (r : RForm)
  | ineg (t : IType) (r : RForm)
  | land (t : IType) (r : RForm)
  | lor (t : IType) (r : RForm)
  | lxor (t : IType) (r : RForm)
  | landn (t : IType) (r : RForm)
  | lnot (t : IType) (r : RForm)
  | shl (t : IType) (r : RForm)
  | shr (t : IType) (r : RForm)
  | sar (t : IType) (r : RForm)
  | rot (t : IType) (right : Bool) (r : RForm)
  | bfx (t : IType) (r : RForm)
  | bfi (t : IType) (r : RForm)
  | popc (t : IType) (r : RForm)
  | clz (t : IType) (r : RForm)
  | ctz (t : IType) (r : RForm)
  | brev (t : IType) (r : RForm)
  | icmp (cc : ICond) (t : IType) (r : RForm)
  | sel (t : IType) (r : RForm)
  | mov (t : IType) (r : RForm)
  | movi (k : MoviKind) (d : Opnd) (imm : W32)
  | movl (k : MovlKind) (d : Opnd) (lit : W64)
  | lea (t : IType) (sc : Fin 5) (r : RForm)
  -- floating-point, function and packed instructions (05)
  | fadd (t : FType) (r : RForm)
  | fsub (t : FType) (r : RForm)
  | fmul (t : FType) (r : RForm)
  | fma (t : FType) (r : RForm)
  | fmin (t : FType) (r : RForm)
  | fmax (t : FType) (r : RForm)
  | fcmp (cc : FCond) (t : FType) (r : RForm)
  | fclass (t : FType) (r : RForm)
  | fdiv (t : FType) (r : RForm)
  | fsqrt (t : FType) (r : RForm)
  | frcp (t : FType) (r : RForm)
  | frsq (t : FType) (r : RForm)
  | fexp (t : FType) (r : RForm)
  | fexp2 (t : FType) (r : RForm)
  | flog (t : FType) (r : RForm)
  | flog2 (t : FType) (r : RForm)
  | ferf (t : FType) (r : RForm)
  | ferfc (t : FType) (r : RForm)
  | fint (t : FType) (r : RForm)
  | fscale (t : FType) (e8 : Bool) (r : RForm)
  | ffrexp (t : FType) (exp : Bool) (r : RForm)
  | cvt (dst src : CvtType) (r : RForm)
  | fxrd (r : RForm)
  | fxclr (r : RForm)
  | fxen (r : RForm)
  | dot4 (e : Elem) (r : RForm)
  | dot8 (e : Elem) (r : RForm)
  | pack (e : Elem) (j : Fin 4) (r : RForm)
  | unpack (e : Elem) (j : Fin 4) (r : RForm)
  | mxq (e : Elem) (scale : Bool) (r : RForm)
  | fsgn (t : FType) (op : SgnOp) (r : RForm)
  -- control flow and plain memory (06)
  | bra (imm : W32)
  | brc (z : Bool) (a : Opnd) (imm : W32)
  | jmpi (r : RForm)
  | call (imm : W32)
  | calli (r : RForm)
  | ret (r : RForm)
  | exit (r : RForm)
  | nop (r : RForm)
  | elb (imm : W32)
  | ld (sx a64 : Bool) (m : MForm)
  | st (a64 : Bool) (m : MForm)
  | lds (sx a64 : Bool) (m : MForm)
  | sts (a64 : Bool) (m : MForm)
  -- wave, reduction and barrier instructions (08)
  | idrd (k : IdSel) (r : RForm)
  | shfl (mode : ShflMode) (b64 : Bool) (r : RForm)
  | vote (op : VoteOp) (r : RForm)
  | bcast (mode : BcastMode) (b64 : Bool) (r : RForm)
  | wred (t : RType) (op : RedOp) (r : RForm)
  | wscan (t : RType) (op : RedOp) (excl : Bool) (r : RForm)
  | actm (run : Bool) (r : RForm)
  | binit (b : Fin 32) (r : RForm)
  | barv (b : Fin 32) (r : RForm)
  | bwait (b : Fin 32) (r : RForm)
  | barw (b : Fin 32) (r : RForm)
  | binval (b : Fin 32) (r : RForm)
  | brdf (fd : BrField) (b : Fin 32) (r : RForm)
  -- matrix instructions (09)
  | mma (z : Bool) (t : Fin 16) (r : RForm)
  | mmasp (z : Bool) (t : Fin 16) (r : RForm)
  | tzero (t : Fin 16) (r : RForm)
  | tld (fm : TileFmt) (t : Fin 16) (r : RForm)
  | tst (fm : TileFmt) (t : Fin 16) (r : RForm)
  | tflg (op : TflgOp) (t : Fin 16) (r : RForm)
  | lrel (r : RForm)
  -- gathers, page requests, fences and atomics (13)
  | gath (sx rp : Bool) (m : MForm)
  | scat (rp : Bool) (m : MForm)
  | pgreq (w : Bool) (m : MForm)
  | dscd (m : MForm)
  | fence (mask : Fin 16) (m : MForm)
  | atom (op : AtomOp) (m : MForm)
  | cas (m : MForm)
  | red (op : AtomOp) (m : MForm)
  | redx (op : AtomOp) (m : MForm)
  | ordfl (r : RForm)
  | pgqry (m : MForm)
  -- engines and semaphores (17)
  | cpyj (r : RForm)
  | gatj (r : RForm)
  | dgstj (r : RForm)
  | semadd (k : Fin 64) (r : RForm)
  | semset (k : Fin 64) (r : RForm)
  | semrd (st : Bool) (k : Fin 64) (r : RForm)
  | semwt (k : Fin 64) (r : RForm)
  | flgclr (r : RForm)
  | flgrd (r : RForm)
  | jcan (r : RForm)
  -- fabric (20)
  | tready (r : RForm)
  | tstat (r : RForm)
  | xld (sx : Bool) (m : MForm)
  | xst (m : MForm)
  | folrd (k : FolSel) (r : RForm)
  -- system (19)
  | trap (code : BitVec 24)
  | rte (next : Bool) (r : RForm)
  | csrrd (n : Csr) (d : Opnd)
  | csrwr (n : Csr) (a : Opnd)
  | qrd (q : Fin 8) (k : Fin 7)
  | qst (q : Fin 8) (m : MForm)
  | restart (r : RForm)
  | pkwr (r : RForm)
  -- graph code (18)
  | glaunch (g : Guard) (rel : Bool) (addr : BitVec 40) (sten : Bool) (cw : Fin 64)
  | gcoll (g : Guard) (first cntm1 : BitVec 12) (step : BitVec 16) (sten : Bool) (cw : Fin 64)
  | gphase (g : Guard) (budget : BitVec 48)
  | gif (g : Guard) (t f : BitVec 24)
  | gwhile (g : Guard) (off bound : BitVec 24)
  | gjmp (g : Guard) (off : BitVec 24)
  | gwaitgc (g : Guard) (mode : GcMode)
  | gwaitsem (g : Guard) (threshold : W32) (cl : BitVec 5) (k : Fin 64)
  | gsetc (g : Guard) (cw : Fin 64) (add : Bool) (value : W32)
  | gsig (g : Guard) (wait : Bool) (value : W32)
  | ghalt (g : Guard) (code : W32)
  -- steps of the waves, slices and clusters
  | blockStart (wv lane : Nat)
  | roundBoundary (slice : Nat)
  | resultDelivery (wv i : Nat)
  | class0AccessEffect (i : Nat)
  | class1Completion (i : Nat)
  | pageWalkRead (i : Nat)
  | elasticDeadline (wv : Nat)
  | barrierResume (wv lane : Nat)
  | releaseStallEnd (cl : Nat)
  | padAtomicChain (i : Nat)
  | redxRedirectWrite (i : Nat)
  | engineSpan (i : Nat) (proofFails : List Nat)
  | tileUpdate (i : Nat)
  | copyChunk (i : Nat)
  | gatherChunk (i : Nat)
  | digestChunk (i : Nat)
  | semaphoreResume (wv lane : Nat)
  | stallResume (cl : Nat)
  | stallLimitExpiry (cl : Nat)
  -- steps of main memory
  | memoryRequestDispatch (i : Nat)
  | memorySlotService (pc : Nat) (ecc : List Ecc)
  | eccRetry (pc : Nat) (ecc : List Ecc)
  | refresh (pc : Nat)
  | slotTablePeriod (pc : Nat)
  | channelHalfWidth (ch : Nat)
  | sweepGranule (ecc : List Ecc)
  | groomVisit (base : Nat) (find : GroomFind)
  | faultRecordPost (asid : Nat)
  | completionRecordRead (asid : Nat)
  | faultRecordServed (asid seq : Nat)
  | mappingFenceComplete (asid : Nat)
  | windowCloseMerge (grid : Nat)
  -- steps of the marshal
  | blockPlacement (part : Nat)
  | waveStart (wv : Nat)
  | blockRetire (grid bl : Nat)
  | blockBudgetExpiry (grid bl : Nat)
  | gridBudgetExpiry (grid : Nat)
  | queueEntryTake (part : Nat)
  | launchCheck (part : Nat)
  | gwaitgcTargetReached (part : Nat)
  | gwaitsemSatisfied (part i : Nat)
  | phaseDeadlineExpiry (part : Nat)
  -- steps of the fabric
  | entryFire (part e : Nat)
  | transmitSlotRead (port frame pos : Nat)
  | slotArrival (port i : Nat)
  | tagSlotArrival (port frame : Nat) (tagBad : Bool) (tag : List Byte) (slots : List RxSlot)
  | syncSlotArrival (port frame : Nat) (sync : SyncSlot)
  | retrySlotSend (port frame : Nat)
  | folioBoundary
  | resyncResume (b : Nat)
  | ptpMessage (port : Nat) (msg : PtpMsg)
  | dieLinkRetry (i : Nat) (ok : Bool)
  | portTrainingFailure (port : Nat)
  | attestResponse (port : Nat) (resp : AttestResp)
  | controlRequestTimeout (port : Nat)
  | heartbeat (port : Nat) (answered : Bool)
  -- pre-emption, events, power, reset
  | preemptTakeEffect (part : Nat)
  | waveSave (wv : Nat)
  | preemptLimitExpiry (part : Nat)
  | eventRingWrite
  | vfMoveComplete
  | currentLimitExceeded (cl : Nat)
  | currentLowStepDown (cl : Nat)
  | budgetRecompute (meanW : Nat)
  | rackCapExpiry
  | reset (trained : Bool)
  -- the host
  | bar2Access (port : Bool) (write : Bool) (bound : Bool) (off len : Nat) (data : List Byte)
  | hostSpdmRequest (msg : SpdmMsg)
  | qtailWrite (port : Bool) (part : Fin 8) (value : W32)
  | failoverWrite (port : Bool) (value : W32)
  | vftgtWrite (port : Bool) (value : W32)
  | passhostWrite (port : Bool) (value : W64)
  | ovrceilWrite (port : Bool) (value : W64)
  | ratioWrite (port : Bool) (value : BitVec 192)
  | slotTableWrite (port : Bool) (pc i : Nat) (value : Byte)
  | registerWrite (port : Bool) (off : Nat) (value : W64)
  | partdef (port : Bool)
  | asidset (port : Bool)
  | mapfence (port : Bool)
  | terminate (port : Bool)
  | semassign (port : Bool)
  | retire (port : Bool)
  | preempt (port : Bool)
  | resume (port : Bool)
  | mresume (port : Bool)
  | gsigack (port : Bool)
  | mkeyload (port : Bool) (slot : BitVec 8)
  | mkeyunload (port : Bool) (slot : BitVec 8)
  | jkeyload (port : Bool) (slot : BitVec 8)
  | jkeyunload (port : Bool) (slot : BitVec 8)
  | attest (port : Bool)
  | revoke (port : Bool)
  | schedload (port : Bool)
  | tmplload (port : Bool)
  | widthup (port : Bool) (clear : Bool)
  | mxreset (port : Bool)
  | rackcap (mgmt : Option (BitVec 128)) (port : Bool)
  -- words with no instruction, and the last rows of the table
  | unassignedOpcode (w : W64)
  | illegalGraphWord (w : W64)
  | voltageSettled
  | syncSlotSend (port frame : Nat) (ptp : BitVec 512)
  | tagSlotSend (port frame : Nat)
  deriving DecidableEq, Repr

end Sys2Proof
end

