-- ==== Sys2Proof/WellFormed.lean ====
section
/-! DEFINITION. What a word must satisfy beside its fields being readable: the checks of 03 R66 steps 2 and 3 that the
word alone decides. `Instr.subOk` fails with the illegal-instruction trap, `Instr.fieldsOk` with the reserved-field
trap. Graph words have one check, which fails with the reserved-field fault (18 R334). -/

namespace Sys2Proof

/-! ## Operand classes (03 R60, R61; 04 R82) -/

/-- vN or v[x+N]. -/
def Opnd.isVec : Opnd → Bool
  | .v _ | .vx _ => true
  | _ => false

/-- s, x, m or the zero operand (04 R82). -/
def Opnd.isScal (o : Opnd) : Bool := !o.isVec

/-- A register number is a multiple of `k`; an indirect operand is tested when it issues (01 R12). -/
def Opnd.aligned (k : Nat) : Opnd → Bool
  | .v n => n.val % k == 0
  | .s n => n.val % k == 0
  | _ => true

/-- A source of `k` registers (01 R12, 03 R57, R61): x and m hold 32 bits only. -/
def Opnd.srcOk (k : Nat) (o : Opnd) : Bool :=
  o.aligned k && (k == 1 || match o with | .x | .m _ => false | _ => true)

/-- vN, v[x+N] or the zero operand, of `k` registers. -/
def Opnd.vecDst (k : Nat) : Opnd → Bool
  | .v n => n.val % k == 0
  | .vx _ | .zero => true
  | _ => false

/-- sN or the zero operand, of `k` registers. -/
def Opnd.sDst (k : Nat) : Opnd → Bool
  | .s n => n.val % k == 0
  | .zero => true
  | _ => false

/-- A vector destination, or sN when `scal` holds (04 R82, 05 R99). -/
def Opnd.dstOk (k : Nat) (scal : Bool) (o : Opnd) : Bool := o.vecDst k || (scal && o.sDst k)

/-- mN, vN, v[x+N] or the zero operand (04 R90). -/
def Opnd.cmpDst : Opnd → Bool
  | .m _ | .v _ | .vx _ | .zero => true
  | _ => false

/-- mN, sN, vN, v[x+N] or the zero operand. -/
def Opnd.maskDst : Opnd → Bool
  | .x => false
  | _ => true

def Opnd.isM : Opnd → Bool | .m _ => true | _ => false
def Opnd.isX : Opnd → Bool | .x => true | _ => false
def Opnd.isZero : Opnd → Bool | .zero => true | _ => false

/-! ## Types -/

/-- Width in bits (04 R79). -/
def IType.bits : IType → Nat
  | .i32 | .ui32 => 32
  | .i64 | .ui64 => 64
  | .i16 | .ui16 => 16
  | .i8 | .ui8 => 8

/-- Whether the type is signed (04 R79). -/
def IType.signed : IType → Bool
  | .i32 | .i64 | .i16 | .i8 => true
  | _ => false

/-- Registers of an operand of the type: 2 for the 64-bit types. -/
def IType.regs (t : IType) : Nat := if t.bits == 64 then 2 else 1

/-- The set TW of 04 R79. -/
def IType.isTW (t : IType) : Bool := t.bits == 32 || t.bits == 64

def FType.regs : FType → Nat | .d => 2 | _ => 1

def CvtType.regs : CvtType → Nat | .d | .i64 | .ui64 => 2 | _ => 1
def CvtType.isInt : CvtType → Bool | .i32 | .ui32 | .i64 | .ui64 => true | _ => false

def RType.regs : RType → Nat | .d => 2 | _ => 1

/-- Registers of an access (03 R57). -/
def Size.regs : Size → Nat | .b8 | .b16 | .b32 => 1 | .b64 => 2 | .b128 => 4
/-- Bytes of an access (03 R57). -/
def Size.bytes : Size → Nat | .b8 => 1 | .b16 => 2 | .b32 => 4 | .b64 => 8 | .b128 => 16
def Size.sub32 : Size → Bool | .b8 | .b16 => true | _ => false
def Size.isAtomic : Size → Bool | .b32 | .b64 => true | _ => false

/-- Elements of a packed register by code (02 R31, 05 R116): 4, 8 or 2. -/
def Elem.count : Elem → Nat
  | .e2m1 | .i4 | .ui4 => 8
  | .h | .bf | .i16 | .ui16 => 2
  | _ => 4

/-- Codes accepted by DOT4 (05 R116). -/
def Elem.dot4Ok (e : Elem) : Bool := e.count == 4
/-- Codes accepted by DOT8 (05 R116). -/
def Elem.dot8Ok (e : Elem) : Bool := e.count == 8
/-- Codes accepted by MXQ (05 R116). -/
def Elem.mxqOk : Elem → Bool
  | .e4m3 | .e5m2 | .e3m2 | .e2m3 | .mxi8 | .e2m1 => true
  | _ => false
/-- The J that PACK and UNPACK accept (05 R118). -/
def Elem.jOk (e : Elem) (j : Fin 4) : Bool := 2 * j.val < e.count

/-! ## The R-format frame (03 R53, R54, R63) -/

/-- Fields that the form does not name hold the zero operand; saturate and reuse only where honoured. -/
def RForm.frame (r : RForm) (d a b c sat reuse : Bool) : Bool :=
  (d || r.d.isZero) && (a || r.a.isZero) && (b || r.b.isZero) && (c || r.c.isZero)
    && (sat || !r.sat) && (reuse || !r.reuse)

/-- No predicate (19 R365, RTE and RESTART). -/
def RForm.noPred (r : RForm) : Bool := r.p.val == 0 && !r.neg

/-- The destination rule of 04 R82. `mask` and `index` say whether mN and x are allowed to the instruction. -/
def intDst (t : IType) (scal mask index : Bool) (d : Opnd) : Bool :=
  d.dstOk t.regs scal || (mask && scal && t.bits != 64 && d.isM)
    || (index && scal && t.bits == 32 && d.isX)

/-- Two-source integer form (04 R80, R82). -/
def int2 (t : IType) (r : RForm) (sat mask index : Bool) : Bool :=
  r.frame true true true false sat false && r.a.srcOk t.regs && r.b.srcOk t.regs
    && intDst t (r.a.isScal && r.b.isScal) mask index r.d

/-- One-source integer form. `dk` is the number of registers of D. -/
def int1 (t : IType) (r : RForm) (sat mask index : Bool) : Bool :=
  r.frame true true false false sat false && r.a.srcOk t.regs
    && intDst t r.a.isScal mask index r.d

/-- One-source integer form with a 32-bit destination (POPC, CLZ, CTZ). -/
def intCount (t : IType) (r : RForm) : Bool :=
  r.frame true true false false false false && r.a.srcOk t.regs && r.d.dstOk 1 r.a.isScal

/-- A two-source form whose B is a 32-bit operand in every type (04 R81). -/
def intB32 (t : IType) (r : RForm) (sat : Bool) : Bool :=
  r.frame true true true false sat false && r.a.srcOk t.regs
    && r.d.dstOk t.regs (r.a.isScal && r.b.isScal)

/-- Float forms of one, two and three sources (05 R98, R99). -/
def flt1 (t : FType) (r : RForm) (sat : Bool) : Bool :=
  r.frame true true false false sat false && r.a.srcOk t.regs && r.d.dstOk t.regs r.a.isScal

def flt2 (t : FType) (r : RForm) (sat : Bool) : Bool :=
  r.frame true true true false sat false && r.a.srcOk t.regs && r.b.srcOk t.regs
    && r.d.dstOk t.regs (r.a.isScal && r.b.isScal)

def flt3 (t : FType) (r : RForm) (sat : Bool) : Bool :=
  r.frame true true true true sat false && r.a.srcOk t.regs && r.b.srcOk t.regs
    && r.c.srcOk t.regs && r.d.dstOk t.regs (r.a.isScal && r.b.isScal && r.c.isScal)

/-! ## The M-format frame (03 R56, R57) -/

/-- A scope other than wave needs an order; an order is one of those allowed. -/
def MForm.orders (m : MForm) (acq rel both : Bool) : Bool :=
  (match m.order with | .plain => m.scope == .wave | .acq => acq | .rel => rel | .acqRel => both)

/-- Class 1 with main memory only (06 R134). -/
def MForm.classOk (m : MForm) : Bool := !m.flagged || m.space == .main

/-- Class 1 exactly with main memory (13 R261, atomics). -/
def MForm.atomClass (m : MForm) : Bool := m.flagged == (m.space == .main)

/-- Address operand of an access in a space, when main memory takes a pair (13 R260). -/
def MForm.addrOk (m : MForm) : Bool := m.a.srcOk (if m.space == .main then 2 else 1)

/-- An M-format word of main memory with no mask destination (PGREQ, DSCD, PGQRY). -/
def MForm.pageOk (m : MForm) (flagged : Bool) : Bool :=
  m.sz == .b8 && m.space == .main && m.flagged == flagged && m.order == .plain
    && m.scope == .wave && m.b.isNone && m.a.srcOk 2

/-- D of a store: any source class by size (06 R131). -/
def MForm.dataSrc (m : MForm) : Bool := m.d.srcOk m.sz.regs

/-! ## Sub fields: 03 R66 step 2 -/

/-- Every sub value that the instruction defines (03 R63, R57). -/
def Instr.subOk : Instr → Bool
  | .imulhi t _ | .idiv t _ | .irem t _ | .bfx t _ | .bfi t _ | .popc t _ | .clz t _ | .ctz t _
  | .brev t _ | .sel t _ | .mov t _ | .lea t _ _ => t.isTW
  | .iabs t _ | .ineg t _ => t.signed
  | .cvt dst src _ => !(dst.isInt && src.isInt)
  | .dot4 e _ => e.dot4Ok
  | .dot8 e _ => e.dot8Ok
  | .mxq e _ _ => e.mxqOk
  | .pack e j _ | .unpack e j _ => e.jOk j
  | .ld sx a64 m | .lds sx a64 m => (!sx || m.sz.sub32) && (!a64 || m.space == .main)
  | .st a64 m | .sts a64 m => !a64 || m.space == .main
  | .gath sx _ m | .xld sx m => !sx || m.sz.sub32
  | .fence mask _ => mask.val != 0
  | .atom _ m | .cas m => m.sz.isAtomic
  | .red op m | .redx op m => m.sz.isAtomic && op != .xchg
  | .qst _ m => m.sz == .b64
  | _ => true

/-! ## Fields: 03 R66 step 3, and 18 R334 step 3 for graph words -/

def Csr.perThread : Csr → Bool | .ths | .tcause | .taddr => true | _ => false
def Csr.regs : Csr → Nat | .pkr | .taddr | .cap | .mapgen => 2 | _ => 1

/-- Whether a 24-bit word offset is negative. -/
def offNeg (o : BitVec 24) : Bool := o.msb

/-- The control fields and operand classes of the instruction (03 R54, R57, R60 to R63; the operand tables of each
chapter). The source of a CSRWR to a read-only 64-bit register may be any s-register (log 109). -/
def Instr.fieldsOk : Instr → Bool
  | .iadd t r | .isub t r => int2 t r true false true
  | .imul t r => int2 t r true false false
  | .imulhi t r | .idiv t r | .irem t r | .imin t r | .imax t r => int2 t r false false false
  | .imad t r =>
    r.frame true true true true true false && r.a.srcOk t.regs && r.b.srcOk t.regs
      && r.c.srcOk t.regs && r.d.dstOk t.regs (r.a.isScal && r.b.isScal && r.c.isScal)
  | .iabs t r | .ineg t r => int1 t r true false false
  | .land t r | .lor t r | .lxor t r | .landn t r => int2 t r false true false
  | .lnot t r => int1 t r false true false
  | .shl t r => intB32 t r true
  | .shr t r | .sar t r | .rot t _ r | .bfx t r => intB32 t r false
  | .bfi t r =>
    r.frame true true true true false false && r.a.srcOk t.regs && r.b.srcOk t.regs
      && r.d.dstOk t.regs (r.a.isScal && r.b.isScal && r.c.isScal)
  | .popc t r | .clz t r | .ctz t r => intCount t r
  | .brev t r => int1 t r false false false
  | .icmp _ t r =>
    r.frame true true true false false false && r.a.srcOk t.regs && r.b.srcOk t.regs && r.d.cmpDst
  | .sel t r =>
    r.frame true true true true false false && r.a.srcOk t.regs && r.b.srcOk t.regs && !r.c.isX
      && r.d.dstOk t.regs (r.a.isScal && r.b.isScal && r.c.isScal)
  | .mov t r => int1 t r false true true
  | .movi k d _ =>
    (match k with
     | .i32 | .ui32 => true
     | .f => d.dstOk 1 true
     | .i64 | .ui64 | .d => d.dstOk 2 true)
  | .movl _ d _ => d.dstOk 2 true
  | .lea t _ r =>
    r.frame true true true true false false && r.a.srcOk t.regs
      && intDst t (r.a.isScal && r.b.isScal && r.c.isScal) false true r.d
  | .fadd t r | .fsub t r | .fmul t r | .fdiv t r => flt2 t r true
  | .fma t r => flt3 t r true
  | .fmin t r | .fmax t r => flt2 t r false
  | .fcmp _ t r =>
    r.frame true true true false false false && r.a.srcOk t.regs && r.b.srcOk t.regs && r.d.cmpDst
  | .fclass t r =>
    r.frame true true false false false false && r.a.srcOk t.regs && r.d.dstOk 1 r.a.isScal
  | .fsqrt t r | .frsq t r | .flog t r | .flog2 t r | .ferf t r | .ferfc t r | .fint t r =>
    flt1 t r false
  | .frcp t r | .fexp t r | .fexp2 t r => flt1 t r true
  | .fscale t _ r =>
    r.frame true true true false true false && r.a.srcOk t.regs
      && r.d.dstOk t.regs (r.a.isScal && r.b.isScal)
  | .ffrexp t exp r =>
    r.frame true true false false false false && r.a.srcOk t.regs
      && r.d.dstOk (if exp then 1 else t.regs) r.a.isScal
  | .cvt dst src r =>
    r.frame true true false false true false && r.a.srcOk src.regs && r.d.dstOk dst.regs r.a.isScal
  | .fxrd r => r.frame true false false false false false && r.d.vecDst 1
  | .fxclr r | .fxen r => r.frame false true false false false false
  | .dot4 _ r | .dot8 _ r =>
    r.frame true true true true true false && r.d.dstOk 1 (r.a.isScal && r.b.isScal && r.c.isScal)
  | .pack _ _ r =>
    r.frame true true true false true false && r.d.dstOk 1 (r.a.isScal && r.b.isScal)
  | .unpack _ _ r => r.frame true true false false false false && r.d.dstOk 2 r.a.isScal
  | .mxq _ scale r =>
    r.frame true true false false true false && r.d.dstOk 1 (scale || r.a.isScal)
  | .fsgn t op r =>
    r.frame true true (op == .cpy || op == .xor) false false false && r.a.srcOk t.regs
      && r.b.srcOk t.regs && r.d.dstOk t.regs (r.a.isScal && r.b.isScal)
  | .bra _ | .call _ => true
  | .brc _ a _ => !a.isX
  | .jmpi r | .calli r => r.frame false true false false false false && r.a.srcOk 2
  | .ret r | .exit r | .nop r => r.frame false false false false false false
  | .elb imm => imm != 0
  | .ld _ a64 m =>
    m.d.vecDst m.sz.regs && m.a.srcOk (if a64 then 2 else 1) && m.orders true false false && m.classOk
  | .st a64 m =>
    m.dataSrc && m.a.srcOk (if a64 then 2 else 1) && m.orders false true false && m.classOk
  | .lds _ a64 m =>
    m.d.sDst m.sz.regs && m.a.isScal && m.a.srcOk (if a64 then 2 else 1)
      && m.orders true false false && m.classOk
  | .sts a64 m =>
    m.d.isScal && m.dataSrc && m.a.isScal && m.a.srcOk (if a64 then 2 else 1)
      && m.orders false true false && m.classOk
  | .idrd k r =>
    r.frame true false false false false false
      && (match k with
          | .lane => r.d.vecDst 1
          | .gtid => r.d.vecDst 2
          | .blw => r.d.dstOk 2 true
          | _ => r.d.dstOk 1 true)
  | .shfl _ b64 r =>
    r.frame true true true false false false && r.a.srcOk (if b64 then 2 else 1) && !r.b.isX
      && r.d.vecDst (if b64 then 2 else 1)
  | .vote _ r => r.frame true true false false false false && !r.a.isX && r.d.maskDst
  | .bcast mode b64 r =>
    r.frame true true (mode == .lane) false false false && r.a.srcOk (if b64 then 2 else 1)
      && r.b.isScal && r.d.dstOk (if b64 then 2 else 1) true
  | .wred t _ r =>
    r.frame true true false false false false && r.a.srcOk t.regs && r.d.dstOk t.regs true
  | .wscan t _ _ r =>
    r.frame true true false false false false && r.a.srcOk t.regs && r.d.vecDst t.regs
  | .actm _ r => r.frame true false false false false false && r.d.maskDst
  | .binit _ r | .bwait _ r => r.frame false false true false false false && r.b.isScal
  | .barv _ r | .brdf _ _ r => r.frame true false false false false false && r.d.dstOk 1 true
  | .barw _ r | .binval _ r => r.frame false false false false false false
  | .mma _ _ r =>
    r.frame false true true true false true && (if r.reuse then r.a.isZero else r.a.isVec && mmaA r.a)
      && r.b.isScal && fmtSrc r.c
  | .mmasp _ _ r =>
    r.frame false true true true false true && (if r.reuse then r.a.isZero else r.a.isVec && mmaA r.a)
      && r.b.sDst 2 && fmtSrc r.c
  | .tzero _ r | .lrel r => r.frame false false false false false false
  | .tld _ _ r => r.frame false true false false false false && r.a.isScal
  | .tst fm _ r => r.frame false true false false (fm != .f) false && r.a.isScal
  | .tflg op _ r =>
    r.frame (op == .rd || op == .rdc) false false false false false && r.d.dstOk 1 true
  | .gath _ rp m =>
    m.d.vecDst m.sz.regs && m.addrOk && m.orders false false false && m.classOk
      && (!rp || m.b.isSome)
  | .scat rp m =>
    m.dataSrc && m.addrOk && m.orders false false false && m.classOk && (!rp || m.b.isSome)
  | .pgreq _ m | .dscd m => m.pageOk true && m.d.isZero
  | .pgqry m => m.pageOk false && m.d.dstOk 1 m.a.isScal
  | .fence _ m =>
    m.sz == .b8 && m.d.isZero && m.a.isZero && m.space == .slice && !m.flagged
      && m.order != .plain && m.b.isNone && m.off == 0
  | .atom _ m =>
    m.d.isVec && m.d.vecDst m.sz.regs && m.addrOk && m.orders true true true && m.atomClass
  | .cas m =>
    (match m.d with | .v n => n.val % (2 * m.sz.regs) == 0 | _ => false)
      && m.addrOk && m.orders true true true && m.atomClass
  | .red _ m => m.dataSrc && m.addrOk && m.orders false true false && m.atomClass
  | .redx _ m =>
    (match m.d with
     | .v n => n.val % (2 * m.sz.regs) == 0
     | .s n => n.val % (2 * m.sz.regs) == 0
     | _ => false)
      && m.addrOk && m.orders false true false && m.atomClass
  | .ordfl r => r.frame false false false false false false
  | .cpyj r | .gatj r | .dgstj r | .jcan r =>
    r.frame true true false false false false && r.d.sDst 1 && r.a.isScal
  | .semadd _ r | .semset _ r => r.frame false false true false false false && r.b.isScal
  | .semrd _ _ r => r.frame true false false false false false && r.d.dstOk 1 true
  | .semwt _ r => r.frame true false true false false false && r.d.sDst 1 && r.b.isScal
  | .flgclr r | .tready r => r.frame false true false false false false && r.a.isScal
  | .flgrd r => r.frame true false false false false false && r.d.maskDst
  | .tstat r => r.frame true true false false false false && r.d.dstOk 1 true && r.a.isScal
  | .xld _ m =>
    m.d.vecDst m.sz.regs && m.a.srcOk 1 && m.space == .slice && m.orders true false false
      && (m.order == .plain || m.scope == .pod)
  | .xst m =>
    m.dataSrc && m.a.srcOk 1 && m.space == .slice && m.orders false true false
      && (m.order == .plain || m.scope == .pod) && m.b.isNone
  | .folrd k r =>
    r.frame true false false false false false && r.d.dstOk (if k == .g0 then 2 else 1) true
  | .trap _ => true
  | .rte _ r | .restart r => r.frame false false false false false false && r.noPred
  | .csrrd n d => if n.perThread then d.vecDst n.regs else d.dstOk n.regs true
  | .csrwr n a => if n == .pkr then a.sDst 2 else true
  | .qrd _ _ => true
  | .qst _ m =>
    m.d.isZero && (match m.a with | .s n => n.val % 2 == 0 | _ => false) && m.space == .main
      && m.flagged && m.order == .plain && m.scope == .wave && m.b.isNone
  | .pkwr r => r.frame false true true false false false && r.a.isScal && r.b.isScal
  | .gcoll _ first cntm1 _ _ _ => first.toNat + cntm1.toNat + 1 ≤ 4096
  | .gif g t f => g != .always && t != 0 && f != 0
  | .gwhile g off bound => g != .always && offNeg off && bound != 0
  | .gjmp _ off => off != 0
  | _ => true
where
  /-- A names a register number that is a multiple of 8 (09 R188, R189). -/
  mmaA : Opnd → Bool
    | .v n => n.val % 8 == 0
    | .vx n => n.val % 8 == 0
    | _ => false
  /-- The format word comes from vN, v[x+N], sN or the zero operand (09 R189). -/
  fmtSrc : Opnd → Bool
    | .v _ | .vx _ | .s _ | .zero => true
    | _ => false

/-- A well-formed instruction: its word passes every check that the word alone decides. -/
def Instr.wf (i : Instr) : Bool := i.subOk && i.fieldsOk

end Sys2Proof
end

