-- ==== Sys2Proof/Decode.lean ====
section
/-! DEFINITION. The decoder and the encoder of wave words and graph words (03 R49 to R66, and the sub tables of the
instruction chapters). A word is a number below 2^64; a field is taken by division. -/

namespace Sys2Proof

/-- Why a word is not an instruction: the trap of 03 R66 steps 2 and 3 (for a graph word the fault of 18 R334). -/
inductive Reject where
  | illegal | reserved
  deriving DecidableEq, Repr

/-- Bits k+n-1 to k of `w` (00 R3). -/
def fld (w k n : Nat) : Nat := w / 2 ^ k % 2 ^ n

/-- A little-endian word from its bytes; absent bytes read as zero. -/
def wordOfBytes : List Byte → Nat
  | [] => 0
  | b :: bs => b.toNat + 256 * wordOfBytes bs

/-- The `n` little-endian bytes of a number. -/
def bytesOfWord : Nat → Nat → List Byte
  | 0, _ => []
  | n + 1, w => BitVec.ofNat 8 w :: bytesOfWord n (w / 256)

/-! ## Operands (03 R60) -/

def decOpnd (n : Nat) : Option Opnd :=
  if h : n < 256 then some (.v ⟨n, h⟩)
  else if h : n - 256 < 64 then some (.s ⟨n - 256, h⟩)
  else if h : n - 320 < 16 then some (.m ⟨n - 320, h⟩)
  else if n = 336 then some .x
  else if n = 352 then some .zero
  else if n < 384 then none
  else if h : n - 384 < 128 then some (.vx ⟨n - 384, h⟩)
  else none

def encOpnd : Opnd → Nat
  | .v n => n.val
  | .s n => 256 + n.val
  | .m n => 320 + n.val
  | .x => 336
  | .zero => 352
  | .vx n => 384 + n.val

def decRm : Nat → Option Rm
  | 0 => some .rne | 1 => some .rtz | 2 => some .rup | 3 => some .rdn | 4 => some .rna
  | _ => none

def encRm : Rm → Nat
  | .rne => 0 | .rtz => 1 | .rup => 2 | .rdn => 3 | .rna => 4

def bit (b : Bool) : Nat := if b then 1 else 0

/-! ## Codes -/

def decIType (n : Nat) : IType :=
  match n with
  | 0 => .i32 | 1 => .ui32 | 2 => .i64 | 3 => .ui64 | 4 => .i16 | 5 => .ui16 | 6 => .i8 | _ => .ui8
def encIType : IType → Nat
  | .i32 => 0 | .ui32 => 1 | .i64 => 2 | .ui64 => 3 | .i16 => 4 | .ui16 => 5 | .i8 => 6 | .ui8 => 7

def decFType : Nat → Option FType
  | 0 => some .f | 1 => some .d | 2 => some .h | 3 => some .bf | _ => none
def encFType : FType → Nat
  | .f => 0 | .d => 1 | .h => 2 | .bf => 3

def decICond : Nat → Option ICond
  | 0 => some .eq | 1 => some .ne | 2 => some .lt | 3 => some .le | 4 => some .gt | 5 => some .ge
  | _ => none
def encICond : ICond → Nat
  | .eq => 0 | .ne => 1 | .lt => 2 | .le => 3 | .gt => 4 | .ge => 5

def decFCond (n : Nat) : FCond :=
  match n with
  | 0 => .eq | 1 => .ne | 2 => .lt | 3 => .le | 4 => .gt | 5 => .ge | 6 => .un | _ => .ord
def encFCond : FCond → Nat
  | .eq => 0 | .ne => 1 | .lt => 2 | .le => 3 | .gt => 4 | .ge => 5 | .un => 6 | .ord => 7

def decCvt (n : Nat) : CvtType :=
  match n with
  | 0 => .f | 1 => .d | 2 => .h | 3 => .bf | 4 => .i32 | 5 => .ui32 | 6 => .i64 | _ => .ui64
def encCvt : CvtType → Nat
  | .f => 0 | .d => 1 | .h => 2 | .bf => 3 | .i32 => 4 | .ui32 => 5 | .i64 => 6 | .ui64 => 7

def decElem : Nat → Option Elem
  | 0 => some .e4m3 | 1 => some .e5m2 | 2 => some .e3m2 | 3 => some .e2m3 | 4 => some .mxi8
  | 5 => some .i8 | 6 => some .ui8 | 7 => some .e2m1 | 8 => some .i4 | 9 => some .ui4
  | 10 => some .h | 11 => some .bf | 12 => some .i16 | 13 => some .ui16
  | _ => none
def encElem : Elem → Nat
  | .e4m3 => 0 | .e5m2 => 1 | .e3m2 => 2 | .e2m3 => 3 | .mxi8 => 4 | .i8 => 5 | .ui8 => 6
  | .e2m1 => 7 | .i4 => 8 | .ui4 => 9 | .h => 10 | .bf => 11 | .i16 => 12 | .ui16 => 13

def decSgn : Nat → Option SgnOp
  | 0 => some .cpy | 1 => some .neg | 2 => some .abs | 3 => some .xor | _ => none
def encSgn : SgnOp → Nat
  | .cpy => 0 | .neg => 1 | .abs => 2 | .xor => 3

def decMovi : Nat → Option MoviKind
  | 0 => some .i32 | 1 => some .ui32 | 2 => some .i64 | 3 => some .ui64 | 8 => some .f | 10 => some .d
  | _ => none
def encMovi : MoviKind → Nat
  | .i32 => 0 | .ui32 => 1 | .i64 => 2 | .ui64 => 3 | .f => 8 | .d => 10

def decMovl : Nat → Option MovlKind
  | 2 => some .i64 | 3 => some .ui64 | 10 => some .d | _ => none
def encMovl : MovlKind → Nat
  | .i64 => 2 | .ui64 => 3 | .d => 10

def decIdSel : Nat → Option IdSel
  | 0 => some .lane | 1 => some .wave | 2 => some .bx | 3 => some .by | 4 => some .bz | 5 => some .gx
  | 6 => some .gy | 7 => some .gz | 8 => some .bl | 9 => some .rank | 10 => some .gtid | 11 => some .nw
  | 12 => some .tsize | 13 => some .blw | _ => none
def encIdSel : IdSel → Nat
  | .lane => 0 | .wave => 1 | .bx => 2 | .by => 3 | .bz => 4 | .gx => 5 | .gy => 6 | .gz => 7 | .bl => 8
  | .rank => 9 | .gtid => 10 | .nw => 11 | .tsize => 12 | .blw => 13

def decShfl (n : Nat) : ShflMode :=
  match n with | 0 => .idx | 1 => .up | 2 => .down | _ => .xor
def encShfl : ShflMode → Nat
  | .idx => 0 | .up => 1 | .down => 2 | .xor => 3

def decVote : Nat → Option VoteOp
  | 0 => some .all | 1 => some .any | 2 => some .uni | 3 => some .ballot | _ => none
def encVote : VoteOp → Nat
  | .all => 0 | .any => 1 | .uni => 2 | .ballot => 3

def decBcast : Nat → Option BcastMode
  | 0 => some .lane | 1 => some .first | 2 => some .last | _ => none
def encBcast : BcastMode → Nat
  | .lane => 0 | .first => 1 | .last => 2

def decRType : Nat → Option RType
  | 0 => some .f | 1 => some .d | 2 => some .h | 3 => some .bf | 4 => some .i32 | 5 => some .ui32
  | _ => none
def encRType : RType → Nat
  | .f => 0 | .d => 1 | .h => 2 | .bf => 3 | .i32 => 4 | .ui32 => 5

def decRedOp : Nat → Option RedOp
  | 0 => some .sum | 1 => some .min | 2 => some .max | _ => none
def encRedOp : RedOp → Nat
  | .sum => 0 | .min => 1 | .max => 2

def decBrField : Nat → Option BrField
  | 0 => some .gen | 1 => some .arr | 2 => some .exp | 3 => some .flg | 4 => some .st | _ => none
def encBrField : BrField → Nat
  | .gen => 0 | .arr => 1 | .exp => 2 | .flg => 3 | .st => 4

def decTileFmt : Nat → Option TileFmt
  | 0 => some .f | 1 => some .bf | 2 => some .h | _ => none
def encTileFmt : TileFmt → Nat
  | .f => 0 | .bf => 1 | .h => 2

def decTflg : Nat → Option TflgOp
  | 0 => some .rd | 1 => some .clr | 2 => some .mrg | 3 => some .rdc | _ => none
def encTflg : TflgOp → Nat
  | .rd => 0 | .clr => 1 | .mrg => 2 | .rdc => 3

def decAtomOp (n : Nat) : AtomOp :=
  match n with
  | 0 => .xchg | 1 => .add | 2 => .fadd | 3 => .smin | 4 => .smax | 5 => .and | 6 => .or | _ => .xor
def encAtomOp : AtomOp → Nat
  | .xchg => 0 | .add => 1 | .fadd => 2 | .smin => 3 | .smax => 4 | .and => 5 | .or => 6 | .xor => 7

def decFolSel : Nat → Option FolSel
  | 0 => some .len | 1 => some .frm | 2 => some .g0 | 3 => some .diam | 4 => some .fail | _ => none
def encFolSel : FolSel → Nat
  | .len => 0 | .frm => 1 | .g0 => 2 | .diam => 3 | .fail => 4

/-- Control-register numbers (01 R13). -/
def decCsr : Nat → Option Csr
  | 0 => some .ths | 1 => some .wvs | 2 => some .winset | 3 => some .pkr | 4 => some .tcause
  | 5 => some .taddr | 6 => some .cap | 7 => some .impgen | 8 => some .mapgen | _ => none
def encCsr : Csr → Nat
  | .ths => 0 | .wvs => 1 | .winset => 2 | .pkr => 3 | .tcause => 4 | .taddr => 5 | .cap => 6
  | .impgen => 7 | .mapgen => 8

def decSize : Nat → Option Size
  | 0 => some .b8 | 1 => some .b16 | 2 => some .b32 | 3 => some .b64 | 4 => some .b128 | _ => none
def encSize : Size → Nat
  | .b8 => 0 | .b16 => 1 | .b32 => 2 | .b64 => 3 | .b128 => 4

def decSpace : Nat → Option Space
  | 0 => some .slice | 1 => some .cluster | 2 => some .die | 3 => some .main | 4 => some .peer | _ => none
def encSpace : Space → Nat
  | .slice => 0 | .cluster => 1 | .die => 2 | .main => 3 | .peer => 4

def decOrder (n : Nat) : Order :=
  match n with | 0 => .plain | 1 => .acq | 2 => .rel | _ => .acqRel
def encOrder : Order → Nat
  | .plain => 0 | .acq => 1 | .rel => 2 | .acqRel => 3

def decScope : Nat → Option Scope
  | 0 => some .wave | 1 => some .block | 2 => some .team | 3 => some .device | 4 => some .pod | _ => none
def encScope : Scope → Nat
  | .wave => 0 | .block => 1 | .team => 2 | .device => 3 | .pod => 4

/-! ## Shapes: what an opcode and sub make of the rest of the word -/

/-- How the remaining fields of a word are read, and the instruction they make. -/
inductive Shape where
  /-- R format -/
  | r (mk : RForm → Instr)
  /-- R format with a barrier literal in A[4:0] (08 R163) -/
  | rBar (mk : Fin 32 → RForm → Instr)
  /-- R format with a semaphore literal in A[5:0] (17 R309) -/
  | rSem (mk : Fin 64 → RForm → Instr)
  /-- R format with a tile literal in A (TFLG, 09 R188) -/
  | rTileA (mk : Fin 16 → RForm → Instr)
  /-- R format with a tile literal in D (09 R188) -/
  | rTileD (mk : Fin 16 → RForm → Instr)
  /-- M format -/
  | m (sz : Size) (mk : MForm → Instr)
  /-- M format with a quarantined-register literal in D (QST) -/
  | mQ (sz : Size) (mk : Fin 8 → MForm → Instr)
  /-- I format; `none` is a reserved immediate or operand -/
  | i (mk : Opnd → Opnd → W32 → Option Instr)
  /-- I format with a quarantined-register literal in D (QRD) -/
  | iQ (mk : Fin 8 → Opnd → W32 → Option Instr)
  /-- the two words of MOVL -/
  | l (mk : Opnd → W64 → Instr)

/-- An operand for the probe of a shape. -/
def RForm.blank : RForm := ⟨.zero, .zero, .zero, .zero, 0, false, .rne, false, false, 0⟩

def MForm.blank : MForm := ⟨.b8, .zero, .zero, none, .slice, false, .plain, .wave, 0, false, 0⟩

/-- The instruction of a shape with blank operands: enough for `Instr.subOk`, which looks at sub and space only. -/
def Shape.probe (w : Nat) : Shape → Option Instr
  | .r mk => some (mk .blank)
  | .rBar mk => some (mk 0 .blank)
  | .rSem mk => some (mk 0 .blank)
  | .rTileA mk => some (mk 0 .blank)
  | .rTileD mk => some (mk 0 .blank)
  | .m sz mk =>
    some (mk ⟨sz, .zero, .zero, none, (decSpace (fld w 20 3)).getD .slice, false, .plain, .wave, 0, false, 0⟩)
  | .mQ sz mk => some (mk 0 ⟨sz, .zero, .zero, none, .main, false, .plain, .wave, 0, false, 0⟩)
  | .i _ | .iQ _ | .l _ => none

def subI (mk : IType → RForm → Instr) (sub : Nat) : Option Shape :=
  if sub / 8 = 0 then some (.r (mk (decIType sub))) else none

def subF (mk : FType → RForm → Instr) (sub : Nat) : Option Shape :=
  if sub / 8 = 0 then (decFType sub).map fun t => .r (mk t) else none

def sub0 (sh : Shape) (sub : Nat) : Option Shape := if sub = 0 then some sh else none

/-- The element code in sub[3:0] with sub[5:4] = 0. -/
def subE (mk : Elem → RForm → Instr) (sub : Nat) : Option Shape :=
  if sub / 16 = 0 then (decElem sub).map fun e => .r (mk e) else none

/-- The element code in sub[3:0] with J in sub[5:4]. -/
def subEJ (mk : Elem → Fin 4 → RForm → Instr) (sub : Nat) : Option Shape :=
  (decElem (sub % 16)).map fun e => .r (mk e ⟨sub / 16 % 4, Nat.mod_lt _ (by decide)⟩)

/-- The size code in sub[2:0], with the rest of sub. -/
def subM (mk : Nat → Option (MForm → Instr)) (sub : Nat) : Option Shape :=
  match decSize (sub % 8), mk (sub / 8) with
  | some sz, some f => some (.m sz f)
  | _, _ => none

/-- An I-format instruction whose D and A are the zero operand. -/
def iNone (mk : W32 → Option Instr) : Shape :=
  .i fun d a imm => if d.isZero && a.isZero then mk imm else none

def odd (n : Nat) : Bool := n % 2 == 1

/-- Opcodes 0x00 to 0x1F (04 R80). -/
def shapes0 (op : Nat) : Option (Nat → Option Shape) :=
  match op with
  | 0x00 => some (subI .iadd) | 0x01 => some (subI .isub) | 0x02 => some (subI .imul)
  | 0x03 => some (subI .imulhi) | 0x04 => some (subI .imad) | 0x05 => some (subI .idiv)
  | 0x06 => some (subI .irem) | 0x07 => some (subI .imin) | 0x08 => some (subI .imax)
  | 0x09 => some (subI .iabs) | 0x0A => some (subI .ineg) | 0x0B => some (subI .land)
  | 0x0C => some (subI .lor) | 0x0D => some (subI .lxor) | 0x0E => some (subI .landn)
  | 0x0F => some (subI .lnot)
  | _ => none

def shapes1 (op : Nat) : Option (Nat → Option Shape) :=
  match op with
  | 0x10 => some (subI .shl) | 0x11 => some (subI .shr) | 0x12 => some (subI .sar)
  | 0x13 => some fun sub => if sub / 16 = 0 then some (.r (.rot (decIType (sub % 8)) (odd (sub / 8)))) else none
  | 0x14 => some (subI .bfx) | 0x15 => some (subI .bfi) | 0x16 => some (subI .popc)
  | 0x17 => some (subI .clz) | 0x18 => some (subI .ctz) | 0x19 => some (subI .brev)
  | 0x1A => some fun sub => (decICond (sub / 8)).map fun cc => .r (.icmp cc (decIType (sub % 8)))
  | 0x1B => some (subI .sel) | 0x1C => some (subI .mov)
  | 0x1D => some fun sub => (decMovi sub).map fun k =>
      .i fun d a imm => if a.isZero then some (.movi k d imm) else none
  | 0x1E => some fun sub => (decMovl sub).map fun k => .l (.movl k)
  | 0x1F => some fun sub =>
      if h : sub / 8 < 5 then some (.r (.lea (decIType (sub % 8)) ⟨sub / 8, h⟩)) else none
  | _ => none

/-- Opcodes 0x20 to 0x2F (05 R97). -/
def shapes2 (op : Nat) : Option (Nat → Option Shape) :=
  match op with
  | 0x20 => some (subF .fadd) | 0x21 => some (subF .fsub) | 0x22 => some (subF .fmul)
  | 0x23 => some (subF .fma) | 0x24 => some (subF .fmin) | 0x25 => some (subF .fmax)
  | 0x26 => some fun sub => (decFType (sub % 8)).map fun t => .r (.fcmp (decFCond (sub / 8)) t)
  | 0x27 => some (subF .fclass) | 0x28 => some (subF .fdiv) | 0x29 => some (subF .fsqrt)
  | 0x2A => some (subF .frcp) | 0x2B => some (subF .frsq) | 0x2C => some (subF .fexp)
  | 0x2D => some (subF .fexp2) | 0x2E => some (subF .flog) | 0x2F => some (subF .flog2)
  | _ => none

/-- Opcodes 0x30 to 0x3E (05 R97). -/
def shapes3 (op : Nat) : Option (Nat → Option Shape) :=
  match op with
  | 0x30 => some (subF .ferf) | 0x31 => some (subF .ferfc) | 0x32 => some (subF .fint)
  | 0x33 => some fun sub =>
      if sub / 16 = 0 then (decFType (sub % 8)).map fun t => .r (.fscale t (odd (sub / 8))) else none
  | 0x34 => some fun sub =>
      if sub / 16 = 0 then (decFType (sub % 8)).map fun t => .r (.ffrexp t (odd (sub / 8))) else none
  | 0x35 => some fun sub => some (.r (.cvt (decCvt (sub / 8)) (decCvt (sub % 8))))
  | 0x36 => some (sub0 (.r .fxrd)) | 0x37 => some (sub0 (.r .fxclr)) | 0x38 => some (sub0 (.r .fxen))
  | 0x39 => some (subE .dot4) | 0x3A => some (subE .dot8)
  | 0x3B => some (subEJ .pack) | 0x3C => some (subEJ .unpack)
  | 0x3D => some fun sub =>
      if sub / 32 = 0 then (decElem (sub % 16)).map fun e => .r (.mxq e (odd (sub / 16))) else none
  | 0x3E => some fun sub =>
      match decFType (sub % 8), decSgn (sub / 8) with
      | some t, some o => some (.r (.fsgn t o))
      | _, _ => none
  | _ => none

/-- Opcodes 0x40 to 0x4C (06 R121, R131). -/
def shapes4 (op : Nat) : Option (Nat → Option Shape) :=
  match op with
  | 0x40 => some (sub0 (iNone fun imm => some (.bra imm)))
  | 0x41 => some fun sub => if sub / 2 = 0 then
      some (.i fun d a imm => if d.isZero then some (.brc (odd sub) a imm) else none) else none
  | 0x42 => some (sub0 (.r .jmpi))
  | 0x43 => some (sub0 (iNone fun imm => some (.call imm)))
  | 0x44 => some (sub0 (.r .calli)) | 0x45 => some (sub0 (.r .ret)) | 0x46 => some (sub0 (.r .exit))
  | 0x47 => some (sub0 (.r .nop))
  | 0x48 => some (sub0 (iNone fun imm => some (.elb imm)))
  | 0x49 => some (subM fun u => if odd (u / 2) then none else some (.ld (odd u) (odd (u / 4))))
  | 0x4A => some (subM fun u => if u % 4 = 0 then some (.st (odd (u / 4))) else none)
  | 0x4B => some (subM fun u => if odd (u / 2) then none else some (.lds (odd u) (odd (u / 4))))
  | 0x4C => some (subM fun u => if u % 4 = 0 then some (.sts (odd (u / 4))) else none)
  | _ => none

/-- Opcodes 0x50 to 0x5C (08 R163, R170). -/
def shapes5 (op : Nat) : Option (Nat → Option Shape) :=
  match op with
  | 0x50 => some fun sub => (decIdSel sub).map fun k => .r (.idrd k)
  | 0x51 => some fun sub =>
      if sub / 8 = 0 then some (.r (.shfl (decShfl (sub % 4)) (odd (sub / 4)))) else none
  | 0x52 => some fun sub => (decVote sub).map fun o => .r (.vote o)
  | 0x53 => some fun sub =>
      if sub / 8 = 0 then (decBcast (sub % 4)).map fun o => .r (.bcast o (odd (sub / 4))) else none
  | 0x54 => some fun sub =>
      match decRType (sub % 8), decRedOp (sub / 8) with
      | some t, some o => some (.r (.wred t o))
      | _, _ => none
  | 0x55 => some fun sub =>
      match decRType (sub % 8), decRedOp (sub / 8 % 4) with
      | some t, some o => some (.r (.wscan t o (odd (sub / 32))))
      | _, _ => none
  | 0x56 => some fun sub => if sub / 2 = 0 then some (.r (.actm (odd sub))) else none
  | 0x57 => some (sub0 (.rBar .binit)) | 0x58 => some (sub0 (.rBar .barv))
  | 0x59 => some (sub0 (.rBar .bwait)) | 0x5A => some (sub0 (.rBar .barw))
  | 0x5B => some (sub0 (.rBar .binval))
  | 0x5C => some fun sub => (decBrField sub).map fun f => .rBar (.brdf f)
  | _ => none

/-- Opcodes 0x60 to 0x66 (09 R188). -/
def shapes6 (op : Nat) : Option (Nat → Option Shape) :=
  match op with
  | 0x60 => some fun sub => if sub / 2 = 0 then some (.rTileD (.mma (odd sub))) else none
  | 0x61 => some fun sub => if sub / 2 = 0 then some (.rTileD (.mmasp (odd sub))) else none
  | 0x62 => some (sub0 (.rTileD .tzero))
  | 0x63 => some fun sub => (decTileFmt sub).map fun f => .rTileD (.tld f)
  | 0x64 => some fun sub => (decTileFmt sub).map fun f => .rTileD (.tst f)
  | 0x65 => some fun sub => (decTflg sub).map fun o => .rTileA (.tflg o)
  | 0x66 => some (sub0 (.r .lrel))
  | _ => none

/-- Opcodes 0x70 to 0x7A (13 R260). -/
def shapes7 (op : Nat) : Option (Nat → Option Shape) :=
  match op with
  | 0x70 => some (subM fun u => if u / 4 = 0 then some (.gath (odd u) (odd (u / 2))) else none)
  | 0x71 => some (subM fun u => if u = 0 ∨ u = 2 then some (.scat (odd (u / 2))) else none)
  | 0x72 => some fun sub => if sub / 2 = 0 then some (.m .b8 (.pgreq (odd sub))) else none
  | 0x73 => some (sub0 (.m .b8 .dscd))
  | 0x74 => some fun sub => if h : sub < 16 then some (.m .b8 (.fence ⟨sub, h⟩)) else none
  | 0x75 => some (subM fun u => some (.atom (decAtomOp u)))
  | 0x76 => some (subM fun u => if u = 0 then some .cas else none)
  | 0x77 => some (subM fun u => some (.red (decAtomOp u)))
  | 0x78 => some (subM fun u => some (.redx (decAtomOp u)))
  | 0x79 => some (sub0 (.r .ordfl))
  | 0x7A => some (sub0 (.m .b8 .pgqry))
  | _ => none

/-- Opcodes 0x90 to 0x99 (17 R309). -/
def shapes9 (op : Nat) : Option (Nat → Option Shape) :=
  match op with
  | 0x90 => some (sub0 (.r .cpyj)) | 0x91 => some (sub0 (.r .gatj)) | 0x92 => some (sub0 (.r .dgstj))
  | 0x93 => some (sub0 (.rSem .semadd)) | 0x94 => some (sub0 (.rSem .semset))
  | 0x95 => some fun sub => if sub / 2 = 0 then some (.rSem (.semrd (odd sub))) else none
  | 0x96 => some (sub0 (.rSem .semwt))
  | 0x97 => some (sub0 (.r .flgclr)) | 0x98 => some (sub0 (.r .flgrd)) | 0x99 => some (sub0 (.r .jcan))
  | _ => none

/-- Opcodes 0xA0 to 0xA4 (20 R419). -/
def shapesA (op : Nat) : Option (Nat → Option Shape) :=
  match op with
  | 0xA0 => some (sub0 (.r .tready)) | 0xA1 => some (sub0 (.r .tstat))
  | 0xA2 => some (subM fun u => if u / 2 = 0 then some (.xld (odd u)) else none)
  | 0xA3 => some (subM fun u => if u = 0 then some .xst else none)
  | 0xA4 => some fun sub => (decFolSel sub).map fun k => .r (.folrd k)
  | _ => none

/-- The register number of CSRRD and CSRWR: imm[11:0], with imm[31:12] = 0 (19 R365). -/
def immCsr (imm : W32) : Option Csr := decCsr imm.toNat

/-- Opcodes 0xB0 to 0xB7 (19 R364). -/
def shapesB (op : Nat) : Option (Nat → Option Shape) :=
  match op with
  | 0xB0 => some (sub0 (iNone fun imm =>
      if imm.toNat / 2 ^ 24 = 0 then some (.trap (BitVec.ofNat 24 imm.toNat)) else none))
  | 0xB1 => some fun sub => if sub / 2 = 0 then some (.r (.rte (odd sub))) else none
  | 0xB2 => some (sub0 (.i fun d a imm => if a.isZero then (immCsr imm).map (.csrrd · d) else none))
  | 0xB3 => some (sub0 (.i fun d a imm => if d.isZero then (immCsr imm).map (.csrwr · a) else none))
  | 0xB4 => some (sub0 (.iQ fun q a imm =>
      if h : imm.toNat < 7 then (if a.isZero then some (.qrd q ⟨imm.toNat, h⟩) else none) else none))
  | 0xB5 => some fun sub => if sub = 3 then some (.mQ .b64 .qst) else none
  | 0xB6 => some (sub0 (.r .restart)) | 0xB7 => some (sub0 (.r .pkwr))
  | _ => none

/-- The opcode map (03 R64): what sub makes of each assigned opcode of a wave's stream. -/
def shapes (op : Nat) : Option (Nat → Option Shape) :=
  match op / 16 with
  | 0 => shapes0 op | 1 => shapes1 op | 2 => shapes2 op | 3 => shapes3 op | 4 => shapes4 op
  | 5 => shapes5 op | 6 => shapes6 op | 7 => shapes7 op | 9 => shapes9 op | 10 => shapesA op
  | 11 => shapesB op
  | _ => none

/-! ## Reading the fields (03 R53, R55, R56) -/

def decPred (w : Nat) : Fin 16 × Bool := (⟨fld w 10 4, Nat.mod_lt _ (by decide)⟩, odd (fld w 9 1))

/-- The R-format fields, with D and A given. -/
def decRWith (w : Nat) (d a : Opnd) : Option RForm :=
  match decOpnd (fld w 23 9), decOpnd (fld w 14 9), decRm (fld w 6 3), fld w 0 1 with
  | some b, some c, some rm, 0 =>
    some ⟨d, a, b, c, (decPred w).1, (decPred w).2, rm, odd (fld w 5 1), odd (fld w 4 1),
      ⟨fld w 1 3, Nat.mod_lt _ (by decide)⟩⟩
  | _, _, _, _ => none

def decR (w : Nat) : Option RForm :=
  match decOpnd (fld w 41 9), decOpnd (fld w 32 9) with
  | some d, some a => decRWith w d a
  | _, _ => none

/-- The R-format fields when A is a literal. -/
def decRA (w : Nat) : Option RForm := (decOpnd (fld w 41 9)).bind fun d => decRWith w d .zero

/-- The R-format fields when D is a literal. -/
def decRD (w : Nat) : Option RForm := (decOpnd (fld w 32 9)).bind fun a => decRWith w .zero a

/-- B of an M-format word: an m-register or the zero operand (03 R57). -/
def decMask (n : Nat) : Option (Option (Fin 16)) :=
  match decOpnd n with
  | some (.m k) => some (some k)
  | some .zero => some none
  | _ => none

def decMWith (w : Nat) (sz : Size) (d : Opnd) : Option MForm :=
  match decOpnd (fld w 32 9), decMask (fld w 23 9), decSpace (fld w 20 3), decScope (fld w 14 3), fld w 0 1 with
  | some a, some b, some sp, some sc, 0 =>
    some ⟨sz, d, a, b, sp, odd (fld w 19 1), decOrder (fld w 17 2), sc, (decPred w).1, (decPred w).2,
      BitVec.ofNat 8 (fld w 1 8)⟩
  | _, _, _, _, _ => none

def decM (w : Nat) (sz : Size) : Option MForm := (decOpnd (fld w 41 9)).bind (decMWith w sz)

/-- The instruction that a shape reads from the word; `none` where a field is reserved. -/
def Shape.read (w lit : Nat) : Shape → Option Instr
  | .r mk => (decR w).map mk
  | .rBar mk => if h : fld w 32 9 < 32 then (decRA w).map (mk ⟨fld w 32 9, h⟩) else none
  | .rSem mk => if h : fld w 32 9 < 64 then (decRA w).map (mk ⟨fld w 32 9, h⟩) else none
  | .rTileA mk => if h : fld w 32 9 < 16 then (decRA w).map (mk ⟨fld w 32 9, h⟩) else none
  | .rTileD mk => if h : fld w 41 9 < 16 then (decRD w).map (mk ⟨fld w 41 9, h⟩) else none
  | .m sz mk => (decM w sz).map mk
  | .mQ sz mk => if h : fld w 41 9 < 8 then (decMWith w sz .zero).map (mk ⟨fld w 41 9, h⟩) else none
  | .i mk =>
    match decOpnd (fld w 41 9), decOpnd (fld w 32 9) with
    | some d, some a => mk d a (BitVec.ofNat 32 (fld w 0 32))
    | _, _ => none
  | .iQ mk =>
    if h : fld w 41 9 < 8 then
      (decOpnd (fld w 32 9)).bind fun a => mk ⟨fld w 41 9, h⟩ a (BitVec.ofNat 32 (fld w 0 32))
    else none
  | .l mk =>
    if fld w 0 41 = 0 then (decOpnd (fld w 41 9)).map fun d => mk d (BitVec.ofNat 64 lit) else none

/-- What a field of a word with a reserved field names: the zero operand where it names nothing. -/
def looseOpnd (w k : Nat) : Opnd := (decOpnd (fld w k 9)).getD .zero

/-- An R-format word for its registers alone. -/
def looseR (w : Nat) : RForm :=
  ⟨looseOpnd w 41, looseOpnd w 32, looseOpnd w 23, looseOpnd w 14, (decPred w).1, (decPred w).2, .rne, false, false, 0⟩

/-- An M-format word for its registers alone. -/
def looseM (w : Nat) (sz : Size) : MForm :=
  ⟨sz, looseOpnd w 41, looseOpnd w 32, (decMask (fld w 23 9)).getD none, (decSpace (fld w 20 3)).getD .slice, odd (fld w 19 1),
    .plain, .wave, (decPred w).1, (decPred w).2, 0⟩

/-- An instruction with the registers that a word of the shape names, whatever its other fields hold. -/
def Shape.loose (w lit : Nat) : Shape → Instr
  | .r mk => mk (looseR w)
  | .rBar mk => mk 0 { looseR w with a := .zero }
  | .rSem mk => mk 0 { looseR w with a := .zero }
  | .rTileA mk => mk ⟨fld w 32 9 % 16, Nat.mod_lt _ (by decide)⟩ { looseR w with a := .zero }
  | .rTileD mk => mk ⟨fld w 41 9 % 16, Nat.mod_lt _ (by decide)⟩ { looseR w with d := .zero }
  | .m sz mk => mk (looseM w sz)
  | .mQ sz mk => mk ⟨fld w 41 9 % 8, Nat.mod_lt _ (by decide)⟩ { looseM w sz with d := .zero }
  | .i mk => (mk (looseOpnd w 41) (looseOpnd w 32) (BitVec.ofNat 32 (fld w 0 32))).getD
      (.mov .i32 { looseR 0 with d := looseOpnd w 41, a := looseOpnd w 32 })
  | .iQ mk => (mk ⟨fld w 41 9 % 8, Nat.mod_lt _ (by decide)⟩ .zero 0).getD (.qrd 0 0)
  | .l mk => mk (looseOpnd w 41) (BitVec.ofNat 64 lit)

/-- The registers for which a word that fails step 3 of 03 R66 waits before it traps (01 R24, log 64), as those of an
instruction. -/
def looseWave (w lit : Nat) : Option Instr := ((shapes (fld w 56 8)).bind fun f => f (fld w 50 6)).map (Shape.loose w lit)

/-- The decoder of a wave's instruction position (03 R65, R66 steps 1 to 3). `lit` is the word that follows, which
only MOVL reads. An opcode with no instruction in this stream decodes to the step that traps for it. -/
def decodeWave (w lit : Nat) : Except Reject Instr :=
  match shapes (fld w 56 8) with
  | none => .ok (.unassignedOpcode (BitVec.ofNat 64 w))
  | some f =>
    match f (fld w 50 6) with
    | none => .error .illegal
    | some sh =>
      if (sh.probe w).all Instr.subOk then
        match sh.read w lit with
        | some i => if i.fieldsOk then .ok i else .error .reserved
        | none => .error .reserved
      else .error .illegal

/-! ## Graph words (18 R334, R335, R337) -/

def decGuard (c : Nat) : Option Guard :=
  match c / 64 with
  | 0 => if c = 0 then some .always else none
  | 1 => some (.nz ⟨c % 64, Nat.mod_lt _ (by decide)⟩)
  | 2 => some (.z ⟨c % 64, Nat.mod_lt _ (by decide)⟩)
  | _ => none

def encGuard : Guard → Nat
  | .always => 0
  | .nz n => 64 + n.val
  | .z n => 128 + n.val

def cwOf (n : Nat) : Fin 64 := ⟨n % 64, Nat.mod_lt _ (by decide)⟩

/-- The operand bits of each graph opcode, with its reserved bits zero. -/
def decGraphOp (op : Nat) (g : Guard) (w : Nat) : Option Instr :=
  match op with
  | 0xC0 => some (.glaunch g (odd (fld w 47 1)) (BitVec.ofNat 40 (fld w 7 40)) (odd (fld w 6 1)) (cwOf (fld w 0 6)))
  | 0xC1 => if fld w 7 1 = 0 then
      some (.gcoll g (BitVec.ofNat 12 (fld w 36 12)) (BitVec.ofNat 12 (fld w 24 12))
        (BitVec.ofNat 16 (fld w 8 16)) (odd (fld w 6 1)) (cwOf (fld w 0 6))) else none
  | 0xC2 => some (.gphase g (BitVec.ofNat 48 (fld w 0 48)))
  | 0xC3 => some (.gif g (BitVec.ofNat 24 (fld w 24 24)) (BitVec.ofNat 24 (fld w 0 24)))
  | 0xC4 => some (.gwhile g (BitVec.ofNat 24 (fld w 24 24)) (BitVec.ofNat 24 (fld w 0 24)))
  | 0xC5 => if fld w 24 24 = 0 then some (.gjmp g (BitVec.ofNat 24 (fld w 0 24))) else none
  | 0xC6 =>
    match fld w 46 2 with
    | 0 => some (.gwaitgc g (.rel (BitVec.ofNat 46 (fld w 0 46))))
    | 1 => if fld w 6 40 = 0 then some (.gwaitgc g (.cw (cwOf (fld w 0 6)))) else none
    | _ => none
  | 0xC7 => if fld w 13 3 = 0 ∧ fld w 6 2 = 0 then
      some (.gwaitsem g (BitVec.ofNat 32 (fld w 16 32)) (BitVec.ofNat 5 (fld w 8 5)) (cwOf (fld w 0 6))) else none
  | 0xC8 => if fld w 32 9 = 0 then
      some (.gsetc g (cwOf (fld w 42 6)) (odd (fld w 41 1)) (BitVec.ofNat 32 (fld w 0 32))) else none
  | 0xC9 => if fld w 32 15 = 0 then some (.gsig g (odd (fld w 47 1)) (BitVec.ofNat 32 (fld w 0 32))) else none
  | 0xCA => if fld w 32 16 = 0 then some (.ghalt g (BitVec.ofNat 32 (fld w 0 32))) else none
  | _ => none

/-- The decoder of a graph-code stream. A word whose opcode is no graph opcode decodes to the step that faults for
it. -/
def decodeGraph (w : Nat) : Except Reject Instr :=
  if 0xC0 ≤ fld w 56 8 ∧ fld w 56 8 ≤ 0xCA then
    match (decGuard (fld w 48 8)).bind fun g => decGraphOp (fld w 56 8) g w with
    | some i => if i.fieldsOk then .ok i else .error .reserved
    | none => .error .reserved
  else .ok (.illegalGraphWord (BitVec.ofNat 64 w))

/-- The decoder on bytes: a graph word where the opcode is a graph opcode, a wave word otherwise. The stream itself
decides between `decodeWave` and `decodeGraph` when the machine fetches. -/
def decodeBytes (bs : List Byte) : Except Reject Instr :=
  if 0xC0 ≤ fld (wordOfBytes (bs.take 8)) 56 8 ∧ fld (wordOfBytes (bs.take 8)) 56 8 ≤ 0xCA then
    decodeGraph (wordOfBytes (bs.take 8))
  else decodeWave (wordOfBytes (bs.take 8)) (wordOfBytes ((bs.drop 8).take 8))

/-- What the decoder reads from an instruction whose bits are `w`, the first word in bits 63:0 and a second word in
bits 127:64. -/
def decodeTableWord (_nbits w : Nat) : Option Instr :=
  match decodeBytes (bytesOfWord 16 w) with
  | .ok i => some i
  | .error _ => none

/-! ## The encoder -/

def encCtl (r : RForm) : Nat :=
  2 * r.hint.val + 16 * bit r.sat + 32 * bit r.reuse + 64 * encRm r.rm + 512 * bit r.neg + 1024 * r.p.val

/-- An R-format word with D and A fields given. -/
def encRWith (op sub d a : Nat) (r : RForm) : Nat :=
  encCtl r + 2 ^ 14 * encOpnd r.c + 2 ^ 23 * encOpnd r.b + 2 ^ 32 * a + 2 ^ 41 * d + 2 ^ 50 * sub + 2 ^ 56 * op

def encR (op sub : Nat) (r : RForm) : List Nat := [encRWith op sub (encOpnd r.d) (encOpnd r.a) r]
def encRA (op sub a : Nat) (r : RForm) : List Nat := [encRWith op sub (encOpnd r.d) a r]
def encRD (op sub d : Nat) (r : RForm) : List Nat := [encRWith op sub d (encOpnd r.a) r]

def encMask : Option (Fin 16) → Nat
  | none => 352
  | some n => 320 + n.val

def encMWith (op sub d : Nat) (m : MForm) : Nat :=
  2 * m.off.toNat + 512 * bit m.neg + 1024 * m.p.val + 2 ^ 14 * encScope m.scope + 2 ^ 17 * encOrder m.order
    + 2 ^ 19 * bit m.flagged + 2 ^ 20 * encSpace m.space + 2 ^ 23 * encMask m.b + 2 ^ 32 * encOpnd m.a
    + 2 ^ 41 * d + 2 ^ 50 * sub + 2 ^ 56 * op

/-- A size-coded M-format word; `u` is sub[5:3]. -/
def encM (op u : Nat) (m : MForm) : List Nat := [encMWith op (8 * u + encSize m.sz) (encOpnd m.d) m]
/-- An M-format word whose sub is the instruction's own. -/
def encMS (op sub : Nat) (m : MForm) : List Nat := [encMWith op sub (encOpnd m.d) m]

def encI (op sub : Nat) (d a : Nat) (imm : Nat) : List Nat :=
  [imm + 2 ^ 32 * a + 2 ^ 41 * d + 2 ^ 50 * sub + 2 ^ 56 * op]

def encG (op : Nat) (g : Guard) (operand : Nat) : List Nat := [operand + 2 ^ 48 * encGuard g + 2 ^ 56 * op]

/-- The words of a well-formed instruction. The steps that are no words have none. -/
def encode : Instr → List Nat
  | .iadd t r => encR 0x00 (encIType t) r
  | .isub t r => encR 0x01 (encIType t) r
  | .imul t r => encR 0x02 (encIType t) r
  | .imulhi t r => encR 0x03 (encIType t) r
  | .imad t r => encR 0x04 (encIType t) r
  | .idiv t r => encR 0x05 (encIType t) r
  | .irem t r => encR 0x06 (encIType t) r
  | .imin t r => encR 0x07 (encIType t) r
  | .imax t r => encR 0x08 (encIType t) r
  | .iabs t r => encR 0x09 (encIType t) r
  | .ineg t r => encR 0x0A (encIType t) r
  | .land t r => encR 0x0B (encIType t) r
  | .lor t r => encR 0x0C (encIType t) r
  | .lxor t r => encR 0x0D (encIType t) r
  | .landn t r => encR 0x0E (encIType t) r
  | .lnot t r => encR 0x0F (encIType t) r
  | .shl t r => encR 0x10 (encIType t) r
  | .shr t r => encR 0x11 (encIType t) r
  | .sar t r => encR 0x12 (encIType t) r
  | .rot t right r => encR 0x13 (encIType t + 8 * bit right) r
  | .bfx t r => encR 0x14 (encIType t) r
  | .bfi t r => encR 0x15 (encIType t) r
  | .popc t r => encR 0x16 (encIType t) r
  | .clz t r => encR 0x17 (encIType t) r
  | .ctz t r => encR 0x18 (encIType t) r
  | .brev t r => encR 0x19 (encIType t) r
  | .icmp cc t r => encR 0x1A (encIType t + 8 * encICond cc) r
  | .sel t r => encR 0x1B (encIType t) r
  | .mov t r => encR 0x1C (encIType t) r
  | .movi k d imm => encI 0x1D (encMovi k) (encOpnd d) 352 imm.toNat
  | .movl k d lit => [2 ^ 41 * encOpnd d + 2 ^ 50 * encMovl k + 2 ^ 56 * 0x1E, lit.toNat]
  | .lea t sc r => encR 0x1F (encIType t + 8 * sc.val) r
  | .fadd t r => encR 0x20 (encFType t) r
  | .fsub t r => encR 0x21 (encFType t) r
  | .fmul t r => encR 0x22 (encFType t) r
  | .fma t r => encR 0x23 (encFType t) r
  | .fmin t r => encR 0x24 (encFType t) r
  | .fmax t r => encR 0x25 (encFType t) r
  | .fcmp cc t r => encR 0x26 (encFType t + 8 * encFCond cc) r
  | .fclass t r => encR 0x27 (encFType t) r
  | .fdiv t r => encR 0x28 (encFType t) r
  | .fsqrt t r => encR 0x29 (encFType t) r
  | .frcp t r => encR 0x2A (encFType t) r
  | .frsq t r => encR 0x2B (encFType t) r
  | .fexp t r => encR 0x2C (encFType t) r
  | .fexp2 t r => encR 0x2D (encFType t) r
  | .flog t r => encR 0x2E (encFType t) r
  | .flog2 t r => encR 0x2F (encFType t) r
  | .ferf t r => encR 0x30 (encFType t) r
  | .ferfc t r => encR 0x31 (encFType t) r
  | .fint t r => encR 0x32 (encFType t) r
  | .fscale t e8 r => encR 0x33 (encFType t + 8 * bit e8) r
  | .ffrexp t exp r => encR 0x34 (encFType t + 8 * bit exp) r
  | .cvt dst src r => encR 0x35 (encCvt src + 8 * encCvt dst) r
  | .fxrd r => encR 0x36 0 r
  | .fxclr r => encR 0x37 0 r
  | .fxen r => encR 0x38 0 r
  | .dot4 e r => encR 0x39 (encElem e) r
  | .dot8 e r => encR 0x3A (encElem e) r
  | .pack e j r => encR 0x3B (encElem e + 16 * j.val) r
  | .unpack e j r => encR 0x3C (encElem e + 16 * j.val) r
  | .mxq e scale r => encR 0x3D (encElem e + 16 * bit scale) r
  | .fsgn t op r => encR 0x3E (encFType t + 8 * encSgn op) r
  | .bra imm => encI 0x40 0 352 352 imm.toNat
  | .brc z a imm => encI 0x41 (bit z) 352 (encOpnd a) imm.toNat
  | .jmpi r => encR 0x42 0 r
  | .call imm => encI 0x43 0 352 352 imm.toNat
  | .calli r => encR 0x44 0 r
  | .ret r => encR 0x45 0 r
  | .exit r => encR 0x46 0 r
  | .nop r => encR 0x47 0 r
  | .elb imm => encI 0x48 0 352 352 imm.toNat
  | .ld sx a64 m => encM 0x49 (bit sx + 4 * bit a64) m
  | .st a64 m => encM 0x4A (4 * bit a64) m
  | .lds sx a64 m => encM 0x4B (bit sx + 4 * bit a64) m
  | .sts a64 m => encM 0x4C (4 * bit a64) m
  | .idrd k r => encR 0x50 (encIdSel k) r
  | .shfl mode b64 r => encR 0x51 (encShfl mode + 4 * bit b64) r
  | .vote op r => encR 0x52 (encVote op) r
  | .bcast mode b64 r => encR 0x53 (encBcast mode + 4 * bit b64) r
  | .wred t op r => encR 0x54 (encRType t + 8 * encRedOp op) r
  | .wscan t op excl r => encR 0x55 (encRType t + 8 * encRedOp op + 32 * bit excl) r
  | .actm run r => encR 0x56 (bit run) r
  | .binit b r => encRA 0x57 0 b.val r
  | .barv b r => encRA 0x58 0 b.val r
  | .bwait b r => encRA 0x59 0 b.val r
  | .barw b r => encRA 0x5A 0 b.val r
  | .binval b r => encRA 0x5B 0 b.val r
  | .brdf f b r => encRA 0x5C (encBrField f) b.val r
  | .mma z t r => encRD 0x60 (bit z) t.val r
  | .mmasp z t r => encRD 0x61 (bit z) t.val r
  | .tzero t r => encRD 0x62 0 t.val r
  | .tld f t r => encRD 0x63 (encTileFmt f) t.val r
  | .tst f t r => encRD 0x64 (encTileFmt f) t.val r
  | .tflg op t r => encRA 0x65 (encTflg op) t.val r
  | .lrel r => encR 0x66 0 r
  | .gath sx rp m => encM 0x70 (bit sx + 2 * bit rp) m
  | .scat rp m => encM 0x71 (2 * bit rp) m
  | .pgreq w m => encMS 0x72 (bit w) m
  | .dscd m => encMS 0x73 0 m
  | .fence mask m => encMS 0x74 mask.val m
  | .atom op m => encM 0x75 (encAtomOp op) m
  | .cas m => encM 0x76 0 m
  | .red op m => encM 0x77 (encAtomOp op) m
  | .redx op m => encM 0x78 (encAtomOp op) m
  | .ordfl r => encR 0x79 0 r
  | .pgqry m => encMS 0x7A 0 m
  | .cpyj r => encR 0x90 0 r
  | .gatj r => encR 0x91 0 r
  | .dgstj r => encR 0x92 0 r
  | .semadd k r => encRA 0x93 0 k.val r
  | .semset k r => encRA 0x94 0 k.val r
  | .semrd st k r => encRA 0x95 (bit st) k.val r
  | .semwt k r => encRA 0x96 0 k.val r
  | .flgclr r => encR 0x97 0 r
  | .flgrd r => encR 0x98 0 r
  | .jcan r => encR 0x99 0 r
  | .tready r => encR 0xA0 0 r
  | .tstat r => encR 0xA1 0 r
  | .xld sx m => encM 0xA2 (bit sx) m
  | .xst m => encM 0xA3 0 m
  | .folrd k r => encR 0xA4 (encFolSel k) r
  | .trap code => encI 0xB0 0 352 352 code.toNat
  | .rte next r => encR 0xB1 (bit next) r
  | .csrrd n d => encI 0xB2 0 (encOpnd d) 352 (encCsr n)
  | .csrwr n a => encI 0xB3 0 352 (encOpnd a) (encCsr n)
  | .qrd q k => encI 0xB4 0 q.val 352 k.val
  | .qst q m => [encMWith 0xB5 3 q.val m]
  | .restart r => encR 0xB6 0 r
  | .pkwr r => encR 0xB7 0 r
  | .glaunch g rel addr sten cw =>
    encG 0xC0 g (2 ^ 47 * bit rel + 2 ^ 7 * addr.toNat + 64 * bit sten + cw.val)
  | .gcoll g first cntm1 step sten cw =>
    encG 0xC1 g (2 ^ 36 * first.toNat + 2 ^ 24 * cntm1.toNat + 2 ^ 8 * step.toNat + 64 * bit sten + cw.val)
  | .gphase g budget => encG 0xC2 g budget.toNat
  | .gif g t f => encG 0xC3 g (2 ^ 24 * t.toNat + f.toNat)
  | .gwhile g off bound => encG 0xC4 g (2 ^ 24 * off.toNat + bound.toNat)
  | .gjmp g off => encG 0xC5 g off.toNat
  | .gwaitgc g (.rel ticks) => encG 0xC6 g ticks.toNat
  | .gwaitgc g (.cw n) => encG 0xC6 g (2 ^ 46 + n.val)
  | .gwaitsem g th cl k => encG 0xC7 g (2 ^ 16 * th.toNat + 2 ^ 8 * cl.toNat + k.val)
  | .gsetc g cw add v => encG 0xC8 g (2 ^ 42 * cw.val + 2 ^ 41 * bit add + v.toNat)
  | .gsig g wait v => encG 0xC9 g (2 ^ 47 * bit wait + v.toNat)
  | .ghalt g code => encG 0xCA g code.toNat
  | .unassignedOpcode w => [w.toNat]
  | .illegalGraphWord w => [w.toNat]
  | _ => []

/-- Whether an instruction is a graph word (03 R64). -/
def Instr.isGraph : Instr → Bool
  | .glaunch .. | .gcoll .. | .gphase .. | .gif .. | .gwhile .. | .gjmp .. | .gwaitgc .. | .gwaitsem ..
  | .gsetc .. | .gsig .. | .ghalt .. => true
  | _ => false

end Sys2Proof
end

