-- ==== Sys2Proof/Machine/Cells.lean ====
section
/-! DEFINITION. Sparse maps from numbers to values: a list of pairs with keys strictly rising and no entry equal to
the default, so that equal maps are equal lists. Memory, vector registers and tiles are held this way. -/

namespace Sys2Proof.Machine

/-- A sparse map; the default value is an argument of each operation. -/
abbrev Cells (α : Type) := List (Nat × α)

/-- The value at a key: `d` where no entry lists it. -/
def Cells.get {α : Type} (d : α) : Cells α → Nat → α
  | [], _ => d
  | (k, v) :: rest, a => if a = k then v else if a < k then d else Cells.get d rest a

/-- The map with `v` at a key; an entry equal to `d` is not listed. -/
def Cells.set {α : Type} [DecidableEq α] (d : α) : Cells α → Nat → α → Cells α
  | [], a, v => if v = d then [] else [(a, v)]
  | (k, w) :: rest, a, v =>
    if a < k then (if v = d then (k, w) :: rest else (a, v) :: (k, w) :: rest)
    else if a = k then (if v = d then rest else (a, v) :: rest)
    else (k, w) :: Cells.set d rest a v

/-- The canonical form: every key at least `lo`, keys strictly rising, no default listed. -/
def Cells.wfFrom {α : Type} [DecidableEq α] (d : α) (lo : Nat) : Cells α → Bool
  | [] => true
  | (k, v) :: rest => decide (lo ≤ k) && decide (v ≠ d) && Cells.wfFrom d (k + 1) rest

/-- The canonical form of a whole map. -/
def Cells.wf {α : Type} [DecidableEq α] (d : α) (c : Cells α) : Bool := Cells.wfFrom d 0 c

/-- The map without the keys from `lo` to `hi - 1`. -/
def Cells.drop {α : Type} (lo hi : Nat) (c : Cells α) : Cells α :=
  c.filter fun e => decide (e.1 < lo) || decide (hi ≤ e.1)

/-- Values written one after another at ascending keys. -/
def Cells.setMany {α : Type} [DecidableEq α] (d : α) (c : Cells α) (a : Nat) : List α → Cells α
  | [] => c
  | v :: vs => Cells.setMany d (Cells.set d c a v) (a + 1) vs

/-- The `n` values at ascending keys. -/
def Cells.getMany {α : Type} (d : α) (c : Cells α) (a : Nat) : Nat → List α
  | 0 => []
  | n + 1 => Cells.get d c a :: Cells.getMany d c (a + 1) n

/-! ## Runs of keys in one pass

The compiled code of `getMany` and `setMany` walks the list once; the meanings stay those above. -/

/-- The entries from key `a` on, and those before it. -/
def Cells.from' {α : Type} (c : Cells α) (a : Nat) : Cells α := c.dropWhile fun e => decide (e.1 < a)
def Cells.before {α : Type} (c : Cells α) (a : Nat) : Cells α := c.takeWhile fun e => decide (e.1 < a)

/-- The value at key `a` of a list that starts there or later, and the list after it. -/
def Cells.pop {α : Type} (d : α) (a : Nat) : Cells α → α × Cells α
  | [] => (d, [])
  | (k, v) :: rest => if k = a then (v, rest) else (d, (k, v) :: rest)

def Cells.getFast {α : Type} (d : α) (c : Cells α) (a : Nat) : Nat → List α
  | 0 => []
  | n + 1 =>
    let c := c.from' a
    (c.pop d a).1 :: Cells.getFast d c (a + 1) n

def Cells.setFast {α : Type} [DecidableEq α] (d : α) (c : Cells α) (a : Nat) : List α → Cells α
  | [] => c
  | v :: vs =>
    let rest := Cells.setFast d ((c.from' a).pop d a).2 (a + 1) vs
    c.before a ++ if v = d then rest else (a, v) :: rest

theorem Cells.get_from {α : Type} (d : α) (c : Cells α) (a b : Nat) (h : a ≤ b) :
    Cells.get d (c.from' a) b = Cells.get d c b := by
  induction c with
  | nil => rfl
  | cons e c ih =>
    obtain ⟨k, v⟩ := e
    by_cases hk : k < a
    · have : Cells.from' ((k, v) :: c) a = Cells.from' c a := by simp [Cells.from', hk]
      rw [this, ih, Cells.get, if_neg (by omega), if_neg (by omega)]
    · have : Cells.from' ((k, v) :: c) a = (k, v) :: c := by simp [Cells.from', hk]
      rw [this]

theorem Cells.take_from {α : Type} (d : α) (c : Cells α) (a : Nat) : ((c.from' a).pop d a).1 = Cells.get d c a := by
  rw [← Cells.get_from d c a a (Nat.le_refl a)]
  cases h : c.from' a with
  | nil => rfl
  | cons e r =>
    obtain ⟨k, v⟩ := e
    simp only [Cells.pop, Cells.get]
    split
    · rename_i hk
      rw [if_pos hk.symm]
    · rename_i hk
      have : ¬ k < a := fun hlt => by
        have := List.head?_dropWhile_not (fun e : Nat × α => decide (e.1 < a)) c
        rw [Cells.from'] at h
        rw [h] at this
        simp [hlt] at this
      rw [if_neg (by omega), if_pos (by omega)]

theorem Cells.getMany_from {α : Type} (d : α) (n : Nat) : ∀ (c : Cells α) (a b : Nat), a ≤ b →
    Cells.getMany d (c.from' a) b n = Cells.getMany d c b n := by
  induction n with
  | zero => intros; rfl
  | succ n ih =>
    intro c a b h
    rw [Cells.getMany, Cells.getMany, Cells.get_from d c a b h, ih c a (b + 1) (by omega)]

@[csimp] theorem Cells.getMany_eq : @Cells.getMany = @Cells.getFast := by
  funext α d c a n
  induction n generalizing c a with
  | zero => rfl
  | succ n ih =>
    rw [Cells.getMany, Cells.getFast, Cells.take_from, ← ih, Cells.getMany_from d n c a (a + 1) (by omega)]

theorem Cells.set_append {α : Type} [DecidableEq α] (d : α) (b c : Cells α) (a : Nat) (v : α) (h : ∀ e ∈ b, e.1 < a) :
    Cells.set d (b ++ c) a v = b ++ Cells.set d c a v := by
  induction b with
  | nil => rfl
  | cons e b ih =>
    obtain ⟨k, w⟩ := e
    have hk : k < a := h (k, w) List.mem_cons_self
    rw [List.cons_append, Cells.set, if_neg (by omega), if_neg (by omega), ih fun e he => h e (List.mem_cons_of_mem _ he),
      List.cons_append]

theorem Cells.setMany_append {α : Type} [DecidableEq α] (d : α) (vs : List α) : ∀ (b c : Cells α) (a : Nat),
    (∀ e ∈ b, e.1 < a) → Cells.setMany d (b ++ c) a vs = b ++ Cells.setMany d c a vs := by
  induction vs with
  | nil => intros; rfl
  | cons v vs ih =>
    intro b c a h
    rw [Cells.setMany, Cells.set_append d b c a v h, ih b _ (a + 1) fun e he => Nat.lt_succ_of_lt (h e he), Cells.setMany]

theorem Cells.set_at {α : Type} [DecidableEq α] (d : α) (c : Cells α) (a : Nat) (v : α) (h : ∀ e, c.head? = some e → a ≤ e.1) :
    Cells.set d c a v = if v = d then (c.pop d a).2 else (a, v) :: (c.pop d a).2 := by
  cases c with
  | nil => rfl
  | cons e c =>
    obtain ⟨k, w⟩ := e
    have hk : a ≤ k := h (k, w) rfl
    simp only [Cells.set, Cells.pop]
    by_cases he : k = a
    · rw [if_neg (by omega), if_pos he.symm, if_pos he]
    · rw [if_pos (by omega), if_neg he]

@[csimp] theorem Cells.setMany_eq : @Cells.setMany = @Cells.setFast := by
  funext α _ d c a vs
  induction vs generalizing c a with
  | nil => rfl
  | cons v vs ih =>
    have hb : ∀ e ∈ c.before a, e.1 < a := fun e he => by
      have := List.all_takeWhile (p := fun e : Nat × α => decide (e.1 < a)) (l := c)
      rw [List.all_eq_true] at this
      exact of_decide_eq_true (this e he)
    have hf : ∀ e, (c.from' a).head? = some e → a ≤ e.1 := fun e he => by
      have := List.head?_dropWhile_not (fun e : Nat × α => decide (e.1 < a)) c
      rw [Cells.from'] at he
      rw [he] at this
      simpa using this
    have hc : c = c.before a ++ c.from' a := (List.takeWhile_append_dropWhile ..).symm
    rw [Cells.setMany, Cells.setFast]
    conv => lhs; rw [hc]
    rw [Cells.set_append d _ _ a v hb, Cells.setMany_append d vs _ _ (a + 1) fun e he => Nat.lt_succ_of_lt (hb e he),
      Cells.set_at d _ a v hf, ← ih]
    by_cases hv : v = d
    · simp only [if_pos hv]
    · simp only [if_neg hv]
      rw [← List.singleton_append, Cells.setMany_append d vs [(a, v)] _ (a + 1) (by simp), List.singleton_append]

/-- The first element of a list that passes a test, replaced. -/
def modifyFirst {α : Type} (p : α → Bool) (f : α → α) : List α → List α
  | [] => []
  | a :: as => if p a then f a :: as else a :: modifyFirst p f as

/-- A number put into an ascending list. -/
def insertNat (a : Nat) : List Nat → List Nat
  | [] => [a]
  | b :: bs => if a ≤ b then a :: b :: bs else b :: insertNat a bs

/-- A list in ascending order. -/
def sortNat : List Nat → List Nat
  | [] => []
  | a :: as => insertNat a (sortNat as)

end Sys2Proof.Machine
end

