-- ==== Sys2Proof/Machine/State.lean ====
section
/-! DEFINITION. Everything the manual gives the K4 to hold, as plain data: threads, waves, blocks, grids, slices,
clusters, the memories, the marshal, the fabric, the trusted switches, the event arbiter and the host's registers;
the reasons a step can stop; and the state after reset. -/

namespace Sys2Proof.Machine

/-! ## Reasons to stop -/

/-- Faults. No meaning of this model raises one: every happening the manual describes is a next state. -/
inductive Fault where
  /-- Nobody raises it; it would be safe. -/
  | none
  deriving DecidableEq, Repr

/-- Refusals. -/
inductive Refusal where
  /-- Raised for an instruction whose meaning has not been written; safe, for it claims nothing. -/
  | notModelled (mnemonic : String)
  deriving DecidableEq, Repr

/-- The outcome of a step. -/
abbrev Out := Host.Outcome

/-! ## Threads -/

/-- One pass through a block by one path (01 R17): its number, the address of its header, the header word, and the
instruction words read with it (01 R15). -/
structure Exec where
  id : Nat
  hdr : W64
  word : W64
  code : List W64
  deriving DecidableEq, Repr, Inhabited

/-- Whether a thread runs (07 R142), has ended, or has left the handler and holds (19 R367, R368). -/
inductive TStatus where
  | run | ended | left (byRte : Bool)
  deriving DecidableEq, Repr, Inhabited

/-- The waits of 08 R177 and 17 R327: a barrier and the generation that is passed over; a semaphore with its threshold,
the destination of the status word, and the nominal time at which SEMWT was applied. -/
inductive Wait where
  | none
  | bar (b : Nat) (token : W32)
  | sem (k : Nat) (threshold : W32) (d : Option (Fin 64)) (since : Nat)
  deriving DecidableEq, Repr, Inhabited

/-- A thread: one lane of one wave (01 R9, R13; 19 R359 to R363). -/
structure Thread where
  status : TStatus
  /-- the header or instruction at which the thread next issues -/
  pc : W64
  /-- the block execution that the thread is in; none at a header -/
  ex : Option Exec
  depth : Nat
  /-- return addresses, newest first, at most 8 -/
  rstack : List W64
  /-- THS without its depth field: enables in 12:8, flags in 4:0 (01 R14) -/
  ths : W32
  tcause : W32
  taddr : W64
  /-- where RTE .next resumes (19 R360) -/
  tnext : W64
  /-- the block execution to continue after RTE (19 R367) -/
  tex : Option Exec
  /-- depth at handler entry (19 R361) -/
  tdepth : Nat
  /-- the barrier or semaphore wait that a trap of another path interrupted -/
  twait : Wait
  /-- restart record: header and depth (19 R363) -/
  restart : Option (W64 × Nat)
  wait : Wait
  /-- the thread waits on header flags (01 R16) -/
  flagWait : Bool
  /-- the next issue re-anchors the thread's path (07 R148) -/
  reanchor : Bool
  anchor : Nat
  /-- rounds for which the path has been eligible and passed over (07 R143) -/
  aged : Nat
  /-- the join header and depth at which the thread runs on, the record that held it there removed (07 R146) -/
  runsOn : Option (W64 × Nat)
  /-- the earliest round in which the path may issue (01 R18, 19 R361, R367) -/
  readyAt : Nat
  /-- ordered-mode window number and the count of its REDs there (13 R276) -/
  window : Nat
  seq : Nat
  deriving DecidableEq, Repr, Inhabited

/-! ## Registers and results in flight -/

/-- A register of a wave, or a thread's THS, as R24 and R358 name them. -/
inductive Reg where
  | v (n : Nat) | s (n : Nat) | m (n : Nat) | x | q (n : Nat) | ths | tile (n : Nat)
  deriving DecidableEq, Repr, Inhabited

/-- One write of a result. -/
inductive Wr where
  | v (reg lane : Nat) (val : W32)
  | s (reg : Nat) (val : W32)
  /-- bits `mask` of an m-register -/
  | m (reg : Nat) (mask val : W32)
  | x (val : W32)
  | q (reg : Nat) (val : W64)
  /-- bits `mask` of a thread's THS -/
  | ths (lane : Nat) (mask val : W32)
  /-- bits `mask` of the context's PKR -/
  | pkr (mask val : W64)
  | latchOff
  /-- clears completion flags of the block (17 R329) -/
  | flagClr (mask : W32)
  /-- a tile of the block set to zero with its flags (09 R200) -/
  | tileZero (t : Nat)
  /-- the flag byte of a tile into an s-register, or into a v-register in the lanes of a mask (09 R203) -/
  | tileRd (t : Nat) (reg : Nat) (lanes : Option W32)
  /-- the flag byte of a tile set to zero -/
  | tileClr (t : Nat)
  deriving DecidableEq, Repr, Inhabited

/-- A fixed-latency result in flight (01 R19, R23). -/
structure Pend where
  /-- slice round at whose start it arrives -/
  due : Nat
  /-- lanes of the instruction -/
  lanes : W32
  /-- registers waiting for it -/
  regs : List Reg
  wr : List Wr
  /-- flags raised, by lane (02 R40) -/
  fl : List (Nat × BitVec 5)
  /-- the tile whose flags are raised in every lane as the result arrives (TFLG .mrg, 09 R203) -/
  mrg : Option Nat
  /-- enables in force in the issue round, by lane (05 R100) -/
  en : List (Nat × BitVec 5)
  /-- the instruction, for an FP-enable trap -/
  addr : W64
  next : W64
  /-- the execution that issued it -/
  ex : Option Exec
  deriving DecidableEq, Repr, Inhabited

/-- A join record (07 R145): header, depth, threads. -/
structure Join where
  hdr : W64
  depth : Nat
  set : W32
  deriving DecidableEq, Repr, Inhabited

/-- An elastic region (06 R130): exit round, join header, depth. -/
structure Region where
  exit : Nat
  hdr : W64
  depth : Nat
  deriving DecidableEq, Repr, Inhabited

/-- An entry a page walk has read for the wave's next instruction (11 R219): where, level, and the entry. -/
structure WalkHit where
  ia : Nat
  level : Nat
  pte : W64
  deriving DecidableEq, Repr, Inhabited

/-- A wave in its slot. -/
structure Wave where
  /-- unique number -/
  uid : Nat
  /-- cluster 0 to 31, slice 0 to 5, slot 0 to 5, bank set (07 R152) -/
  cl : Nat
  sl : Nat
  slot : Nat
  bank : Nat
  /-- its block, and its index there (07 R151) -/
  bid : Nat
  widx : Nat
  /-- physical offset of its spill area in the slice pad (06 R126) -/
  spill : Nat
  /-- the first issue round, once it has started (07 R160) -/
  started : Option Nat
  threads : Vector Thread 32
  /-- lane `l` of vN is entry 32 N + l -/
  v : Cells W32
  s : Vector W32 64
  m : Vector W32 16
  x : W32
  q : Vector W64 8
  pend : List Pend
  /-- join records, the most recently appended first -/
  joins : List Join
  savedJoins : List Join
  handler : Bool
  region : Option Region
  /-- A-latch: 3,072 bytes when valid (09 R198) -/
  latch : Option (List Byte)
  /-- timing marks (19 R358) -/
  marks : List Reg
  /-- the wave issues nothing before this round (01 R26, 19 R361) -/
  hold : Nat
  /-- the first round in which the slot has not yet issued (07 R139) -/
  due : Nat
  /-- cards issued to the copy, gather and digest engines (17 R314) -/
  cards : Vector Nat 3
  /-- job cards read at the first cycle of the slot: round, offset, and the 64 bytes (17 R311) -/
  latched : List (Nat × Nat × BitVec 512)
  walked : List WalkHit
  /-- a pre-emption has saved the wave, and the limit has sent it to its restart points (19 R387, R388) -/
  saved : Bool
  forced : Bool
  deriving DecidableEq, Repr, Inhabited

/-! ## Memory accesses in flight -/

/-- A location: bytes of the store by key, or main memory by physical address, with the key slot of an encrypted
window. -/
inductive Loc where
  | pad (key : Nat)
  | main (pa : Nat) (enc : Option (Fin 128))
  deriving DecidableEq, Repr

/-- One lane of an access. -/
structure LaneAcc where
  lane : Nat
  loc : Loc
  withheld : Bool
  /-- data to store, operand, or compare value -/
  data : Nat
  /-- CAS: the new value. REDX: the redirect word. Ordered RED: the program-order count -/
  aux : Nat
  /-- the value read -/
  got : Nat
  done : Bool
  deriving DecidableEq, Repr

/-- One instruction's memory access in flight: plain, gather, scatter, atomic, page or fabric. -/
structure Access where
  id : Nat
  i : Instr
  uid : Nat
  bid : Nat
  gid : Nat
  part : Nat
  asid : Nat
  cl : Nat
  sl : Nat
  slot : Nat
  /-- lanes of the issuing path, its Active lanes, and the number of D resolved at issue -/
  path : W32
  act : W32
  dreg : Nat
  /-- issue round, the latency L, and whether it is of class 1 -/
  round : Nat
  lat : Nat
  cls1 : Bool
  lanes : List LaneAcc
  regs : List Reg
  /-- completion flag that counts it (01 R17); 15 for none -/
  flag : Nat
  /-- the execution that issued it -/
  exec : Nat
  /-- the effect of every lane has been made -/
  effected : Bool
  /-- the stall limit passed with it still late (19 R357) -/
  abandoned : Bool
  /-- the class-1 accesses that must complete before it (06 R137) -/
  after : List Nat
  /-- the window of an ordered RED or ORDFL, by lane -/
  wnum : List (Nat × Nat)
  /-- page tables translated it (11 R229) -/
  paged : Bool
  deriving DecidableEq, Repr

/-- A coalesced request of an access toward main memory (11 R234, 12 R251). -/
structure Req where
  /-- the access it serves; the walk of a wave when `walk` is set -/
  acc : Nat
  walk : Option (Nat × Nat × Nat)
  addr : Nat
  len : Nat
  write : Bool
  cls1 : Bool
  part : Nat
  asid : Nat
  /-- age: issue time, cluster, slice -/
  time : Nat
  cl : Nat
  sl : Nat
  /-- dispatched: generation tag, pseudo-channel and local index -/
  tag : Option (Nat × Nat × Nat)
  /-- waiting in the gutter for the retry of detected errors (12 R245), and the atoms, by physical address / 32, that it reads
  again -/
  retry : Bool
  /-- a walk's entry has been read, and PAGE_WALK_READ has still to take it -/
  read : Bool
  again : List Nat
  deriving DecidableEq, Repr

/-- An MMA or MMASP between its issue and its tile update (09 R184, R196). -/
structure Mma where
  uid : Nat
  /-- lanes of the issuing path -/
  path : W32
  bid : Nat
  cl : Nat
  sl : Nat
  slot : Nat
  /-- the issue round -/
  round : Nat
  sparse : Bool
  z : Bool
  tile : Nat
  afmt : Elem
  bfmt : Elem
  ascaled : Bool
  bscaled : Bool
  /-- 3,072 bytes of A -/
  a : List Byte
  /-- cluster-pad offsets of panel, metadata and scales -/
  boff : Nat
  moff : Nat
  soff : Nat
  /-- panel, metadata and scales once the span has latched them -/
  latched : Option (List Byte × List Byte × List Byte)
  /-- the twin that performed its span -/
  twin : Option Bool
  deriving DecidableEq, Repr

/-- A TLD or TST in flight (09 R201, R202). -/
structure TileMove where
  uid : Nat
  /-- lanes of the issuing path -/
  path : W32
  bid : Nat
  cl : Nat
  sl : Nat
  slot : Nat
  round : Nat
  /-- TST rather than TLD -/
  store : Bool
  fm : TileFmt
  sat : Bool
  tile : Nat
  off : Nat
  /-- the image, once read -/
  img : Option (List Byte)
  /-- TST has written its image -/
  done : Bool
  deriving DecidableEq, Repr

/-! ## Engine job cards (17) -/

/-- A chunk of a card on its way: its number, its identifier among the requests, the indices once read (a gather), and
its bytes once read, with the destination address of each. -/
structure Chunk where
  c : Nat
  id : Nat
  idx : Option (List (Option Nat))
  data : Option (List (Nat × Byte))
  /-- the requests of its next read or write have been made -/
  asked : Bool
  /-- elements of a gather withheld at their source or out of bounds -/
  withheld : List Nat
  outside : Nat
  deriving DecidableEq, Repr, Inhabited

/-- A card as issued (17 R311): its 64 bytes as a number, with what the issue fixed. -/
structure Card where
  /-- 1 copy, 2 gather, 3 digest -/
  kind : Nat
  word : BitVec 512
  handle : W32
  uid : Nat
  bid : Nat
  gid : Nat
  part : Nat
  cl : Nat
  sl : Nat
  slot : Nat
  exec : Nat
  /-- setB of the issuing execution; 15 for none -/
  setB : Nat
  /-- issue round, and the start round of a class-0 card (17 R318) -/
  round : Nat
  start : Nat
  started : Bool
  pipe : List Chunk
  /-- chunks sent out, and chunks whose writes have taken effect -/
  sent : Nat
  chunk : Nat
  /-- bytes a digest has absorbed -/
  msg : List Byte
  ocount : Nat
  wcount : Nat
  done : Nat
  /-- the outcome code and the nominal time at which the card finishes (17 R320, R322) -/
  code : Option (Nat × Nat)
  cancelled : Bool
  /-- ends with this code at the end of its current chunk (17 R378, 19 R389) -/
  stop : Option Nat
  /-- a chunk has failed: the card ends with this code and address once the chunks before it are written (17 R322) -/
  fate : Option (Nat × Nat)
  /-- entries that page walks have read for its chunks -/
  walked : List WalkHit
  /-- its first read has been dispatched (17 R323) -/
  begun : Bool
  deriving DecidableEq, Repr, Inhabited

/-! ## Blocks, grids and contexts -/

/-- A resident block (07 R149, R157 to R161). -/
structure Block where
  bid : Nat
  gid : Nat
  /-- linear index (07 R150) -/
  bl : Nat
  cl : Nat
  /-- physical offset of its cluster-pad range, of its share in each slice's pad, and of its die-pad range -/
  cbase : Nat
  sbase : Vector Nat 6
  dbase : Nat
  /-- physical tiles -/
  tiles : List Nat
  flags : BitVec 12
  /-- flags for which condition 1 of 01 R17 has been met since their latest clear -/
  armed : BitVec 12
  /-- nominal time of each flag's latest set -/
  flagAt : Vector Nat 12
  /-- waves not yet ended -/
  live : Nat
  /-- rounds of the block budget, 0 for none, and the round from which they count, once wave 0 has started (07 R160) -/
  budget : Nat
  budgetAt : Option Nat
  /-- slice that holds wave 0, and the nominal time at which the block was placed -/
  wave0 : Nat
  placedAt : Nat
  lost : Bool
  /-- retired; its cluster pad is held until its team has retired (07 R161) -/
  retired : Bool
  deriving DecidableEq, Repr, Inhabited

/-- A window of a window set (11 R214). -/
structure Window where
  kind : Nat
  x : Bool
  w : Bool
  r : Bool
  pkey : Nat
  enc : Bool
  keyidx : Fin 128
  size : Nat
  ibase : Nat
  vbase : Nat
  deriving DecidableEq, Repr, Inhabited

/-- The launch record's fields (07 R154), in the record's order from the low end. -/
structure Launch where
  code : W64
  startgc : W64
  param : W64
  handler : W64
  bbudget : W64
  gbudget : W64
  gx : Nat
  gy : Nat
  gz : Nat
  spill : Nat
  entry : Nat
  waves : Nat
  regs : Nat
  barriers : Nat
  tiles : Nat
  pace : Nat
  team : Nat
  spad : Nat
  cpad : Nat
  dpad : Nat
  winset : Nat
  asid : Nat
  part : Nat
  ordered : Bool
  nparam : Nat
  deriving DecidableEq, Repr, Inhabited

/-- A held ordered update (13 R276 to R280). -/
structure Held where
  gid : Nat
  window : Nat
  pa : Nat
  enc : Option (Fin 128)
  wide : Bool
  op : AtomOp
  x : Nat
  gtid : Nat
  seq : Nat
  /-- unit 0 to 3, or in the partition's spill list at this record -/
  spilled : Option Nat
  /-- the access, where page tables translated it (11 R229) -/
  acc : Option Nat
  deriving DecidableEq, Repr

/-- How far a GLAUNCH has come. -/
inductive GridPhase where
  /-- the launch check runs -/
  | check
  | run
  /-- ended by a fault: the event code -/
  | faulted (code : Nat)
  /-- refused: the error code -/
  | refused (code : Nat)
  deriving DecidableEq, Repr, Inhabited

/-- A block that a save area holds: its linear index, and the K4's own numbers of it and its waves. -/
structure OutBlock where
  bl : Nat
  bid : Nat
  waves : List Nat
  deriving DecidableEq, Repr, Inhabited

/-- A grid with its context (07 R149, 18 R338). -/
structure Grid where
  gid : Nat
  /-- partition whose marshal issued it, and the node's number there -/
  part : Nat
  node : Nat
  /-- physical address of the launch record -/
  recAddr : Nat
  rel : Bool
  phase : GridPhase
  l : Launch
  /-- address of the entry header -/
  entry : W64
  windows : List Window
  params : List W32
  pace : Nat
  budget : Nat
  start : Nat
  pkr : W64
  mapgen : Nat
  /-- next block to place; block count -/
  next : Nat
  blocks : Nat
  retired : Nat
  /-- event code of the first block ending (19 R375) -/
  blockFault : Option Nat
  /-- closed windows are below this (13 R279) -/
  closed : Nat
  /-- GC ticks of the budget consumed before a pre-emption, while the grid is saved (19 R391) -/
  saved : Option Nat
  /-- blocks that a pre-emption has saved and no resume has taken yet -/
  out : List OutBlock
  /-- GC at which the first of its waves began to issue (20 R425) -/
  began : Option Nat
  deriving DecidableEq, Repr, Inhabited

/-! ## Slices and clusters -/

/-- A slice (01 R21, 07 R139). -/
structure Slice where
  round : Nat
  /-- cluster cycle at which the round opened -/
  c0 : Nat
  /-- ratio 2 stands for ratio 1/2 (23 R459): cluster cycles in a slice cycle -/
  ratio : Nat
  ratioNext : Nat
  /-- GC latched at the opening boundary (18 R340), and the nominal time at which the round opened -/
  gc : Nat
  opened : Nat
  /-- temperature codes of the two bank sets (07 R158, 23 R465) -/
  bankTemp : Byte × Byte
  /-- queues, by engine kind and slot, whose service of the round a class-1 card has taken (17 R319) -/
  turns : List (Nat × Nat)
  deriving DecidableEq, Repr, Inhabited

/-- A barrier generation completed: time, grid, cluster, barrier number and new generation (23 R466). -/
structure BarDone where
  time : Nat
  gid : Nat
  cl : Nat
  bar : Nat
  gen : Nat
  deriving DecidableEq, Repr, Inhabited

/-- A semaphore (17 R324). -/
structure Sem where
  count : W32
  ovf : Bool
  fail : Bool
  /-- owning partition -/
  owner : Option (Fin 8)
  deriving DecidableEq, Repr, Inhabited

/-- One twin (09 R206, R207). -/
structure Twin where
  out : Bool
  /-- fenced sub-arrays -/
  fenced : List Nat
  /-- tiles updated since its last passing proof -/
  tiles : List Nat
  /-- its temperature code, which its comparator compares with TEMPLIM[15:8] (23 R464) -/
  temp : Byte
  deriving DecidableEq, Repr, Inhabited

/-- A cluster. -/
structure Cluster where
  /-- cycle counter value `cyc0` at nominal time `t0` (23 R456) -/
  cyc0 : Nat
  t0 : Nat
  clock : Nat
  clockNext : Nat
  /-- pass count in force, and PASSHOST (07 R141, 23 R460) -/
  pass : Nat
  hostPass : Nat
  /-- a stall-as-unit: nominal time of its start, and of its end once nothing is late (19 R355, R357) -/
  stall : Option Nat
  ready : Option Nat
  /-- a release stall: nominal time of its end (23 R466) -/
  release : Option Nat
  /-- the stalled cluster that a peer access of this one waits for (19 R356) -/
  peer : Option Nat
  /-- the override in force, the one that the next boundary brings with its cause, and the ceiling (23 R460) -/
  ovr : Nat
  overNext : Option (Nat × Nat)
  ceil : Nat
  /-- event 0x011C has been reported and its cause has not cleared; the nominal times since which the current estimate has stood
  above its limit, and below 80% of it, or at which the last step was taken (23 R460) -/
  unmet : Bool
  overAt : Option Nat
  lowAt : Option Nat
  sems : Vector Sem 64
  twins : Twin × Twin
  duty : Bool
  /-- spans of the twin on duty since its duty began -/
  spans : Nat
  /-- the cycle at which the next span opens; operations that have latched their operands and wait for the engine, by wave
  and issue round; sub-arrays whose proof fails in the next span (09 R184, R207) -/
  spanAt : Nat
  queue : List (Nat × Nat)
  fails : List Nat
  deriving DecidableEq, Repr, Inhabited

/-- An accumulator tile in use: elements away from +0, and the flag byte (09 R185). -/
structure Tile where
  el : Cells W32
  fl : Byte
  deriving DecidableEq, Repr, Inhabited

/-! ## Main memory and page service -/

/-- A cached translation (11 R220). -/
structure TlbEntry where
  die : Nat
  asid : Nat
  level : Nat
  /-- ia with the bits below the level's index dropped -/
  ia : Nat
  pte : W64
  deriving DecidableEq, Repr, Inhabited

/-- The sweep of a retirement (12 R248, R249). -/
structure Sweep where
  f : Nat
  live : List Nat
  /-- transfers of the granule at F claimed so far: 4 from its old home, then 4 to its new one -/
  xfers : Nat
  moved : Nat
  poisoned : Nat
  /-- the reads of the granule at F have been judged; atoms of it, 0 to 15, whose retry is pending, and those lost (12 R245,
  R250) -/
  checked : Bool
  again : List Nat
  lost : List Nat
  deriving DecidableEq, Repr, Inhabited

/-- A pseudo-channel: its slot table, the position in it, and its counts (11 R232, 12 R244, R245). -/
structure Chan where
  table : Vector Byte 64
  tableNext : Vector Byte 64
  /-- the first slot, counted from power-on, that nothing has claimed -/
  next : Nat
  /-- the spare transfer of the last gutter slot is still to be given (12 R238) -/
  spare : Bool
  /-- partition served last among the others (11 R233) -/
  rot : Nat
  half : Bool
  halfNext : Bool
  correctable : Nat
  retried : Nat
  uncorrectable : Nat
  deriving DecidableEq, Repr, Inhabited

/-- A change that a sensor or controller reports: the temperature code of a cluster, a stack, a twin or a bank set of a
slice (23 R450, R464, R465), a lane fault of a channel (12 R237), or an uncorrectable error of a protected group (12 R259),
which nothing has found yet, the current estimate of a cluster, and the module's power in W (23 R460, R461). -/
inductive Sense where
  | cluster (cl : Nat) (code : Byte)
  | stack (k : Nat) (code : Byte)
  | twin (cl : Nat) (b : Bool) (code : Byte)
  | bank (cl sl : Nat) (b : Bool) (code : Byte)
  | lane (ch : Nat) (fault : Bool)
  | group (k : Nat)
  | current (cl v : Nat)
  | power (w : Nat)
  deriving DecidableEq, Repr, Inhabited

/-- The memories (00 R2, 12). -/
structure Mem where
  /-- bytes by key: main memory at p * 805306368 + 512 q + byte of a pseudo-channel's index, cluster pads from 2^44,
  slice pads from 2^45, die pads from 2^46 -/
  bytes : Cells Byte
  /-- poisoned 32-byte atoms, by the key of their first byte -/
  poison : List Nat
  live : List Nat
  gen : Nat
  sweep : Option Sweep
  /-- pseudo-channels away from the configuration record's slot table -/
  chans : Cells (Option Chan)
  reqs : List Req
  tlb : List TlbEntry
  /-- memory key slots (11 R223): the XTS key pair -/
  keys : Cells (Option (BitVec 512))
  /-- uncorrectable groups (12 R259) -/
  broken : List Nat
  /-- those among them that have been found, and are rewritten once their owner has released them -/
  toMend : List Nat
  /-- channels with a lane fault (12 R237) -/
  laneFaults : List Nat
  deriving DecidableEq, Repr

/-- A fault record posted and not yet served (11 R226 to R230). -/
structure FaultRec where
  seq : Nat
  vpage : Nat
  ipage : Nat
  gid : Nat
  window : Nat
  write : Bool
  discarded : Bool
  mapgen : Nat
  /-- posted in the queue, rather than held while it is full -/
  posted : Bool
  /-- completion read: target generation and the refused bit -/
  compl : Option (Nat × Bool)
  acc : Nat
  deriving DecidableEq, Repr, Inhabited

/-- A mapping fence in progress (11 R229). -/
structure MapFence where
  /-- accesses that must take effect first, the ordered ones with their merges -/
  accs : List Nat
  deriving DecidableEq, Repr, Inhabited

/-- An ASID's assignment and page service (23 R452, 11 R226). -/
structure AsidSt where
  asid : Nat
  part : Fin 8
  root : Nat
  fqbase : Nat
  fqn : Nat
  cqbase : Nat
  cqn : Nat
  /-- records produced, completion records consumed, and the records that still stand -/
  prod : Nat
  cons : Nat
  recs : List FaultRec
  /-- the 64 most recently served records: grid, page, refused -/
  served : List (Nat × Nat × Bool)
  /-- mapping fences in progress, oldest first -/
  fences : List MapFence
  deriving DecidableEq, Repr, Inhabited

/-! ## The marshal (18) -/

/-- A node issued and not yet committed. -/
inductive NodeKind where
  | launch (gid : Nat)
  /-- the entries that have neither arrived nor failed, and whether one failed -/
  | coll (entries : List Nat) (failed : Bool)
  | sem (cl k : Nat) (threshold : W32)
  /-- a GSIG .wait: its node's address and, once the arbiter has taken it, the sequence number of its event -/
  | sig (addr : W64) (seq : Option Nat)
  deriving DecidableEq, Repr, Inhabited

structure Node where
  id : Nat
  kind : NodeKind
  sten : Bool
  cw : Fin 64
  /-- number of the phase it belongs to -/
  phase : Nat
  deriving DecidableEq, Repr, Inhabited

inductive MState where
  | idle | running | stopped
  deriving DecidableEq, Repr, Inhabited

/-- A partition: its marshal queue (18 R332 to R352), its page of registers (23 R451), and a pre-emption. -/
structure Part where
  qbase : W64
  qsize : Byte
  qtail : W32
  qhead : W32
  grbase : W64
  grsize : W32
  cwbase : W64
  gpc : W64
  epoch : W64
  mstate : MState
  mcode : Byte
  loops : List (W64 × Nat)
  nodes : List Node
  nextNode : Nat
  /-- number of the current phase, and of the phase with which the graph began -/
  phase : Nat
  first : Nat
  /-- deadline of the current phase (18 R342) -/
  deadline : Option Nat
  /-- GC tick of the last node's issue -/
  lastIssue : Option Nat
  /-- the target of a GWAITGC that has passed its boundary (18 R345) -/
  waitgc : Option Nat
  tag : W32
  search : Nat
  /-- clusters of the partition, ascending (23 PARTDEF) -/
  clusters : List Nat
  stalllim : Nat
  spillbase : W64
  spillcnt : W32
  wstbase : W64
  ttbase : W64
  ttsize : Nat
  rtbase : W64
  ssbase : W64
  policy : Byte
  /-- GC value of each failure of an entry (20 R425) -/
  fails : List Nat
  /-- the interface is in the CONFIG_LOCKED or RUN state (23 R455) -/
  locked : Bool
  /-- pre-emption: save area and limit of an accepted command, and the GC at which it took effect (19 R386) -/
  preempt : Option (Nat × Nat)
  preemptAt : Option Nat
  /-- GC of the folio gutter that an accepted command awaits, where the partition held armed entries at the command -/
  gutter : Option Nat
  /-- items recorded failed or discarded (19 R389) -/
  lost : Nat
  deriving DecidableEq, Repr, Inhabited

/-! ## The event arbiter (19) -/

/-- An event record's fields (19 R379). -/
structure Ev where
  code : Nat
  asid : Option Nat
  part : Option Nat
  die : Nat
  cluster : Nat
  slice : Nat
  slot : Nat
  kind : Nat
  unit : Nat
  detail : List Nat
  gc : Nat
  seq : Nat
  /-- where main memory receives the event's sequence number (19 R390) -/
  stamp : Option Nat
  deriving DecidableEq, Repr, Inhabited

/-- The event arbiter (19 R379 to R382). -/
structure Arb where
  seq : Nat
  /-- presented and not yet taken, with the nominal time -/
  inbox : List (Nat × Ev)
  /-- taken, numbered and not yet written -/
  held : List Ev
  dropped : List (Nat × Nat)
  base : W64
  size : Nat
  head : W32
  tail : W32
  /-- signals of vector 0 sent to each PCIe port (23 R448) -/
  irq : Vector Nat 2
  deriving DecidableEq, Repr, Inhabited

/-- The path that issues: a wave, its lanes, the address of its instruction and of the word after it. -/
structure Cur where
  uid : Nat
  lanes : W32
  pc : W64
  next : W64
  deriving DecidableEq, Repr, Inhabited

/-! ## The fabric (20) -/

/-- The schedule's constants (20 R402). -/
structure Plan where
  g0 : Nat
  p : Nat
  f : Nat
  d : Nat
  deriving DecidableEq, Repr, Inhabited

/-- A chunk of a node received for an entry, on the main path or on the endpoint path of 21 R441 (`alt`). -/
structure NodeChunk where
  alt : Bool
  lo : Nat
  hi : Nat
  c : Nat
  data : List Byte
  deriving DecidableEq, Repr, Inhabited

/-- A trailer received valid. -/
structure Trailer where
  alt : Bool
  lo : Nat
  hi : Nat
  flags : BitVec 5
  deriving DecidableEq, Repr, Inhabited

/-- How an entry runs: without in-switch reduction, on both paths, on the endpoint path alone, or, without a fallback, on
the in-switch path alone (21 R440, R441). -/
inductive EMode where
  | plain | both | ends | alone
  deriving DecidableEq, Repr, Inhabited

/-- A tile-table entry as 64 bytes (20 R408). -/
abbrev EWord := BitVec 512

/-- A tile-table entry's state (20 R408 to R418). -/
structure Tent where
  part : Nat
  e : Nat
  /-- 0 idle, 1 armed, 2 firing, 3 done, 4 failed -/
  st : Nat
  ready : Bool
  flags : BitVec 5
  reason : Nat
  /-- the entry as read at its latest arming -/
  word : Option EWord
  folio : Nat
  mode : EMode
  /-- the GCOLL node that counts it -/
  node : Option Nat
  got : List NodeChunk
  trails : List Trailer
  /-- chunks of a path that have failed, all of them for none, with the reason -/
  bad : List (Bool × Option Nat × Nat)
  /-- nodes of the in-switch path whose trailer carried marker 2 (21 R443) -/
  twos : List (Nat × Nat)
  /-- root chunks written, and those of them that came from the endpoint path in in-switch mode -/
  written : List Nat
  alts : List Nat
  /-- it fires in a replay folio whatever its ready flag (19 R385) -/
  replay : Bool
  /-- chunks of the device's own contribution as a path has read them (20 R410), and nodes of a path of which a chunk was not held
  at its read point (20 R413) -/
  own : List (Bool × Nat × List Byte)
  unsent : List (Bool × Nat × Nat)
  deriving DecidableEq, Repr, Inhabited

/-- A slot as a port sent it: folio, frame (F is the closing sequence), position and bytes. -/
structure TxSlot where
  folio : Nat
  frame : Nat
  pos : Nat
  data : List Byte
  deriving DecidableEq, Repr, Inhabited

/-- A received data slot that has passed its check. -/
structure RxRec where
  folio : Nat
  frame : Nat
  pos : Nat
  data : List Byte
  deriving DecidableEq, Repr, Inhabited

/-- A failed data slot waiting for its retry, and a sealed group waiting with it: the slots as received, by position,
and the group's check (20 R405, 21 R437). -/
structure RxGroup where
  frame : Nat
  group : Nat
  check : List Byte
  slots : List (Nat × List Byte)
  /-- positions still to come -/
  missing : List Nat
  isSealed : Bool
  deriving DecidableEq, Repr, Inhabited

/-- An SPDM session or attestation with the switch of a port (21 R428 to R430). -/
structure Session where
  unit : Nat
  /-- step in progress; none when the session is live and idle -/
  step : Option Nat
  /-- the session's keys stand: step 6 has passed -/
  live : Bool
  /-- policy record and job key slot of the attestation in progress -/
  policy : Nat
  jslot : Nat
  /-- digest of the measurements of step 7 -/
  digest : BitVec 384
  /-- certificates received so far, in step 4 -/
  chain : List Byte
  /-- the latest request; the messages of steps 1 to 3; those of step 5; whether the responder asked for mutual authentication; the
  handshake secret (21 R429, DSP0274) -/
  sent : List Byte
  vca : List Byte
  kex : List Byte
  mutualAuth : Bool
  hs : BitVec 384
  /-- identifier that the responder gave the session; key and IV of the records sent and of those received, and how many of each -/
  rsp : Nat
  outKey : BitVec 256 × BitVec 96
  inKey : BitVec 256 × BitVec 96
  tx : Nat
  rx : Nat
  /-- the request outstanding, as flits -/
  last : List (BitVec 512)
  /-- folio of the request outstanding, and whether it is its one resend -/
  sentAt : Nat
  resent : Bool
  /-- heartbeats in a row unanswered, whether the last still is, and its folio -/
  missed : Nat
  awaiting : Bool
  beat : Nat
  /-- job key slots delivered -/
  keys : List Nat
  deriving DecidableEq, Repr, Inhabited

/-- A PTP port (20 R396): its state, the mean delay of its link, the delay request outstanding and the time at which it went,
a request to be answered (requesting port, sequence, arrival), and the sequence number of its next message. -/
structure PtpPort where
  role : PtpRole
  delay : Option Int
  req : Option (Nat × Nat)
  resp : Option (Nat × Nat × Nat)
  seq : Nat
  deriving DecidableEq, Repr, Inhabited

/-- A fabric port (20 R399 to R407). -/
structure Port where
  trained : Bool
  /-- templates: word of frame k, position i at 256 k + i -/
  tx : Cells W64
  rx : Cells W64
  siding : List RxRec
  /-- data slots lost in the folio: folio, frame, position (20 R405) -/
  losses : List (Nat × Nat × Nat)
  /-- slots whose check has passed, with the nominal time at which each is handled -/
  arrived : List (Nat × RxRec)
  out : List TxSlot
  /-- transmit reads that wait for the granule that a sweep is moving (12 R251): folio, and 256 k + i -/
  held : List (Nat × Nat)
  /-- the folio of the latest tag slot that has arrived, and the frame after its own -/
  tagged : Nat × Nat
  /-- retry slots received, by frame and place, awaiting the tag that covers them -/
  waiting : List RxGroup
  /-- positions this port asks for in its sync slots, and those the other end has asked for, by frame -/
  asks : List (Nat × List Nat)
  asked : List (Nat × List Nat)
  /-- fault markers that its sync slots are still to carry, one each: device and folio -/
  mark : List (Nat × Nat)
  /-- the first read point not yet handled, 256 k + i of a folio, and the first sync, tag or retry slot, 3 k + 0, 1
  or 2, with 3 F to 3 F + 4 the closing sequence -/
  dataAt : Nat × Nat
  ctlAt : Nat × Nat
  session : Option Session
  /-- control channel (21 R426, R427): flits still to send, those of the latest gutter and its folio, the number of the next
  message, and the message under way at the receiver: its number, its next fragment, its bytes -/
  queue : List (BitVec 512)
  flits : List (BitVec 512)
  ctlFolio : Option Nat
  msgNo : Nat
  inMsg : Option (Nat × Nat × List Byte)
  /-- PTP port (20 R396) -/
  ptp : PtpPort
  deriving DecidableEq, Repr, Inhabited

/-- The fabric side of the device. -/
structure Fabric where
  plan : Option Plan
  ports : Vector Port 12
  ents : List Tent
  /-- the folio under way -/
  folio : Nat
  /-- the GC has reached its first agreement; last offset estimate; GC of the last Sync that arrived, or
  that the time master sent (20 R397) -/
  agreed : Bool
  offset : Int
  synced : Option Nat
  /-- PTP: the domain's grandmaster by host software's configuration, the management port, and what that port sent last -/
  master : Bool
  mgmt : PtpPort
  mgmtSent : Option (BitVec 512)
  /-- folios with a failed entry, markers raised or forwarded (device and folio), and the folio that opened hold
  (19 R384, R385) -/
  failed : List Nat
  marks : List (Nat × Nat)
  hold : Option Nat
  /-- GCOLL nodes that a failed entry stops after the schedule fault of a folio: partition, node, folio (18 R341) -/
  stops : List (Nat × Nat × Nat)
  /-- the folio at which the master has announced that the schedule resumes (19 R385) -/
  resume : Option Nat
  /-- job key slots: key and identifier (21 R433) -/
  jkeys : Cells (Option (BitVec 256 × W32))
  deriving DecidableEq, Repr, Inhabited

/-! ## Flash, host interface and power (23) -/

/-- What the secure flash holds (23 R467, R468). -/
structure Flash where
  /-- bytes of the ROM, of the firmware and of the configuration records -/
  rom : List Byte
  firmware : List Byte
  records : List Byte
  /-- every signature verifies; every record is well formed -/
  signed : Bool
  wellFormed : Bool
  retire : BitVec 512
  devid : BitVec 14
  domain : Nat
  /-- clock code and voltage of the 16 points; the point of boot -/
  points : Vector (Nat × Nat) 16
  point : Fin 16
  floor : Nat
  limits : Vector Nat 32
  rota : W32
  templim : W32
  vendor : Nat
  /-- the wrapped identity key and the certificate chain of SPDM slot 0 (23 R469) -/
  idKey : List Byte
  chain : List Byte
  /-- slot table of every pseudo-channel at boot -/
  slots : Vector Byte 64
  deriving DecidableEq, Repr

/-- The V/F mailbox (23 R456 to R458). -/
structure Vf where
  current : Fin 16
  target : Option (Fin 16)
  pending : Option (Fin 16)
  /-- nominal time of the last completion; the voltage in force; the nominal time at which the move applied it, and whether it has
  settled -/
  since : Nat
  volt : Nat
  voltAt : Option Nat
  settled : Bool
  deriving DecidableEq, Repr

/-- The host interface's registers (23 R448 to R463). -/
structure HostIf where
  /-- step of the boot, failure code -/
  stage : Nat
  bootCode : Option Nat
  owner : Bool
  /-- a FAILOVER that waits for the command in progress, and the time at which one that has waited takes place -/
  moving : Bool
  moveAt : Option Nat
  ign : Vector Nat 2
  arg : BitVec 512
  /-- end of the command in progress, with the port its interrupt goes to, and its status code and CMDRES, which that end writes -/
  busy : Option (Nat × Bool)
  reply : Nat × W64
  overrun : Bool
  status : Nat
  op : Nat
  res : W64
  /-- completion interrupts sent to each port -/
  irqs : Vector Nat 2
  /-- the last BAR2 completion: the bytes read, or Completer Abort -/
  bar2 : Option (List Byte)
  asidtbl : W64
  apbase : W64
  rota : W32
  templim : W32
  temps : Vector Byte 40
  vf : Vf
  /-- clusters whose override the budget rule raised, the last first; its report of 0x011C stands -/
  raised : List Nat
  unmet : Bool
  /-- readings of the module's power in W with the GC value of each, the latest first, and the GC value at which the budget rule
  acts next (23 R461) -/
  power : List (Nat × Nat)
  budgetAt : Nat
  /-- rack cap: last accepted message, cap in force and its expiry in GC ticks; messages ignored -/
  rcap : Option (BitVec 128)
  capUntil : Option Nat
  rcapIgn : Nat
  /-- SPDM measurement blocks 1 to 3 -/
  measured : List (List Byte)
  /-- the last answer over DOE -/
  doe : List Byte
  deriving DecidableEq, Repr

/-! ## Pre-emption (19 R386 to R391) -/

/-- A block read back from a save area. -/
structure SavedBlock where
  b : Block
  waves : List Wave
  /-- pad images: cluster pad, the shares of the slices in ascending order, die pad, the spill area of each wave -/
  cpad : List Byte
  spads : List (List Byte)
  dpad : List Byte
  spills : List (List Byte)
  tiles : List Tile
  deriving DecidableEq, Repr

/-- A resume under way: the area it reads, the partition, and the blocks that it has still to place. -/
structure Save where
  area : Nat
  part : Nat
  blocks : List SavedBlock
  deriving DecidableEq, Repr

/-- The whole device. -/
structure State where
  booted : Bool
  /-- nominal time, in the units of Config (log 3) -/
  now : Nat
  /-- value of the global counter at a nominal time, and its rate correction in ppm (20 R395, R397) -/
  gcVal : Nat
  gcAt : Nat
  gcRate : Int
  cur : Option Cur
  curPart : Fin 8
  waves : List Wave
  /-- waves that have left their slots, each with its results in flight, until its register window is given out again
  (06 R128, 07 R161) -/
  ended : List Wave
  blocks : List Block
  grids : List Grid
  accs : List Access
  mmas : List Mma
  moves : List TileMove
  cards : List Card
  held : List Held
  nextUid : Nat
  /-- generations completed in the latest cycle that completed one -/
  completed : List BarDone
  /-- the queue that a class-1 card of an engine was served for last: by kind times 64 plus the engine's first cluster -/
  lastQueue : Cells Nat
  slices : List Slice
  clusters : List Cluster
  /-- by cluster * 16 + physical tile -/
  tiles : Cells Tile
  mem : Mem
  asids : List AsidSt
  parts : Vector Part 8
  arb : Arb
  fabric : Fabric
  flash : Flash
  host : HostIf
  /-- blocks a partition is to place again (19 R391) -/
  resuming : List Save
  /-- inputs and choices of the environment, each with its nominal time, in order (log 4) -/
  agenda : List (Nat × Instr)
  /-- readings of the sensors still to come, each with its nominal time, in order (log 91) -/
  sensors : List (Nat × Sense)
  /-- draws of free values made so far (log 5) -/
  free : Nat
  deriving DecidableEq, Repr

/-! ## Reset -/

/-- A thread of no wave. -/
def Thread.reset : Thread :=
  { status := .run, pc := 0, ex := none, depth := 0, rstack := [], ths := 0, tcause := 0, taddr := 0, tnext := 0
    tex := none, tdepth := 0, twait := .none, restart := none, wait := .none, flagWait := false, reanchor := true
    anchor := 0, aged := 0, runsOn := none, readyAt := 0, window := 0, seq := 0 }

/-- A slice at reset (01 R21). -/
def Slice.reset : Slice := { round := 0, c0 := 0, ratio := 1, ratioNext := 1, gc := 0, opened := 0, bankTemp := (0, 0), turns := [] }

def Sem.reset : Sem := { count := 0, ovf := false, fail := false, owner := none }
def Twin.reset : Twin := { out := false, fenced := [], tiles := [], temp := 0 }

/-- A cluster at reset, at clock code `k` (23 R450, R460). Twin A is on duty (log 8). -/
def Cluster.reset (k : Nat) : Cluster :=
  { cyc0 := 0, t0 := 0, clock := k, clockNext := k, pass := 1, hostPass := 1, stall := none, ready := none, release := none, peer := none
    ovr := 1, overNext := none, ceil := 4, unmet := false, overAt := none, lowAt := none, sems := Vector.replicate 64 Sem.reset
    twins := (Twin.reset, Twin.reset), duty := false, spans := 0, spanAt := 0, queue := [], fails := [] }

/-- Main memory before boot: nothing listed, no live list. -/
def Mem.reset : Mem :=
  { bytes := [], poison := [], live := [], gen := 0, sweep := none, chans := [], reqs := [], tlb := [], keys := []
    broken := [], toMend := [], laneFaults := [] }

/-- A partition at reset (18 R332, 23 R451). -/
def Part.reset : Part :=
  { qbase := 0, qsize := 0, qtail := 0, qhead := 0, grbase := 0, grsize := 0, cwbase := 0, gpc := 0, epoch := 0
    mstate := .idle, mcode := 0, loops := [], nodes := [], nextNode := 0, phase := 0, first := 0, deadline := none
    lastIssue := none, waitgc := none, tag := 0, search := 0, clusters := [], stalllim := 2048, spillbase := 0
    spillcnt := 0, wstbase := 0, ttbase := 0, ttsize := 0, rtbase := 0, ssbase := 0, policy := 0
    fails := [], locked := false, preempt := none, preemptAt := none, gutter := none, lost := 0 }

def Arb.reset : Arb :=
  { seq := 0, inbox := [], held := [], dropped := [], base := 0, size := 0, head := 0, tail := 0, irq := Vector.replicate 2 0 }

def PtpPort.reset : PtpPort := { role := .slave, delay := none, req := none, resp := none, seq := 0 }

def Port.reset : Port :=
  { trained := true, tx := [], rx := [], siding := [], losses := [], arrived := [], out := [], held := [], tagged := (0, 0), waiting := [], asks := []
    asked := [], mark := [], dataAt := (0, 0), ctlAt := (0, 0), session := none
    queue := [], flits := [], ctlFolio := none, msgNo := 0, inMsg := none, ptp := PtpPort.reset }

def Fabric.reset : Fabric :=
  { plan := none, ports := Vector.replicate 12 Port.reset, ents := [], folio := 0, agreed := false, offset := 0
    synced := none, master := false, mgmt := PtpPort.reset, mgmtSent := none, failed := [], marks := [], hold := none, stops := [], resume := none, jkeys := [] }

/-- The model's configuration records (log 2): no pseudo-channel retired, clock codes 6 to 36 in steps of 2, every
sixteenth slot a gutter and the others owned by partition 0 and donated. -/
def Flash.reset : Flash :=
  { rom := [], firmware := [], records := [], signed := true, wellFormed := true, retire := 0, devid := 0, domain := 0
    points := Vector.ofFn fun i => (6 + 2 * i.val, 600 + 20 * i.val), point := 15, floor := 400
    limits := Vector.replicate 32 75, rota := 0, templim := 0xFFFF, vendor := 0, idKey := [], chain := []
    slots := Vector.ofFn fun i => if i.val % 16 = 15 then 0x80 else 0x44 }

def HostIf.reset : HostIf :=
  { stage := 0, bootCode := none, owner := false, moving := false, moveAt := none, ign := Vector.replicate 2 0, arg := 0, busy := none, reply := (0, 0)
    overrun := false, status := 0, op := 0, res := 0, irqs := Vector.replicate 2 0, bar2 := none, asidtbl := 0, apbase := 0
    rota := 0, templim := 0, temps := Vector.replicate 40 0
    vf := { current := 15, target := none, pending := none, since := 0, volt := 900, voltAt := none, settled := true }
    raised := [], unmet := false, power := [], budgetAt := 65536, rcap := none, capUntil := none, rcapIgn := 0, measured := [], doe := [] }

/-- The device right after reset, before the boot ROM's steps (23 R468), which the RESET event takes. -/
def State.reset : State :=
  { booted := false, now := 0, gcVal := 0, gcAt := 0, gcRate := 0, cur := none, curPart := 0, waves := [], ended := []
    blocks := [], grids := [], accs := [], mmas := [], moves := [], cards := [], held := [], nextUid := 0, completed := [], lastQueue := []
    slices := List.replicate 192 Slice.reset, clusters := List.replicate 32 (Cluster.reset 36), tiles := []
    mem := Mem.reset, asids := [], parts := Vector.replicate 8 Part.reset, arb := Arb.reset, fabric := Fabric.reset
    flash := Flash.reset, host := HostIf.reset, resuming := [], agenda := [], sensors := [], free := 0 }

end Sys2Proof.Machine
end

