-- ==== Sys2Proof/Machine/Ops.lean ====
section
/-! DEFINITION. The named operations over the state: lanes and threads, waves and blocks, time, events, bytes of
memory, fixed-latency results, the endings of threads, blocks and contexts, and taking a trap (19 R361). -/

namespace Sys2Proof.Machine

/-! ## Lanes -/

def allLanes : W32 := 0xFFFFFFFF

/-- The lanes of a mask, ascending. -/
def lanesOf (m : W32) : List Nat := (List.range 32).filter fun i => m.getLsbD i

/-- The mask of the lanes that pass a test. -/
def maskOf (p : Nat → Bool) : W32 :=
  (List.range 32).foldl (fun m i => if p i then m ||| (1#32 <<< i) else m) 0#32

def laneBit (i : Nat) : W32 := 1#32 <<< i

/-- The lowest lane of a mask; 32 for none. -/
def lowLane (m : W32) : Nat := (lanesOf m).headD 32

def highLane (m : W32) : Nat := (lanesOf m).getLastD 32

def countLanes (m : W32) : Nat := (lanesOf m).length

/-! ## Looking up -/

def State.waveOf (s : State) (uid : Nat) : Option Wave := s.waves.find? fun w => w.uid == uid
/-- A wave in its slot, or one that has left it. -/
def State.anyWave (s : State) (uid : Nat) : Option Wave := (s.waves ++ s.ended).find? fun w => w.uid == uid
def State.blockOf (s : State) (bid : Nat) : Option Block := s.blocks.find? fun b => b.bid == bid
def State.gridOf (s : State) (gid : Nat) : Option Grid := s.grids.find? fun g => g.gid == gid
def State.accOf (s : State) (id : Nat) : Option Access := s.accs.find? fun a => a.id == id

/-- The issuing path. -/
def State.path (s : State) : Cur := s.cur.getD default
/-- The wave of the issuing path, its block and its grid. -/
def State.w (s : State) : Wave := (s.waveOf s.path.uid).getD default
def State.blk (s : State) (w : Wave) : Block := (s.blockOf w.bid).getD default
def State.grd (s : State) (b : Block) : Grid := (s.gridOf b.gid).getD default
def State.b (s : State) : Block := s.blk s.w
def State.g (s : State) : Grid := s.grd s.b
def State.part (s : State) (p : Nat) : Part := s.parts[p]?.getD default
def State.cluster (s : State) (cl : Nat) : Cluster := s.clusters.getD cl default
/-- Slice `sl` of cluster `cl`. -/
def State.slice (s : State) (cl sl : Nat) : Slice := s.slices.getD (6 * cl + sl) default
/-- A pre-emption of the wave's partition has taken effect (19 R386). -/
def State.leaving (s : State) (w : Wave) : Bool := (s.part (s.grd (s.blk w)).part).preemptAt.isSome
def State.asid (s : State) (a : Nat) : Option AsidSt := s.asids.find? fun e => e.asid == a

/-! ## Changing one -/

def State.updWave (s : State) (uid : Nat) (f : Wave → Wave) : State :=
  { s with waves := modifyFirst (fun u => u.uid == uid) f s.waves }
/-- The same for a wave that may have left its slot. -/
def State.updAny (s : State) (uid : Nat) (f : Wave → Wave) : State :=
  { s with waves := modifyFirst (fun u => u.uid == uid) f s.waves, ended := modifyFirst (fun u => u.uid == uid) f s.ended }
def State.updBlock (s : State) (bid : Nat) (f : Block → Block) : State :=
  { s with blocks := modifyFirst (fun b => b.bid == bid) f s.blocks }
def State.updGrid (s : State) (gid : Nat) (f : Grid → Grid) : State :=
  { s with grids := modifyFirst (fun g => g.gid == gid) f s.grids }
def State.updAcc (s : State) (id : Nat) (f : Access → Access) : State :=
  { s with accs := modifyFirst (fun a => a.id == id) f s.accs }
def State.updPart (s : State) (p : Nat) (f : Part → Part) : State :=
  { s with parts := s.parts.setIfInBounds p (f (s.part p)) }
def State.updCluster (s : State) (cl : Nat) (f : Cluster → Cluster) : State :=
  { s with clusters := s.clusters.set cl (f (s.cluster cl)) }
def State.updSlice (s : State) (cl sl : Nat) (f : Slice → Slice) : State :=
  { s with slices := s.slices.set (6 * cl + sl) (f (s.slice cl sl)) }
def State.updAsid (s : State) (a : Nat) (f : AsidSt → AsidSt) : State :=
  { s with asids := modifyFirst (fun e => e.asid == a) f s.asids }

/-- Thread of a lane. -/
def Wave.th (w : Wave) (l : Nat) : Thread := w.threads[l]?.getD default
def Wave.setTh (w : Wave) (l : Nat) (t : Thread) : Wave := { w with threads := w.threads.setIfInBounds l t }
/-- The threads of a mask changed, each with its lane. -/
def Wave.updTh (w : Wave) (m : W32) (f : Nat → Thread → Thread) : Wave :=
  { w with threads := w.threads.mapIdx fun i t => if m.getLsbD i then f i t else t }

/-- The running threads (07 R142). -/
def Wave.running (w : Wave) : W32 := maskOf fun i => (w.th i).status == .run
/-- Threads that have not ended: running, or holding after the handler. -/
def Wave.alive (w : Wave) : W32 := maskOf fun i => (w.th i).status != .ended

/-- The next of the free values (log 5). -/
def State.draw (s : State) : W64 := Config.freeWord s.free
def State.drawn (s : State) : State := { s with free := s.free + 1 }

/-! ## Time (log 3) -/

/-- Nominal time of a cycle of a cluster's counter. -/
def Cluster.timeOf (c : Cluster) (cyc : Nat) : Nat := c.t0 + (cyc - c.cyc0) * Config.cycle c.clock

/-- The counter is frozen: the cluster stalls as a unit, in a release stall, or behind a peer (19 R355, R356). -/
def Cluster.frozen (c : Cluster) : Bool := c.stall.isSome || c.release.isSome || c.peer.isSome

/-- The cluster cycle counter. -/
def State.cycle (s : State) (cl : Nat) : Nat :=
  let c := s.cluster cl
  if c.frozen then c.cyc0 else c.cyc0 + (s.now - c.t0) / Config.cycle c.clock

/-- Rounds of a slice. -/
def State.round (s : State) (w : Wave) : Nat := (s.slice w.cl w.sl).round

/-- First and last cluster cycle of a slot's slice cycles in the current round (07 R139). -/
def Slice.slotCycles (sl : Slice) (pass slot : Nat) : Nat × Nat :=
  (sl.c0 + sl.ratio * slot * pass, sl.c0 + sl.ratio * (slot + 1) * pass - 1)

/-- Length of the current round in cluster cycles (01 R5). -/
def Slice.len (sl : Slice) (pass : Nat) : Nat := 6 * pass * sl.ratio

/-- The value of the global counter (20 R395, R397): ticks since it last was set, at the corrected rate. -/
def State.gc (s : State) : Nat :=
  s.gcVal + (s.now - s.gcAt) * (1000000 + s.gcRate).toNat / (1000000 * Config.gcTick)

/-- The value at another nominal time. -/
def State.tickOf (s : State) (t : Nat) : Nat := { s with now := t }.gc

/-- The nominal time at which the counter reaches a value. -/
def State.gcTime (s : State) (g : Nat) : Nat :=
  if g ≤ s.gcVal then s.gcAt
  else s.gcAt + ((g - s.gcVal) * (1000000 * Config.gcTick) + (1000000 + s.gcRate).toNat - 1) / (1000000 + s.gcRate).toNat

/-! ## Events (19 R379) -/

/-- An event presented to the arbiter. -/
def State.report (s : State) (e : Ev) : State :=
  { s with arb := { s.arb with inbox := s.arb.inbox ++ [(s.now, e)] } }

/-- Source fields of a cluster, slice and slot. -/
def Ev.at (e : Ev) (cl sl slot : Nat) : Ev := { e with die := cl / 8, cluster := cl % 8, slice := sl, slot := slot }

/-- An event of a wave. -/
def waveEv (code : Nat) (w : Wave) (g : Grid) (detail : List Nat) : Ev :=
  { (default : Ev) with code := code, asid := some g.l.asid, part := some g.part, detail := detail }.at w.cl w.sl w.slot

/-- An event of the marshal (19 R476). -/
def marshalEv (code : Nat) (part : Nat) (detail : List Nat) : Ev :=
  { (default : Ev) with code := code, part := some part, kind := 8, detail := detail }

/-- An event of a pseudo-channel's controller. -/
def chanEv (code pc : Nat) (detail : List Nat) : Ev :=
  { (default : Ev) with code := code, die := pc / 128, kind := 7, unit := pc, detail := detail }

/-- An event of the memory-side unit of a die. -/
def unitEv (code die : Nat) (detail : List Nat) : Ev :=
  { (default : Ev) with code := code, die := die, kind := 6, detail := detail }

/-- An event of the host interface. -/
def hostEv (code : Nat) (part : Option Nat) (detail : List Nat) : Ev :=
  { (default : Ev) with code := code, part := part, kind := 12, detail := detail }

/-! ## Bytes of the store -/

/-- Granules of a pseudo-channel (12 R235). -/
def granules : Nat := 1572864

/-- Key of byte 0 of a pseudo-channel's local index (12 R236). -/
def homeKey (p q : Nat) : Nat := p * 805306368 + 512 * q

def cpadKey (cl off : Nat) : Nat := 2 ^ 44 + cl * 2 ^ 24 + off
def spadKey (cl sl off : Nat) : Nat := 2 ^ 45 + (6 * cl + sl) * 2 ^ 20 + off
def dpadKey (die off : Nat) : Nat := 2 ^ 46 + die * 2 ^ 28 + off

/-- A byte of the store; a byte that nothing has written reads as 0 (log 1). -/
def Mem.byte (m : Mem) (k : Nat) : Byte := m.bytes.get 0 k

/-- The one write of the store. Every other write goes through it. -/
def Mem.write (m : Mem) (k : Nat) (bs : List Byte) : Mem := { m with bytes := m.bytes.setMany 0 k bs }

def Mem.read (m : Mem) (k n : Nat) : List Byte := m.bytes.getMany 0 k n

/-- The canonical form of the store. -/
def Mem.wf (m : Mem) : Bool := m.bytes.wf 0

def toBytes (n v : Nat) : List Byte := bytesOfWord n v
def ofBytes (bs : List Byte) : Nat := wordOfBytes bs

/-- The home of a granule in a live list (12 R239). -/
def home (live : List Nat) (g : Nat) : Nat × Nat := (live.getD (g % live.length) 0, g / live.length)

/-- CAP (12 R239, R248): a running sweep has lowered it already. -/
def Mem.cap (m : Mem) : Nat :=
  match m.sweep with
  | some sw => sw.live.length * granules * 512
  | none => m.live.length * granules * 512

/-- Where a granule stands now: its new home once the sweep has passed it (12 R251). -/
def Mem.homeNow (m : Mem) (g : Nat) : Nat × Nat :=
  match m.sweep with
  | some sw => if g > sw.f then home sw.live g else home m.live g
  | none => home m.live g

/-- The granule of an address is the one that the sweep is moving: an access of it is held (12 R251). -/
def Mem.atF (m : Mem) (pa : Nat) : Bool := match m.sweep with | some sw => pa / 512 == sw.f | none => false

/-- Key of a physical address below CAP. -/
def Mem.key (m : Mem) (pa : Nat) : Nat :=
  homeKey (m.homeNow (pa / 512)).1 (m.homeNow (pa / 512)).2 + pa % 512

/-- Bytes of main memory, within one granule. Nothing stands at or above CAP (12 R239). -/
def Mem.readPa (m : Mem) (pa n : Nat) : List Byte :=
  if pa < m.cap then m.read (m.key pa) n else List.replicate n 0
def Mem.writePa (m : Mem) (pa : Nat) (bs : List Byte) : Mem := if pa < m.cap then m.write (m.key pa) bs else m

/-- Bytes of main memory that may cross granules. -/
def Mem.readMany (m : Mem) (pa : Nat) : Nat → List Byte
  | 0 => []
  | n + 1 => (if pa < m.cap then m.byte (m.key pa) else 0) :: m.readMany (pa + 1) n
def Mem.putMany (m : Mem) (pa : Nat) : List Byte → Mem
  | [] => m
  | b :: bs => (if m.poison.contains (m.key pa / 32 * 32) then m else m.writePa pa [b]).putMany (pa + 1) bs

/-- Keys of the atoms that a run of bytes covers whole (12 R245). -/
def Mem.wholeAtoms (m : Mem) (pa n : Nat) : List Nat :=
  ((List.range ((pa % 32 + n + 31) / 32)).filter fun j =>
    decide (pa ≤ pa / 32 * 32 + 32 * j) && decide (pa / 32 * 32 + 32 * j + 32 ≤ pa + n)).map fun j =>
      m.key (pa / 32 * 32 + 32 * j)

/-- A write of main memory: atoms that it covers whole are poisoned no more, and a poisoned atom that it covers in part is
not written (12 R245). -/
def Mem.writeMany (m : Mem) (pa : Nat) (bs : List Byte) : Mem :=
  let whole := if m.poison.isEmpty then [] else m.wholeAtoms pa bs.length
  { m with poison := m.poison.filter fun k => !whole.contains k }.putMany pa bs

/-- A little-endian word of main memory. -/
def Mem.word (m : Mem) (pa n : Nat) : Nat := ofBytes (m.readMany pa n)

/-! ## Encrypted windows (11 R223) -/

def bytesNat (bs : List Byte) : List Nat := bs.map BitVec.toNat
def natBytes (bs : List Nat) : List Byte := bs.map (BitVec.ofNat 8)

/-- The two AES keys of a loaded key slot: the low half first. -/
def Mem.keyPair (m : Mem) (k : Fin 128) : List Nat × List Nat :=
  match m.keys.get none k.val with
  | some kp => (leBytes 32 (kp.toNat % 2 ^ 256), leBytes 32 (kp.toNat / 2 ^ 256))
  | none => ([], [])

/-- The 16-byte block that holds a physical address, through a key slot. -/
def Mem.readBlock (m : Mem) (k : Fin 128) (pa : Nat) : List Byte :=
  natBytes (xtsBlock true (m.keyPair k).1 (m.keyPair k).2 (pa / 512) (pa % 512 / 16)
    (bytesNat (m.readPa (pa / 16 * 16) 16)))
def Mem.writeBlock (m : Mem) (k : Fin 128) (pa : Nat) (bs : List Byte) : Mem :=
  m.writePa (pa / 16 * 16) (natBytes (xtsBlock false (m.keyPair k).1 (m.keyPair k).2 (pa / 512) (pa % 512 / 16)
    (bytesNat bs)))

/-- One byte of an encrypted window, and its write. -/
def Mem.readEnc (m : Mem) (k : Fin 128) (pa : Nat) : Nat → List Byte
  | 0 => []
  | n + 1 => (m.readBlock k pa).getD (pa % 16) 0 :: m.readEnc k (pa + 1) n
def Mem.writeEnc (m : Mem) (k : Fin 128) (pa : Nat) : List Byte → Mem
  | [] => m
  | b :: bs => (m.writeBlock k pa ((m.readBlock k pa).set (pa % 16) b)).writeEnc k (pa + 1) bs

/-- The bytes at a location. -/
def Mem.readLoc (m : Mem) (l : Loc) (n : Nat) : List Byte :=
  match l with
  | .pad k => m.read k n
  | .main pa none => m.readMany pa n
  | .main pa (some k) => m.readEnc k pa n

/-- Bytes written at a location. -/
def Mem.writeLoc (m : Mem) (l : Loc) (bs : List Byte) : Mem :=
  match l with
  | .pad k => m.write k bs
  | .main pa none => m.writeMany pa bs
  | .main pa (some k) => m.writeEnc k pa bs

/-- An atom of a run of main memory is poisoned (12 R245). -/
def Mem.lostPa (m : Mem) (pa n : Nat) : Bool :=
  !m.poison.isEmpty && (List.range ((pa % 32 + n + 31) / 32)).any fun j => m.poison.contains (m.key (pa / 32 * 32 + 32 * j))

def Mem.lost (m : Mem) (l : Loc) (n : Nat) : Bool :=
  match l with
  | .main pa _ => m.lostPa pa n
  | .pad _ => false

/-- Location `n` bytes further on. -/
def Loc.add (l : Loc) (n : Nat) : Loc :=
  match l with
  | .pad k => .pad (k + n)
  | .main pa e => .main (pa + n) e

/-- Whether two runs of bytes overlap. -/
def Loc.overlaps (a : Loc) (an : Nat) (b : Loc) (bn : Nat) : Bool :=
  match a, b with
  | .pad x, .pad y => decide (x < y + bn) && decide (y < x + an)
  | .main x _, .main y _ => decide (x < y + bn) && decide (y < x + an)
  | _, _ => false

def State.readLoc (s : State) (l : Loc) (n : Nat) : Nat := ofBytes (s.mem.readLoc l n)
def State.writeLoc (s : State) (l : Loc) (n v : Nat) : State :=
  { s with mem := s.mem.writeLoc l (toBytes n v) }
def State.writeBytes (s : State) (l : Loc) (bs : List Byte) : State := { s with mem := s.mem.writeLoc l bs }

/-! ## The block's pads (11 R210, R211) -/

/-- Bytes a block reaches in its cluster pad. -/
def Launch.cbytes (l : Launch) : Nat := l.cpad + 16 * l.barriers

/-- Members of the team of a block: T, or what is left for a last team (07 R150). -/
def Grid.members (g : Grid) (bl : Nat) : Nat := min g.l.team (g.blocks - bl / g.l.team * g.l.team)

/-- The block that is member `r` of a block's team, while it is resident. -/
def State.member (s : State) (b : Block) (r : Nat) : Option Block :=
  s.blocks.find? fun c => c.gid == b.gid && c.bl == b.bl / (s.grd b).l.team * (s.grd b).l.team + r

/-- Location of a byte range of a pad space, when the range lies within bounds. -/
def State.padLoc (s : State) (w : Wave) (sp : Space) (off n : Nat) : Option Loc :=
  let b := s.blk w
  let l := (s.grd b).l
  match sp with
  | .slice => if off + n ≤ l.spad then some (.pad (spadKey w.cl w.sl (b.sbase[w.sl]?.getD 0 + off))) else none
  | .cluster => if off + n ≤ l.cbytes then some (.pad (cpadKey w.cl (b.cbase + off))) else none
  | .die => if off + n ≤ l.dpad then some (.pad (dpadKey (w.cl / 8) (b.dbase + off))) else none
  | .peer =>
    if off / 2 ^ 27 = 0 ∧ off / 2 ^ 24 < (s.grd b).members b.bl ∧ off % 2 ^ 24 + n ≤ l.cbytes then
      match s.member b (off / 2 ^ 24) with
      | some c => some (.pad (cpadKey c.cl (c.cbase + off % 2 ^ 24)))
      | none => some (.pad (cpadKey w.cl (b.cbase + off % 2 ^ 24)))
    else none
  | .main => none

/-- The peer address names a lost member (11 R212, 19 R377). -/
def State.peerLost (s : State) (w : Wave) (off : Nat) : Bool :=
  match s.member (s.blk w) (off / 2 ^ 24 % 8) with
  | some c => c.lost
  | none => true

/-! ## Barrier objects (08 R172, R173) -/

structure Bar where
  expected : Nat
  arrived : Nat
  flags : Nat
  state : Nat
  gen : Nat
  deriving DecidableEq, Repr

/-- Key of barrier `i` of a block. -/
def State.barKey (s : State) (b : Block) (i : Nat) : Nat := cpadKey b.cl (b.cbase + (s.grd b).l.cpad + 16 * i)

def State.bar (s : State) (b : Block) (i : Nat) : Bar :=
  let v := ofBytes (s.mem.read (s.barKey b i) 16)
  ⟨fld v 0 24, fld v 24 24, fld v 48 8, fld v 56 8, fld v 64 32⟩

/-- The four fields of an object written; its reserved word stays (08 R173). -/
def State.setBar (s : State) (b : Block) (i : Nat) (o : Bar) : State :=
  { s with mem := s.mem.write (s.barKey b i) (toBytes 12 (o.expected + 2 ^ 24 * o.arrived + 2 ^ 48 * o.flags
      + 2 ^ 56 * o.state + 2 ^ 64 * o.gen)) }

/-- Whether a byte range of the store overlaps an object in state 0x01 of a block that is not lost (08 R181,
19 R377). -/
def State.liveBar (s : State) (k n : Nat) : Bool :=
  s.blocks.any fun b => !b.lost && !b.retired && (List.range (s.grd b).l.barriers).any fun i =>
    decide (k < s.barKey b i + 16) && decide (s.barKey b i < k + n) && (s.bar b i).state == 1

/-- How far into a byte range the first byte lies that belongs to some block's barrier area (17 R322). -/
def State.barArea (s : State) (k n : Nat) : Option Nat :=
  s.blocks.findSome? fun b =>
    if b.retired || decide (s.barKey b (s.grd b).l.barriers ≤ k) || decide (k + n ≤ s.barKey b 0) then none
    else some (s.barKey b 0 - k)

/-! ## Completion flags (01 R17) -/

/-- The card's own flag field (17 R311). -/
def Card.flag (c : Card) : Nat := fld c.word.toNat 46 4
def Card.finished (c : Card) : Bool := c.code.isSome || c.cancelled

/-- Whether some operation counted toward flag `n` of a block is outstanding. -/
def State.counted (s : State) (bid n : Nat) : Bool :=
  s.accs.any (fun a => a.bid == bid && a.flag == n)
    || s.cards.any fun c => c.bid == bid && (c.setB == n || c.flag == n)

/-- Flags that an FLGCLR clears in the present cycle, after every set of it (17 R329). -/
def State.clearing (s : State) (bid : Nat) : BitVec 12 :=
  (s.waves ++ s.ended).foldl (fun m (w : Wave) =>
    if w.bid != bid then m
    else (w.pend.filter fun p => decide (p.due ≤ (s.slice w.cl w.sl).round)).foldl (fun m p =>
      p.wr.foldl (fun m x => match x with | .flagClr k => m ||| k.setWidth 12 | _ => m) m) m) 0

/-- The completion flags of a block as instructions and headers read them. -/
def State.flagsNow (s : State) (b : Block) : BitVec 12 := b.flags &&& ~~~ s.clearing b.bid

/-- Sets every flag of a block whose two conditions hold. -/
def State.settleFlags (s : State) (bid : Nat) : State :=
  s.updBlock bid fun b =>
    let set := (List.range 12).filter fun n => b.armed.getLsbD n && !b.flags.getLsbD n && !s.counted bid n
    { b with
      flags := set.foldl (fun f n => f ||| (1#12 <<< n)) b.flags
      flagAt := set.foldl (fun v n => v.setIfInBounds n s.now) b.flagAt }

def armBit (n : Nat) : BitVec 12 := if n < 12 then 1#12 <<< n else 0

/-- Condition 1 for a flag field: 15 names none. -/
def State.arm (s : State) (bid n : Nat) : State :=
  (s.updBlock bid fun b => { b with armed := b.armed ||| armBit n }).settleFlags bid

/-! ## Header fields (03 R50) -/

def Exec.len (e : Exec) : Nat := fld e.word.toNat 50 8
def Exec.join (e : Exec) : Option W64 :=
  if fld e.word.toNat 26 16 = 0 then none
  else some (e.hdr + ((BitVec.ofNat 16 (fld e.word.toNat 26 16)).signExtend 64 <<< 3))
def Exec.waitMask (e : Exec) : Nat := fld e.word.toNat 14 12
def Exec.setA (e : Exec) : Nat := fld e.word.toNat 10 4
def Exec.setB (e : Exec) : Nat := fld e.word.toNat 6 4
def Exec.isRestart (e : Exec) : Bool := odd (fld e.word.toNat 5 1)
def Exec.elastic (e : Exec) : Bool := odd (fld e.word.toNat 4 1)
/-- Prefetch covers the fall-through, and the target (01 R18). -/
def Exec.fallCovered (e : Exec) : Bool := odd (fld e.word.toNat 2 1)
def Exec.targetCovered (e : Exec) : Bool := odd (fld e.word.toNat 3 1)
/-- The address just past the block's last word. -/
def Exec.stop (e : Exec) : W64 := e.hdr + BitVec.ofNat 64 (8 + 8 * e.len)
/-- Whether an address is one of the block's instruction words. -/
def Exec.inside (e : Exec) (a : W64) : Bool :=
  decide (0 < (a - e.hdr).toNat) && decide ((a - e.hdr).toNat ≤ 8 * e.len)

/-! ## Translations (11 R220) -/

/-- Cached translations, and the entries that waves and cards of an ASID have read and not used yet, kept where a test
holds. The reads of entries under way for the ASID are withdrawn too: a path that still needs one asks again, so that no entry
read before is cached after. -/
def State.dropWalks (s : State) (asid : Nat) (keep : TlbEntry → Bool) (keepHit : WalkHit → Bool) : State :=
  let mine := fun (gid : Nat) => match s.gridOf gid with | some g => g.l.asid == asid | none => false
  { s with
    mem := { s.mem with
      tlb := s.mem.tlb.filter keep, reqs := s.mem.reqs.filter fun r => r.walk.isNone || r.asid != asid }
    waves := s.waves.map fun (w : Wave) =>
      if mine (s.blk w).gid then { w with walked := w.walked.filter keepHit } else w
    cards := s.cards.map fun (c : Card) => if mine c.gid then { c with walked := c.walked.filter keepHit } else c }

/-- Every translation of an ASID dropped. -/
def State.dropAsid (s : State) (asid : Nat) : State := s.dropWalks asid (fun e => e.asid != asid) fun _ => false

/-- A context has ended: its ASID's translations are dropped, unless another context of the ASID lives on. -/
def State.dropContext (s : State) (asid : Nat) : State :=
  if s.grids.any fun g => g.l.asid == asid && g.phase == .run then s
  else { s with mem := { s.mem with
    tlb := s.mem.tlb.filter fun e => e.asid != asid, reqs := s.mem.reqs.filter fun r => r.walk.isNone || r.asid != asid } }

/-! ## Endings (06 R128, 07 R161, 19 R375 to R377) -/

/-- A thread ends (06 R128). -/
def Thread.finish (t : Thread) : Thread := { t with status := .ended, ex := none, wait := .none }

/-- A wave leaves its slot: marks left are reported (19 R358), and its results in flight still arrive (log 76). -/
def State.dropWave (s : State) (w : Wave) : State :=
  let g := s.grd (s.blk w)
  let s := w.marks.foldl (fun s _ => s.report (waveEv 0x0102 w g [])) s
  { (s.updBlock w.bid fun b => { b with live := b.live - 1 }) with
    waves := s.waves.filter (fun u => u.uid != w.uid)
    ended := s.ended ++ [w.updTh allLanes fun _ t => t.finish] }

/-- The wave ends when its last thread has. -/
def State.settleWaveEnd (s : State) (uid : Nat) : State :=
  match s.waveOf uid with
  | some w => if w.alive = 0 then s.dropWave w else s
  | none => s

/-- The cards of a block that have not finished end with a code (19 R378): one not started at once, a started one at
the end of its current chunk. -/
def State.endCards (s : State) (bid code : Nat) : State :=
  { s with cards := s.cards.map fun c => if c.bid == bid && !c.finished then { c with stop := some code } else c }

/-- Every wave of a block stops, and its threads count as ended (19 R375). -/
def State.stopBlock (s : State) (bid : Nat) : State :=
  let s := (s.waves.filter fun w => w.bid == bid).foldl State.dropWave s
  s.endCards bid 0x21

/-- A block is marked lost while other members of its team still run (19 R377). -/
def State.markLost (s : State) (b : Block) : State :=
  let g := s.grd b
  if (List.range (g.members b.bl)).any (fun r =>
      match s.member b r with | some c => c.bid != b.bid && decide (0 < c.live) | none => false) then
    (s.updBlock b.bid fun b => { b with lost := true }).report
      ({ waveEv 0x010F default g [] with kind := 1 }.at b.cl 0 0)
  else s

/-- A block ends by a fault of one of its waves (19 R375): event 0x0001 or 0x0002. -/
def State.endBlock (s : State) (w : Wave) (code : Nat) (detail : List Nat) : State :=
  let b := s.blk w
  let s := s.report (waveEv code w (s.grd b) detail)
  let s := s.updGrid b.gid fun g => { g with blockFault := g.blockFault.orElse fun _ => some code }
  (s.stopBlock b.bid).markLost b

/-- Each memory-side unit reports the updates that it discards (13 R277, R281; log 93). -/
def State.reportDiscards (s : State) (g : Grid) (pas : List Nat) : State :=
  (List.range 4).foldl (fun (s : State) u =>
    let n := (pas.filter fun pa => pa / 512 % 4 == u).length
    if n = 0 then s
    else s.report { (default : Ev) with
      code := 0x010C, asid := some g.l.asid, part := some g.part, die := u, kind := 6, detail := [n] }) s

/-- Saved blocks of a context that ends are not placed again; a resume left with none is complete (19 R376, R391). -/
def State.dropSaved (s : State) (gid : Nat) : State :=
  let cut := s.resuming.map fun (v : Save) => { v with blocks := v.blocks.filter fun x => x.b.gid != gid }
  (cut.filter fun v => v.blocks.isEmpty).foldl (fun (s : State) v => s.report (hostEv 0x0116 (some v.part) []))
    { s with resuming := cut.filter fun v => !v.blocks.isEmpty }

/-- A context ends (19 R376): its blocks end, its held updates are discarded (13 R281). Blocks of it that are saved count
as retired. -/
def State.endContext (s : State) (gid : Nat) (e : Ev) : State :=
  match s.gridOf gid with
  | some g =>
    match g.phase with
    | .run =>
      let s := s.report { e with asid := some g.l.asid, part := some g.part }
      let here := (s.blocks.filter fun b => b.gid == gid && !b.retired).length
      let s := (s.updGrid gid fun g =>
        { g with phase := .faulted e.code, retired := g.next - here, out := [] }).dropContext g.l.asid
      let s := s.dropSaved gid
      let s := (s.blocks.filter fun b => b.gid == gid).foldl (fun s b => s.stopBlock b.bid) s
      let lost := (s.held.filter fun h => h.gid == gid).map Held.pa
      { s with held := s.held.filter fun h => h.gid != gid }.reportDiscards g lost
    | _ => s
  | none => s

/-- A context ends by an uncorrectable atom of a granule (12 R245). -/
def State.poisonEnd (s : State) (gid g : Nat) : State := s.endContext gid (chanEv 0x0005 (s.mem.homeNow g).1 [g])

/-! ## Fixed-latency results -/

/-- A result in flight to the wave of the issuing path. -/
def State.push (s : State) (p : Pend) : State :=
  s.updWave s.path.uid fun w => { w with pend := w.pend ++ [p] }

/-! ## Traps (19 R359 to R362) -/

/-- A trap detected in the issue round: its cause and detail field, and the header that TADDR names in a lane, when
the trap is one of a header (06 R124, 03 R51). -/
structure Trap where
  cause : Nat
  detail : Nat
  hdr : Nat → Option W64

def trapOf (cause : Nat) : Trap := ⟨cause, 0, fun _ => none⟩

/-- A trap whose TADDR is one header's address. -/
def trapAt (cause : Nat) (a : W64) : Trap := ⟨cause, 0, fun _ => some a⟩

/-- A thread enters the handler; `ex` is the execution whose instruction traps (19 R367). -/
def Thread.enter (t : Thread) (handler : W64) (cause : W32) (addr next : W64) (ex : Option Exec) : Thread :=
  { t with
    tcause := cause, taddr := addr, tnext := next
    tex := match ex with
      | some e => if e.inside addr || e.inside next then some e else none
      | none => none
    tdepth := t.depth, twait := t.wait, pc := handler, ex := none, wait := .none, flagWait := false }

/-- A wave takes a trap in a round (19 R361): `cause` gives the TCAUSE of each trapping lane, `addr` and `next` its
TADDR and where RTE .next resumes it, and `ex` the execution of an instruction that may have been its block's last. An
earlier hold of the wave (01 R26) ends with the entry (log 77). -/
def State.enterHandler (s : State) (uid : Nat) (lanes : W32) (cause : Nat → W32) (addr next : Nat → W64)
    (ex : Option Exec) : State :=
  match s.waveOf uid with
  | none => s
  | some w =>
    let h := (s.grd (s.blk w)).l.handler
    if w.handler || h = 0 then
      s.endBlock w 0x0001 [(cause (lowLane lanes)).toNat, (addr (lowLane lanes)).toNat]
    else
      let r := s.round w
      s.updWave uid fun w =>
        { (w.updTh w.running fun i t =>
            if lanes.getLsbD i then t.enter h (cause i) (addr i) (next i) (ex.orElse fun _ => t.ex)
            else t.enter h 0 t.pc t.pc t.ex) with
          savedJoins := w.joins, joins := [], marks := [], handler := true, walked := [], hold := r + 2 }

/-- The issuing path takes a trap of its instruction, in its Active lanes. A trapping instruction is not an issue that
arms the flags of its block (01 R17; log 78). -/
def State.takeTrap (s : State) (act : W32) (t : Trap) : State :=
  s.enterHandler s.path.uid act (fun _ => BitVec.ofNat 32 (t.cause + 256 * t.detail))
    (fun l => (t.hdr l).getD s.path.pc) (fun l => (t.hdr l).getD s.path.next) none

end Sys2Proof.Machine
end

