-- ==== Sys2Proof/Machine/Operands.lean ====
section
/-! DEFINITION. Operand forms (03 R60 to R63, 01 R12): what a field names, the checks made on it as the instruction
issues, the value it supplies, and the writes a result makes of it. -/

namespace Sys2Proof.Machine

/-! ## What an instruction names -/

/-- A use of an operand field: how many registers, and what the first number must be a multiple of. -/
structure OpUse where
  o : Opnd
  k : Nat
  al : Nat
  deriving DecidableEq, Repr

def use (o : Opnd) (k : Nat) : OpUse := ⟨o, k, k⟩

def rUses (r : RForm) (kd ka kb kc : Nat) : List OpUse := [use r.d kd, use r.a ka, use r.b kb, use r.c kc]

/-- Data and address of an M-format word. -/
def mUses (m : MForm) (kd ka : Nat) : List OpUse := [use m.d kd, use m.a ka]

def wide (b : Bool) : Nat := if b then 2 else 1

/-- The address operand of an access in a space (13 R260). -/
def addrRegs (m : MForm) : Nat := wide (m.space == .main)

/-- Operand fields in the order D, A, B, C (03 R66 step 4). A literal field counts as the zero operand. -/
def usesOf : Instr → List OpUse
  | .iadd t r | .isub t r | .imul t r | .imulhi t r | .imad t r | .idiv t r | .irem t r | .imin t r
  | .imax t r | .iabs t r | .ineg t r | .land t r | .lor t r | .lxor t r | .landn t r | .lnot t r
  | .brev t r | .mov t r => rUses r t.regs t.regs t.regs t.regs
  | .shl t r | .shr t r | .sar t r | .rot t _ r | .bfx t r => rUses r t.regs t.regs 1 1
  | .bfi t r => rUses r t.regs t.regs t.regs 1
  | .popc t r | .clz t r | .ctz t r => rUses r 1 t.regs 1 1
  | .icmp _ t r => rUses r 1 t.regs t.regs 1
  | .sel t r => rUses r t.regs t.regs t.regs 1
  | .movi k d _ => [use d (match k with | .i32 | .ui32 | .f => 1 | _ => 2)]
  | .movl _ d _ => [use d 2]
  | .lea t _ r => rUses r t.regs t.regs 1 1
  | .fadd t r | .fsub t r | .fmul t r | .fma t r | .fmin t r | .fmax t r | .fdiv t r | .fsqrt t r
  | .frcp t r | .frsq t r | .fexp t r | .fexp2 t r | .flog t r | .flog2 t r | .ferf t r | .ferfc t r
  | .fint t r | .fsgn t _ r => rUses r t.regs t.regs t.regs t.regs
  | .fcmp _ t r => rUses r 1 t.regs t.regs 1
  | .fclass t r => rUses r 1 t.regs 1 1
  | .fscale t _ r => rUses r t.regs t.regs 1 1
  | .ffrexp t exp r => rUses r (if exp then 1 else t.regs) t.regs 1 1
  | .cvt dst src r => rUses r dst.regs src.regs 1 1
  | .fxrd r | .fxclr r | .fxen r => rUses r 1 1 1 1
  | .dot4 _ r | .dot8 _ r | .pack _ _ r | .mxq _ _ r => rUses r 1 1 1 1
  | .unpack _ _ r => rUses r 2 1 1 1
  | .brc _ a _ => [use a 1]
  | .jmpi r | .calli r => rUses r 1 2 1 1
  | .ld _ a64 m | .st a64 m | .lds _ a64 m | .sts a64 m => mUses m m.sz.regs (wide a64)
  | .idrd k r => rUses r (match k with | .gtid | .blw => 2 | _ => 1) 1 1 1
  | .shfl _ b64 r | .bcast _ b64 r => rUses r (wide b64) (wide b64) 1 1
  | .vote _ r => rUses r 1 1 1 1
  | .wred t _ r | .wscan t _ _ r => rUses r t.regs t.regs 1 1
  | .actm _ r | .binit _ r | .barv _ r | .bwait _ r | .brdf _ _ r => rUses r 1 1 1 1
  | .mma _ _ r => [⟨r.a, 24, 8⟩, use r.b 1, use r.c 1]
  | .mmasp _ _ r => [⟨r.a, 24, 8⟩, use r.b 2, use r.c 1]
  | .tld _ _ r | .tst _ _ r | .tflg _ _ r => rUses r 1 1 1 1
  | .gath _ _ m | .scat _ m | .atom _ m | .red _ m => mUses m m.sz.regs (addrRegs m)
  | .cas m | .redx _ m => mUses m (2 * m.sz.regs) (addrRegs m)
  | .pgreq _ m | .dscd m | .pgqry m => mUses m 1 2
  | .cpyj r | .gatj r | .dgstj r | .semadd _ r | .semset _ r | .semrd _ _ r | .semwt _ r | .flgclr r
  | .flgrd r | .jcan r | .tready r | .tstat r | .pkwr r => rUses r 1 1 1 1
  | .folrd k r => rUses r (match k with | .g0 => 2 | _ => 1) 1 1 1
  | .xld _ m | .xst m => mUses m m.sz.regs 1
  | .csrrd n d => [use d n.regs]
  | .csrwr n a => [use a n.regs]
  | .qst _ m => [use m.a 2]
  | _ => []

/-- The predicate of an R- or M-format word; none for the others (03 R53, R56). -/
def predOf : Instr → Option (Fin 16 × Bool)
  | .iadd _ r | .isub _ r | .imul _ r | .imulhi _ r | .imad _ r | .idiv _ r | .irem _ r | .imin _ r
  | .imax _ r | .iabs _ r | .ineg _ r | .land _ r | .lor _ r | .lxor _ r | .landn _ r | .lnot _ r
  | .brev _ r | .mov _ r | .shl _ r | .shr _ r | .sar _ r | .rot _ _ r | .bfx _ r | .bfi _ r | .popc _ r
  | .clz _ r | .ctz _ r | .icmp _ _ r | .sel _ r | .lea _ _ r
  | .fadd _ r | .fsub _ r | .fmul _ r | .fma _ r | .fmin _ r | .fmax _ r | .fdiv _ r | .fsqrt _ r
  | .frcp _ r | .frsq _ r | .fexp _ r | .fexp2 _ r | .flog _ r | .flog2 _ r | .ferf _ r | .ferfc _ r
  | .fint _ r | .fsgn _ _ r | .fcmp _ _ r | .fclass _ r | .fscale _ _ r | .ffrexp _ _ r | .cvt _ _ r
  | .fxrd r | .fxclr r | .fxen r | .dot4 _ r | .dot8 _ r | .pack _ _ r | .mxq _ _ r | .unpack _ _ r
  | .jmpi r | .calli r | .ret r | .exit r | .nop r
  | .idrd _ r | .shfl _ _ r | .bcast _ _ r | .vote _ r | .wred _ _ r | .wscan _ _ _ r | .actm _ r
  | .binit _ r | .barv _ r | .bwait _ r | .barw _ r | .binval _ r | .brdf _ _ r
  | .mma _ _ r | .mmasp _ _ r | .tzero _ r | .tld _ _ r | .tst _ _ r | .tflg _ _ r | .lrel r | .ordfl r
  | .cpyj r | .gatj r | .dgstj r | .semadd _ r | .semset _ r | .semrd _ _ r | .semwt _ r | .flgclr r
  | .flgrd r | .jcan r | .tready r | .tstat r | .folrd _ r | .rte _ r | .restart r | .pkwr r => some (r.p, r.neg)
  | .ld _ _ m | .st _ m | .lds _ _ m | .sts _ m | .gath _ _ m | .scat _ m | .pgreq _ m | .dscd m
  | .fence _ m | .atom _ m | .cas m | .red _ m | .redx _ m | .pgqry m | .xld _ m | .xst m | .qst _ m =>
    some (m.p, m.neg)
  | _ => none

/-- The residency-mask destination of an M-format word (03 R56). -/
def maskDstOf : Instr → Option (Fin 16)
  | .ld _ _ m | .st _ m | .lds _ _ m | .sts _ m | .gath _ _ m | .scat _ m | .atom _ m | .cas m | .red _ m
  | .redx _ m | .xld _ m | .xst m => m.b
  | _ => none

/-- Control transfers, with RTE and RESTART (01 R15, 19 R365): last in their block. -/
def isTransfer : Instr → Bool
  | .bra _ | .brc .. | .jmpi _ | .call _ | .calli _ | .ret _ | .exit _ | .rte .. | .restart _ => true
  | _ => false

/-- Words of the instruction (01 R15). -/
def wordsOf : Instr → Nat
  | .movl .. => 2
  | _ => 1

/-- Integer element codes (05 R116). -/
def elemIsInt : Elem → Bool
  | .i8 | .ui8 | .i4 | .ui4 | .i16 | .ui16 => true
  | _ => false

/-- Instructions that can call Flag (01 R26, 05 R100), taken by the shape of the instruction (log 84). -/
def canFlag : Instr → Bool
  | .fadd .. | .fsub .. | .fmul .. | .fma .. | .fmin .. | .fmax .. | .fcmp .. | .fdiv .. | .fsqrt .. | .frcp ..
  | .frsq .. | .fexp .. | .fexp2 .. | .flog .. | .flog2 .. | .ferf .. | .ferfc .. | .fint .. | .fscale ..
  | .ffrexp .. | .cvt .. | .mxq _ false _ | .tflg .mrg _ _ => true
  | .dot4 e _ | .dot8 e _ | .pack e _ _ | .unpack e _ _ => !elemIsInt e
  | .wred t _ _ | .wscan t _ _ _ => !(t == .i32 || t == .ui32)
  | _ => false

/-! ## Registers by number -/

/-- The v-register a field names, with x resolved (03 R60). -/
def Wave.vnum (w : Wave) : Opnd → Option Nat
  | .v n => some n.val
  | .vx n => some (w.x.toNat + n.val)
  | _ => none

/-- The `k` registers of an operand, as R24 names them. -/
def Wave.regsAt (w : Wave) (o : Opnd) (k : Nat) : List Reg :=
  match o with
  | .v n => (List.range k).map fun j => .v (n.val + j)
  | .vx n => (List.range k).map fun j => .v (w.x.toNat + n.val + j)
  | .s n => (List.range k).map fun j => .s (n.val + j)
  | .m n => [.m n.val]
  | .x => [.x]
  | .zero => []

/-- Every register that an instruction names, as R24 and R358 take it: operands, predicate, mask destination. -/
def Wave.named (w : Wave) (i : Instr) : List Reg :=
  ((usesOf i).map fun u => (match u.o with | .vx _ => [Reg.x] | _ => []) ++ w.regsAt u.o u.k).flatten
    ++ (match predOf i with | some (p, _) => if p.val = 0 then [] else [.m p.val] | none => [])
    ++ (match maskDstOf i with | some n => [.m n.val] | none => [])
    ++ (match i with | .qrd q _ | .qst q _ => [.q q.val] | _ => [])

/-! ## Values -/

def Wave.vreg (w : Wave) (n lane : Nat) : W32 := w.v.get 0 (32 * n + lane)
def Wave.sreg (w : Wave) (n : Nat) : W32 := w.s[n]?.getD 0
def Wave.mreg (w : Wave) (n : Nat) : W32 := w.m[n]?.getD 0

/-- Register `j` of an operand in a lane (03 R61). -/
def Wave.word (w : Wave) (o : Opnd) (j lane : Nat) : W32 :=
  match o with
  | .v n => w.vreg (n.val + j) lane
  | .vx n => w.vreg (w.x.toNat + n.val + j) lane
  | .s n => w.sreg (n.val + j)
  | .m n => w.mreg n.val
  | .x => w.x
  | .zero => 0

/-- The value of `k` registers, the low word first (01 R12). -/
def Wave.rd (w : Wave) (o : Opnd) (k lane : Nat) : Nat :=
  match k with
  | 0 => 0
  | 1 => (w.word o 0 lane).toNat
  | k + 2 => ((List.range (k + 2)).map fun j => (w.word o j lane).toNat * 2 ^ (32 * j)).sum

/-- The condition of BRC, VOTE and SEL in a lane (06 R123). -/
def Wave.cond (w : Wave) (o : Opnd) (lane : Nat) : Bool :=
  match o with
  | .m n => (w.mreg n.val).getLsbD lane
  | o => w.word o 0 lane != 0

/-- The writes of a result of `k` registers: per Active lane to a v-register, once to a wave-level register when
some lane is Active, none for the zero operand (03 R61, 04 R82). -/
def Wave.dst (w : Wave) (o : Opnd) (k : Nat) (act : W32) (val : Nat → Nat) : List Wr :=
  match o with
  | .v n => vecWr n.val
  | .vx n => vecWr (w.x.toNat + n.val)
  | .s n => if act = 0 then [] else (List.range k).map fun j => .s (n.val + j) (part (val (lowLane act)) j)
  | .m n => if act = 0 then [] else [.m n.val allLanes (part (val (lowLane act)) 0)]
  | .x => if act = 0 then [] else [.x (part (val (lowLane act)) 0)]
  | .zero => []
where
  part (v j : Nat) : W32 := BitVec.ofNat 32 (v / 2 ^ (32 * j))
  vecWr (n : Nat) : List Wr :=
    ((lanesOf act).map fun l => (List.range k).map fun j => Wr.v (n + j) l (part (val l) j)).flatten

/-- The writes of one truth value a lane: bits of mN, or all ones in a v-register (04 R90). -/
def Wave.dstBool (w : Wave) (o : Opnd) (act : W32) (val : Nat → Bool) : List Wr :=
  match o with
  | .m n => if act = 0 then [] else [.m n.val act (maskOf fun l => act.getLsbD l && val l)]
  | o => w.dst o 1 act fun l => if val l then 0xFFFFFFFF else 0

/-! ## Checks as the instruction issues (03 R66) -/

/-- Active(lane) of an instruction on the issuing path (00 R8). -/
def State.act (s : State) (i : Instr) : W32 :=
  match predOf i with
  | none => s.path.lanes
  | some (p, neg) =>
    if p.val = 0 then (if neg then 0 else s.path.lanes)
    else s.path.lanes &&& (if neg then ~~~ s.w.mreg p.val else s.w.mreg p.val)

/-- The execution of the issuing path. -/
def State.ex? (s : State) : Option Exec := (s.w.th (lowLane s.path.lanes)).ex
def State.exec (s : State) : Exec := s.ex?.getD default

/-- The instruction is the last of its block; the block ends at `next` (01 R15). -/
def State.isLast (s : State) : Bool := s.path.next == s.exec.stop

/-- Step 2 of 03 R66 by position: a control transfer that is not last, or a split MOVL (01 R15). -/
def State.positionOk (s : State) (i : Instr) : Bool :=
  (!isTransfer i || s.isLast) && (wordsOf i == 1 || s.exec.inside (s.path.next - 8))

/-- An indirect pair, quad or A block of a matrix operation whose first number breaks its alignment (01 R12, 03 R57, 09 R188;
log 16). -/
def Wave.alignOk (w : Wave) (u : OpUse) : Bool :=
  match w.vnum u.o with
  | some n => n % u.al == 0
  | none => true

/-- The registers lie below the allotment (03 R60, 01 R12). -/
def Wave.boundsOk (w : Wave) (regs : Nat) (u : OpUse) : Bool :=
  match w.vnum u.o with
  | some n => decide (n + u.k ≤ regs)
  | none => true

/-- Barrier and tile literals against the block's pool and allotment (08 R163, 09 R188). -/
def Launch.literalOk (l : Launch) : Instr → Bool
  | .binit b _ | .barv b _ | .bwait b _ | .barw b _ | .binval b _ | .brdf _ b _ => decide (b.val < l.barriers)
  | .mma _ t _ | .mmasp _ t _ | .tzero t _ | .tld _ t _ | .tst _ t _ | .tflg _ t _ => decide (t.val < l.tiles)
  | _ => true

/-- The checks common to every wave instruction, in order: the timing mark (19 R358), then steps 2 to 4 of 03 R66.
Step 1 and the fields of the word were checked by the decoder; `subOk` and `fieldsOk` stand here for a term that no
word decodes to. -/
def State.frontTrap (s : State) (i : Instr) : Option Trap :=
  if (s.w.named i).any (fun r => s.w.marks.contains r) then some (trapOf 0x0A)
  else if !(s.positionOk i && i.subOk) then some (trapOf 0x01)
  else if !(i.fieldsOk && s.g.l.literalOk i && (usesOf i).all s.w.alignOk) then some (trapOf 0x03)
  else if !(usesOf i).all (s.w.boundsOk s.g.l.regs) then some (trapOf 0x04)
  else none

end Sys2Proof.Machine
end

