-- ==== Sys2Proof/Machine/Flags.lean ====
section
/-! DEFINITION. Issuing an instruction, and the flags of THS: the enables an issue tests (02 R40, 05 R100), the
result in flight with the flags it raises, its delivery, the FP-enable trap, and the step of the path to what issues
next (01 R15 to R18). -/

namespace Sys2Proof.Machine

/-! ## The flags (01 R14) -/

/-- Flags raised by a computation, in THS order: bit 0 invalid, 1 divzero, 2 overflow, 3 underflow, 4 inexact. -/
abbrev Fl := BitVec 5

def fInvalid : Fl := 1
def fDivzero : Fl := 2
def fOverflow : Fl := 4
def fUnderflow : Fl := 8
def fInexact : Fl := 16

/-- Trap enables of a thread, THS[12:8]. -/
def Thread.enables (t : Thread) : Fl := t.ths.extractLsb' 8 5
/-- Sticky flags of a thread, THS[4:0]. -/
def Thread.flags (t : Thread) : Fl := t.ths.extractLsb' 0 5

/-- THS as software reads it: the depth in 23:16 (01 R14). -/
def Thread.readThs (t : Thread) : W32 := t.ths ||| (BitVec.ofNat 32 t.depth <<< 16)

/-- The fields of THS that a write changes. -/
def thsMask : W32 := 0x1F1F

/-! ## Joins (07 R145, R146) -/

/-- A thread stands at a join header at a depth. -/
def Thread.standsAt (t : Thread) (j : Join) : Bool :=
  t.status == .run && t.ex.isNone && t.pc == j.hdr && t.depth == j.depth && t.wait == .none

/-- Every thread of a record is at the join or has ended. -/
def Wave.joinDone (w : Wave) (j : Join) : Bool :=
  (lanesOf j.set).all fun l => (w.th l).standsAt j || (w.th l).status == .ended

/-- A record holds a thread that stands at its join while another of its threads runs elsewhere, unless the thread runs on
from there. -/
def Wave.holds (w : Wave) (j : Join) (l : Nat) : Bool :=
  j.set.getLsbD l && (w.th l).standsAt j && (w.th l).runsOn != some (j.hdr, j.depth) && !w.joinDone j

/-- The lanes that a record holds. -/
def Wave.heldBy (w : Wave) (j : Join) : W32 := maskOf fun l => w.holds j l

/-- The running threads that some record holds. -/
def Wave.heldLanes (w : Wave) : W32 := maskOf fun l => w.joins.any fun j => w.holds j l

/-- Threads released by the removal of a record issue from the next round, and their path re-anchors (07 R148). -/
def Wave.release (w : Wave) (round : Nat) (j : Join) : Wave :=
  w.updTh j.set fun _ t => if t.standsAt j then { t with readyAt := max t.readyAt (round + 1), reanchor := true } else t

/-- Complete records leave the list. -/
def Wave.dropDone (w : Wave) (round : Nat) : Wave :=
  { ((w.joins.filter w.joinDone).foldl (fun u j => u.release round j) w) with
    joins := w.joins.filter fun j => !w.joinDone j }

/-- The threads of a wave on the path of a lane (07 R142). -/
def Wave.pathOf (w : Wave) (lane : Nat) : W32 :=
  maskOf fun l => (w.th l).status == .run && (w.th l).pc == (w.th lane).pc && (w.th l).depth == (w.th lane).depth

/-- Every path is held: each has a thread that some record holds. -/
def Wave.stuck (w : Wave) : Bool :=
  w.running != 0 && (lanesOf w.running).all fun l => w.pathOf l &&& w.heldLanes != 0

/-- The paths that a record holds run on, whatever older record names the same place (07 R146). -/
def Wave.runOn (w : Wave) (j : Join) : Wave :=
  w.updTh (maskOf fun l => w.pathOf l &&& w.heldBy j != 0) fun _ t => { t with runsOn := some (j.hdr, j.depth) }

/-- When every path is held, the newest record that holds one leaves the list (07 R146). -/
def Wave.unstick (w : Wave) (round : Nat) : Wave :=
  if w.stuck then
    match w.joins.find? fun j => w.heldBy j != 0 with
    | some j => { (w.runOn j).release round j with joins := w.joins.erase j }
    | none => w
  else w

def Wave.settleJoins (w : Wave) (round : Nat) : Wave := (w.dropDone round).unstick round

def State.settleJoins (s : State) (uid : Nat) : State :=
  s.updWave uid fun w => w.settleJoins (s.round w)

/-! ## The end of the handler (19 R367) -/

/-- A thread that has left the handler. -/
def TStatus.hasLeft : TStatus → Bool | .left _ => true | _ => false

/-- Once every thread has left the handler or ended, the wave leaves it: the join list comes back when every thread
left by RTE, and the threads issue again in the second round after this one. -/
def Wave.settleHandler (w : Wave) (round : Nat) : Wave :=
  if w.handler && w.running == 0 && (w.threads.toList.any fun t => t.status.hasLeft) then
    let all := w.threads.toList.all fun t => t.status != .left false
    { (w.updTh allLanes fun _ t =>
        if t.status.hasLeft then { t with status := .run, readyAt := round + 2 } else t) with
      handler := false, joins := if all then w.savedJoins else [], savedJoins := [] }
  else w

/-- What follows every issue: the end of the handler, the join list, and the wave's end. -/
def State.settle (s : State) (uid : Nat) : State :=
  ((s.updWave uid fun w => w.settleHandler (s.round w)).settleJoins uid).settleWaveEnd uid

/-! ## Going on to the next instruction -/

/-- A thread whose instruction has issued and who goes on at the word after it: the next instruction of its block, or
the header that follows (01 R15, R18). -/
def Thread.goOn (t : Thread) (round : Nat) (next : W64) (last covered : Bool) : Thread :=
  { t with
    pc := next, ex := if last then none else t.ex
    readyAt := if last && !covered then round + 2 else round + 1 }

/-- A thread whose instruction issues: the anchor and the ageing count (07 R143, R148). -/
def Thread.issues (t : Thread) (round : Nat) : Thread :=
  { t with
    anchor := if t.reanchor then round else t.anchor
    reanchor := false, flagWait := false, aged := 0 }

/-- Every thread of the issuing path marked as issuing, and the walks of the wave dropped. -/
def State.markIssue (s : State) : State :=
  s.updWave s.path.uid fun w =>
    { (w.updTh s.path.lanes fun _ t => t.issues (s.round w)) with walked := [] }

/-- The last instruction of a block arms the flags of its header (01 R17). -/
def State.armLast (s : State) : State :=
  if s.isLast then (s.arm s.w.bid s.exec.setA).arm s.w.bid s.exec.setB else s

/-- The path goes on past an instruction that is no taken transfer. -/
def State.advance (s : State) : State :=
  let last := s.isLast
  let cov := s.exec.fallCovered
  (s.armLast.updWave s.path.uid fun w =>
    w.updTh s.path.lanes fun _ t => t.goOn (s.round w) s.path.next last cov).settle s.path.uid

/-- The issue of an instruction on the issuing path: a trap of the common checks, or what the instruction does with
its Active lanes. -/
def State.issue (s : State) (i : Instr) (k : State → W32 → State) : State :=
  match s.frontTrap i with
  | some t => s.takeTrap (s.act i) t
  | none => k s.markIssue (s.act i)

/-- Issue with traps of the instruction's own description after the common checks (03 R66 step 5). -/
def State.issueChecked (s : State) (i : Instr) (own : State → W32 → Option Trap) (k : State → W32 → State) : State :=
  s.issue i fun t act =>
    match own s act with
    | some tr => s.takeTrap act tr
    | none => k t act

/-! ## Results -/

/-- A result without flags. -/
def State.result (s : State) (lat : Nat) (act : W32) (regs : List Reg) (wr : List Wr) : State :=
  s.push ⟨s.round s.w + lat, act, regs, wr, [], none, [], s.path.pc, s.path.next, s.ex?⟩

/-- Enables in force in the issue round, of the Active lanes that have one (05 R100). -/
def Wave.enablesOf (w : Wave) (act : W32) : List (Nat × Fl) :=
  ((lanesOf act).map fun l => (l, (w.th l).enables)).filter fun e => e.2 != 0

/-- A result that may call Flag: it keeps the enables, and with one of them set the wave issues nothing before the
result round (01 R26). -/
def State.resultFl (s : State) (lat : Nat) (act : W32) (regs : List Reg) (wr : List Wr) (fl : List (Nat × Fl)) :
    State :=
  let en := s.w.enablesOf act
  let r := s.round s.w
  let s := s.push ⟨r + lat, act, regs, wr, fl.filter fun e => e.2 != 0, none, en, s.path.pc, s.path.next, s.ex?⟩
  if en.isEmpty then s else s.updWave s.path.uid fun w => { w with hold := max w.hold (r + lat) }

/-- One write of a result applied to its wave. -/
def Wave.apply (w : Wave) : Wr → Wave
  | .v n l x => { w with v := w.v.set 0 (32 * n + l) x }
  | .s n x => { w with s := w.s.setIfInBounds n x }
  | .m n k x => { w with m := w.m.setIfInBounds n ((w.mreg n &&& ~~~ k) ||| (x &&& k)) }
  | .x x => { w with x := x }
  | .q n x => { w with q := w.q.setIfInBounds n x }
  | .ths l k x => w.updTh (laneBit l) fun _ t => { t with ths := (t.ths &&& ~~~ k) ||| (x &&& k) }
  | .latchOff => { w with latch := none }
  | .pkr .. | .flagClr _ | .tileZero _ | .tileRd .. | .tileClr _ => w

/-- The physical tile of a block's tile. -/
def Block.tile (b : Block) (t : Nat) : Nat := 16 * b.cl + b.tiles.getD t 0

def Tile.none : Tile := ⟨[], 0⟩
def State.tileAt (s : State) (k : Nat) : Tile := s.tiles.get Tile.none k
def State.setTile (s : State) (k : Nat) (t : Tile) : State := { s with tiles := s.tiles.set Tile.none k t }

/-- One write of a result applied: to the wave, or to what the wave shares. -/
def State.applyWr (s : State) (w : Wave) : Wr → State
  | .pkr k x => s.updGrid (s.blk w).gid fun g => { g with pkr := (g.pkr &&& ~~~ k) ||| (x &&& k) }
  | .flagClr k => s.updBlock w.bid fun b =>
      { b with flags := b.flags &&& ~~~ k.truncate 12, armed := b.armed &&& ~~~ k.truncate 12 }
  | .tileZero t => s.setTile ((s.blk w).tile t) Tile.none
  | .tileClr t => s.setTile ((s.blk w).tile t) { s.tileAt ((s.blk w).tile t) with fl := 0 }
  | .tileRd t n none =>
    s.updAny w.uid fun w => w.apply (.s n ((s.tileAt ((s.blk w).tile t)).fl.setWidth 32))
  | .tileRd t n (some m) =>
    s.updAny w.uid fun w =>
      (lanesOf m).foldl (fun w l => w.apply (.v n l ((s.tileAt ((s.blk w).tile t)).fl.setWidth 32))) w
  | x => s.updAny w.uid fun w => w.apply x

/-- A write that reaches past the wave. -/
def Wr.shared : Wr → Bool
  | .pkr .. | .flagClr _ | .tileZero _ | .tileRd .. | .tileClr _ => true
  | _ => false

/-- Results of a block's ended waves that reach past them are in flight. -/
def State.lingers (s : State) (bid : Nat) : Bool :=
  s.ended.any fun w => w.bid == bid && w.pend.any fun p => p.wr.any Wr.shared || p.mrg.isSome

/-- Flags ORed into THS (02 R40). -/
def Wave.orFlags (w : Wave) (fl : List (Nat × Fl)) : Wave :=
  fl.foldl (fun w e => w.updTh (laneBit e.1) fun _ t => { t with ths := t.ths ||| e.2.setWidth 32 }) w

/-- Flags raised in a lane whose enables were 1. -/
def Pend.trapping (p : Pend) (l : Nat) : Fl :=
  (((p.fl.find? fun e => e.1 == l).map Prod.snd).getD 0) &&& (((p.en.find? fun e => e.1 == l).map Prod.snd).getD 0)

/-- A result arrives: its flags are raised, then its registers are written, or, where an enabled flag was raised, the
FP-enable trap is taken and no register is written (02 R40). -/
def State.deliver (s : State) (w : Wave) (p : Pend) : State :=
  let p := match p.mrg with
    | some t => { p with fl := (lanesOf p.lanes).map fun l => (l, ((s.tileAt ((s.blk w).tile t)).fl).setWidth 5) }
    | none => p
  let s := s.updAny w.uid fun w => w.orFlags p.fl
  if (lanesOf p.lanes).any (fun l => p.trapping l != 0) then
    s.enterHandler w.uid (p.lanes &&& w.running)
      (fun l => BitVec.ofNat 32 (0x09 + 256 * (p.trapping l).toNat)) (fun _ => p.addr) (fun _ => p.next) p.ex
  else p.wr.foldl (fun s x => s.applyWr w x) s

/-! ## The common shapes of a meaning -/

/-- A fixed-latency instruction of `dk` destination registers without flags: one value a lane. -/
def alu (i : Instr) (d : Opnd) (dk lat : Nat) (val : Wave → Nat → Nat) (s : State) : State :=
  s.issue i fun s act =>
    (s.result lat act (s.w.regsAt d dk) (s.w.dst d dk act (val s.w))).advance

/-- The same with one truth value a lane. -/
def aluBool (i : Instr) (d : Opnd) (lat : Nat) (val : Wave → Nat → Bool) (s : State) : State :=
  s.issue i fun s act =>
    (s.result lat act (s.w.regsAt d 1) (s.w.dstBool d act (val s.w))).advance

/-- A fixed-latency instruction whose lanes compute a value and flags. -/
def aluFl (i : Instr) (d : Opnd) (dk lat : Nat) (val : Wave → Nat → Nat × Fl) (s : State) : State :=
  s.issue i fun s act =>
    (s.resultFl lat act (s.w.regsAt d dk) (s.w.dst d dk act fun l => (val s.w l).1)
      ((lanesOf act).map fun l => (l, (val s.w l).2))).advance

end Sys2Proof.Machine
end

