-- ==== Sys2Proof/Machine/Groom.lean ====
section
/-! DEFINITION. The protected groups of the on-chip arrays (12 R256 to R259): their owners, what an uncorrectable one that
is found brings about, and the groom. -/

namespace Sys2Proof.Machine

/-! ## Groups (12 R256; log 28)

A group is named by one key: pads by the key of its first byte; tiles from 2^47, 8,192 bytes each; registers from 2^48 and
A-latches from 2^49, 2^20 for each wave slot. -/

/-- Place of a wave's slot among those of the device. -/
def Wave.place (w : Wave) : Nat := (6 * w.cl + w.sl) * 6 + w.slot

def tileKey (tile : Nat) : Nat := 2 ^ 47 + 8192 * tile
/-- Register `reg` of lanes `2 pair` and `2 pair + 1`. -/
def regKey (place reg pair : Nat) : Nat := 2 ^ 48 + 2 ^ 20 * place + 8 * (16 * reg + pair)
def latchKey (place : Nat) : Nat := 2 ^ 49 + 2 ^ 20 * place

/-- The grid whose block or wave holds a group (12 R256). A wave has its registers and spill area until its last thread ends (07
R161), and its A-latch from its start. -/
def State.ownerOf (s : State) (k : Nat) : Option Nat :=
  let within := fun lo n => decide (lo ≤ k) && decide (k < lo + n)
  let held := fun (w : Wave) => w.place == (k % 2 ^ 48) / 2 ^ 20
  let reg := k % 2 ^ 20 / 128
  if k < 2 ^ 45 then
    (s.blocks.find? fun b => within (cpadKey b.cl b.cbase) (s.grd b).l.cbytes).map Block.gid
  else if k < 2 ^ 46 then
    ((s.blocks.find? fun b => !b.retired && (List.range 6).any fun sl =>
        within (spadKey b.cl sl (b.sbase[sl]?.getD 0)) (s.grd b).l.spad).map Block.gid).orElse fun _ =>
      (s.waves.find? fun w => within (spadKey w.cl w.sl w.spill) (32 * (s.grd (s.blk w)).l.spill)).map fun w => (s.blk w).gid
  else if k < 2 ^ 47 then
    (s.blocks.find? fun b => !b.retired && within (dpadKey (b.cl / 8) b.dbase) (s.grd b).l.dpad).map Block.gid
  else if k < 2 ^ 48 then
    (s.blocks.find? fun b => !b.retired && b.tiles.any fun t => 16 * b.cl + t == (k - 2 ^ 47) / 8192).map Block.gid
  else
    (s.waves.find? fun w => held w &&
      if k < 2 ^ 49 then decide (reg < (s.grd (s.blk w)).l.regs) else w.started.isSome).map fun w => (s.blk w).gid

/-- A group rewritten with zero data. -/
def State.zeroGroup (s : State) (k : Nat) : State :=
  if k < 2 ^ 47 then { s with mem := { s.mem with bytes := s.mem.bytes.drop (k / 32 * 32) (k / 32 * 32 + 32) } }
  else if k < 2 ^ 48 then
    let t := (k - 2 ^ 47) / 8192
    s.setTile t { s.tileAt t with el := (s.tileAt t).el.drop (k % 8192 / 32 * 8) (k % 8192 / 32 * 8 + 8) }
  else s

/-- Array of a group: slice pad 0, cluster pad 1, die pad 2, tiles 3, registers 4, A-latches 5. -/
def arrayOf (k : Nat) : Nat :=
  if k < 2 ^ 45 then 1 else if k < 2 ^ 46 then 0 else if k < 2 ^ 47 then 2 else if k < 2 ^ 48 then 3
  else if k < 2 ^ 49 then 4 else 5

/-- Die of a group. -/
def dieOf (k : Nat) : Nat :=
  if k < 2 ^ 45 then (k - 2 ^ 44) / 2 ^ 24 / 8 else if k < 2 ^ 46 then (k - 2 ^ 45) / 2 ^ 20 / 48
  else if k < 2 ^ 47 then (k - 2 ^ 46) / 2 ^ 28 else if k < 2 ^ 48 then (k - 2 ^ 47) / 8192 / 128
  else k % 2 ^ 48 / 2 ^ 20 / 288

/-- An event of the groom: array, group, and the owner field. -/
def groomEv (code k owner : Nat) : Ev :=
  { (default : Ev) with code := code, die := dieOf k, kind := 10, detail := [arrayOf k, k, owner] }

/-! ## What a finding brings about (12 R259) -/

/-- The errors of some groups are gone: they are rewritten with good code. -/
def Mem.mended (m : Mem) (gone : Nat → Bool) : Mem :=
  { m with broken := m.broken.filter fun k => !gone k, toMend := m.toMend.filter fun k => !gone k }

/-- An uncorrectable group is found: a free one is rewritten; an owned one ends its owner's context, and is rewritten when its
owner has released it. A finding in a context that has ended is reported all the same. -/
def State.foundGroup (s : State) (k : Nat) : State :=
  match s.ownerOf k with
  | none =>
    ({ s with mem := s.mem.mended fun j => j == k }.zeroGroup k).report
      (groomEv 0x010D k (2 ^ 13))
  | some g =>
    let asid := match s.gridOf g with | some g => g.l.asid | none => 0
    let s := { s with mem := { s.mem with
      broken := (k :: s.mem.broken).eraseDups, toMend := (k :: s.mem.toMend).eraseDups } }
    match (s.gridOf g).map Grid.phase with
    | some .run => s.endContext g (groomEv 0x0005 k asid)
    | _ => s.report { groomEv 0x0005 k asid with asid := some asid }

/-- The uncorrectable groups that a run of bytes touches. -/
def State.brokenAt (s : State) (k n : Nat) : List Nat :=
  s.mem.broken.filter fun g => decide (g < k + n) && decide (k < g + 32)

/-- Several groups are found. -/
def State.found (s : State) (ks : List Nat) : State := ks.foldl State.foundGroup s

/-- Whole groups are written: their errors are gone. -/
def State.renew (s : State) (k n : Nat) : State :=
  { s with mem := s.mem.mended fun g => decide (k ≤ g) && decide (g + 32 ≤ k + n) }

/-- The registers of a wave slot are given out with good code (12 R257). -/
def State.renewRegs (s : State) (place regs : Nat) : State :=
  { s with mem := s.mem.mended fun g => decide (regKey place 0 0 ≤ g) && decide (g < regKey place regs 0) }

/-! ## The groom (12 R258) -/

/-- One visit. -/
def State.groom (s : State) (k : Nat) (f : GroomFind) : State :=
  if f == .uncorrectable || s.mem.broken.contains k then s.foundGroup k else s

def execGroomVisit (base : Nat) (find : GroomFind) (s : State) : Out State Fault Refusal := .next (s.groom base find)

/-- Groups found uncorrectable whose owner has gone are rewritten (12 R259). One that nothing has found stays as it is. -/
def State.mendGroups (s : State) : State :=
  let free := s.mem.toMend.filter fun k => (s.ownerOf k).isNone
  let s := free.foldl State.zeroGroup s
  { s with mem := s.mem.mended fun k => free.contains k }

end Sys2Proof.Machine
end

