-- ==== Sys2Proof/Machine/Translate.lean ====
section
/-! DEFINITION. Address windows, page tables, protection keys (11 R213 to R224), what a lane finds at an address in any
space, and the fetch of a header with its block (03 R51, 06 R124). -/

namespace Sys2Proof.Machine

/-! ## Page tables (11 R217 to R219) -/

/-- How a walk ends: at a malformed entry of an address and level, at type 00, at type 11, or at a leaf. The last entry
read goes with it, and its address. -/
inductive Walk where
  | malformed (addr : Nat) (pte : Nat) (level : Nat)
  | absent (addr pte level : Nat)
  | discarded (addr pte : Nat)
  | leaf (addr pte : Nat)
  deriving DecidableEq, Repr

/-- Whether an entry read at a level is malformed (11 R218). -/
def pteBad (cap level pte : Nat) : Bool :=
  match pte % 4 with
  | 0 => false
  | 1 => level == 3 || fld pte 48 16 != 0 || fld pte 11 1 != 0 || fld pte 2 9 != 0
      || decide (cap ≤ fld pte 12 36 * 4096)
  | 2 => level != 3 || fld pte 48 16 != 0 || fld pte 11 1 != 0 || fld pte 2 1 != 0 || fld pte 12 4 != 0
      || decide (cap ≤ fld pte 16 32 * 65536)
  | _ => level != 3

/-- Low bits of an intermediate address that a level's index does not reach (11 R217). -/
def levelShift (level : Nat) : Nat := 43 - 9 * level

/-- Address of the entry of a level in its table. -/
def pteAddr (table ia level : Nat) : Nat := table + 8 * fld ia (levelShift level) 9

/-- A walk from a table, with `entry` reading the entry of a level at its address; `n` levels are left. -/
def walkFrom (entry : Nat → Nat → Option Nat) (cap ia : Nat) : Nat → Nat → Walk
  | 0, _ => .absent 0 0 3
  | n + 1, table =>
    let level := 3 - n
    let a := pteAddr table ia level
    match entry level a with
    | none => .malformed a 0 level
    | some pte =>
      if pteBad cap level pte then .malformed a pte level
      else match pte % 4 with
        | 0 => .absent a pte level
        | 1 => walkFrom entry cap ia n (fld pte 12 36 * 4096)
        | 2 => .leaf a pte
        | _ => .discarded a pte

/-- The translation cache of a die (11 R220). -/
def Mem.cached (m : Mem) (die asid ia level : Nat) : Option Nat :=
  (m.tlb.find? fun e => e.die == die && e.asid == asid && e.level == level
    && e.ia == ia / 2 ^ levelShift level).map fun e => e.pte.toNat

/-- An entry that a walk of the wave has read for the instruction that issues next (11 R219). -/
def Wave.walkedAt (w : Wave) (ia level : Nat) : Option Nat :=
  (w.walked.find? fun h => h.level == level && h.ia == ia / 2 ^ levelShift level).map fun h => h.pte.toNat

/-- The entry of a level: cached, read by the wave's walk, or as memory holds it; none at or above CAP. -/
def State.entry (s : State) (w : Wave) (asid ia level addr : Nat) : Option Nat :=
  match s.mem.cached (w.cl / 8) asid ia level with
  | some e => some e
  | none =>
    match w.walkedAt ia level with
    | some e => some e
    | none => if addr + 8 ≤ s.mem.cap then some (s.mem.word addr 8) else none

def State.walk (s : State) (w : Wave) (asid ia : Nat) : Walk :=
  walkFrom (s.entry w asid ia) s.mem.cap ia 3 (match s.asid asid with | some a => a.root | none => 0)

/-! ## Windows (11 R213 to R216) -/

def Window.holds (wd : Window) (va : Nat) : Bool :=
  decide (wd.vbase ≤ va) && decide (va < wd.vbase + 65536 * wd.size)

/-- The window of an address, with its index. -/
def Grid.window (g : Grid) (va : Nat) : Option (Nat × Window) :=
  (g.windows.zipIdx.find? fun e => e.1.holds va).map fun e => (e.2, e.1)

/-- Intermediate address, and the physical address of a window that is not paged. -/
def Window.ia (wd : Window) (va : Nat) : Nat := wd.ibase + (va - wd.vbase)

def Window.slot (wd : Window) : Option (Fin 128) := if wd.enc then some wd.keyidx else none

/-- What stands at a virtual address. -/
inductive Seen where
  | nowhere
  | flat (wd : Window) (pa : Nat)
  | paged (wd : Window) (ia : Nat) (walk : Walk)
  deriving DecidableEq, Repr

def State.seen (s : State) (w : Wave) (va : Nat) : Seen :=
  let g := s.grd (s.blk w)
  match g.window va with
  | none => .nowhere
  | some (_, wd) =>
    if wd.kind = 1 then .paged wd (wd.ia va) (s.walk w g.l.asid (wd.ia va)) else .flat wd (wd.ia va)

/-- The same for a class-0 access, which walks no page (11 R219). -/
def State.unwalked (s : State) (w : Wave) (va : Nat) : Seen :=
  match (s.grd (s.blk w)).window va with
  | none => .nowhere
  | some (_, wd) => if wd.kind = 1 then .paged wd (wd.ia va) (.absent 0 0 3) else .flat wd (wd.ia va)

/-! ## Protection (11 R216, R219, R221) -/

def keyRefuses (pkr : W64) (key : Nat) (wr : Bool) : Bool :=
  pkr.getLsbD (2 * key) || (wr && pkr.getLsbD (2 * key + 1))

/-- Which permissions an access needs: reading, writing, or a header fetch. -/
structure Need where
  rd : Bool
  wr : Bool
  x : Bool
  deriving DecidableEq, Repr

def Need.lacks (n : Need) (r w x : Bool) : Bool := (n.rd && !r) || (n.wr && !w) || (n.x && !x)

/-- Whether an access of `len` bytes is refused as a protection trap. A class-0 access to a paged window is not walked
(11 R219). -/
def Seen.refused (v : Seen) (pkr : W64) (cap len : Nat) (n : Need) (walked : Bool) : Bool :=
  match v with
  | .nowhere => true
  | .flat wd pa =>
    wd.kind == 2 || n.lacks wd.r wd.w wd.x || keyRefuses pkr wd.pkey n.wr || decide (cap < pa + len)
  | .paged wd _ walk =>
    n.lacks wd.r wd.w wd.x || (walked && match walk with
      | .malformed .. => true
      | .leaf _ pte =>
        n.lacks (odd (fld pte 8 1)) (odd (fld pte 9 1)) (odd (fld pte 10 1)) || keyRefuses pkr (fld pte 3 5) n.wr
      | _ => false)

/-- The page is non-resident or discarded. -/
def Seen.absent : Seen → Bool
  | .paged _ _ (.absent ..) | .paged _ _ (.discarded ..) => true
  | _ => false

/-- Where the bytes are. -/
def Seen.loc : Seen → Option Loc
  | .flat wd pa => some (.main pa wd.slot)
  | .paged wd ia (.leaf _ pte) => some (.main (fld pte 16 32 * 65536 + ia % 65536) wd.slot)
  | _ => none

/-- The malformed entry a walk met. -/
def Seen.bad : Seen → Option Nat
  | .paged _ _ (.malformed a _ _) => some a
  | _ => none

/-- Event 0x0109 for every malformed entry met (11 R218). -/
def State.reportBad (s : State) (w : Wave) (vs : List Seen) : State :=
  ((vs.filterMap Seen.bad).eraseDups).foldl
    (fun s a => s.report { waveEv 0x0109 w (s.grd (s.blk w)) [a] with kind := 6, cluster := 0, slice := 0, slot := 0 }) s

/-! ## Page walks (11 R219) -/

/-- A level of a walk that must be read from memory: intermediate address, level, address of the entry. -/
abbrev Gap := Nat × Nat × Nat

/-- The first entry of a walk that neither the die's cache nor an earlier read supplies. -/
def State.gapFrom (s : State) (w : Wave) (asid ia : Nat) : Nat → Nat → Option Gap
  | 0, _ => none
  | n + 1, table =>
    let level := 3 - n
    let a := pteAddr table ia level
    match (s.mem.cached (w.cl / 8) asid ia level).orElse fun _ => w.walkedAt ia level with
    | some pte =>
      if pteBad s.mem.cap level pte || pte % 4 != 1 then none else s.gapFrom w asid ia n (fld pte 12 36 * 4096)
    | none => if a + 8 ≤ s.mem.cap then some (ia, level, a) else none

/-- The entry that a virtual address still needs. -/
def State.gap (s : State) (w : Wave) (va : Nat) : Option Gap :=
  let g := s.grd (s.blk w)
  match g.window va with
  | none => none
  | some (_, wd) =>
    if wd.kind = 1 then
      s.gapFrom w g.l.asid (wd.ia va) 3 (match s.asid g.l.asid with | some a => a.root | none => 0)
    else none

/-- The entries to be read for a list of addresses. -/
def State.gaps (s : State) (w : Wave) (vas : List Nat) : List Gap := (vas.filterMap fun a => s.gap w a).eraseDups

/-- The read of one entry of a walk is requested, unless it is under way. -/
def State.askWalk (s : State) (w : Wave) (g : Gap) : State :=
  if s.mem.reqs.any fun r => r.addr == g.2.2 && match r.walk with
      | some (u, _, l) => u == w.uid && l == g.2.1 | none => false then s
  else
    let gr := s.grd (s.blk w)
    { s with mem := { s.mem with reqs := s.mem.reqs ++
        [⟨0, some (w.uid, g.1, g.2.1), g.2.2, 8, false, true, gr.part, gr.l.asid, s.now, w.cl, w.sl, none, false, false, []⟩] } }

/-! ## Header fetch (03 R51, 06 R124) -/

/-- The trap cause of fetching the word at an address, if the page refuses it. -/
def State.fetchTrap (s : State) (w : Wave) (va : Nat) : Option Nat :=
  let v := s.seen w va
  if v.refused (s.grd (s.blk w)).pkr s.mem.cap 8 ⟨false, false, true⟩ true then some 0x0E
  else if v.absent then some 0x0D else none

/-- A code word. -/
def State.codeWord (s : State) (w : Wave) (va : Nat) : W64 :=
  match (s.seen w va).loc with
  | some l => BitVec.ofNat 64 (s.readLoc l 8)
  | none => 0

/-- Words of ELB: opcode 0x48 (06 R121). -/
def isElbWord (x : W64) : Bool := fld x.toNat 56 8 == 0x48

/-- The tests of 03 R51 on a header word alone. -/
def headerBad (x : W64) : Bool :=
  fld x.toNat 58 6 != 63 || fld x.toNat 50 8 == 0 || (decide (12 ≤ fld x.toNat 10 4) && fld x.toNat 10 4 != 15)
    || (decide (12 ≤ fld x.toNat 6 4) && fld x.toNat 6 4 != 15) || fld x.toNat 0 2 != 0

/-- The trap cause of reading the word at an address as a header with its block: the page of the header, the header,
the page of the block's last word, and the elastic bit against the first instruction. -/
def State.headerTrap (s : State) (w : Wave) (a : W64) : Option Nat :=
  match s.fetchTrap w a.toNat with
  | some c => some c
  | none =>
    let h := s.codeWord w a.toNat
    if headerBad h then some 0x02
    else match s.fetchTrap w (a.toNat + 8 * fld h.toNat 50 8) with
      | some c => some c
      | none =>
        if odd (fld h.toNat 4 1) && !isElbWord (s.codeWord w (a.toNat + 8)) then some 0x02 else none

/-- The granule of a lost word at an address that the fetch may read. -/
def State.lostWord (s : State) (w : Wave) (va : Nat) : Option Nat :=
  match (s.seen w va).loc with
  | some (.main pa _) => if (s.fetchTrap w va).isNone && s.mem.lostPa pa 8 then some (pa / 512) else none
  | _ => none

/-- The granule of the first lost word that the fetch of a header reads: its own, or, unless it traps, one of its block. -/
def State.fetchLost (s : State) (w : Wave) (a : W64) : Option Nat :=
  if s.mem.poison.isEmpty then none
  else match s.lostWord w a.toNat with
    | some g => some g
    | none =>
      if (s.headerTrap w a).isSome then none
      else (List.range (fld (s.codeWord w a.toNat).toNat 50 8)).findSome? fun k => s.lostWord w (a.toNat + 8 + 8 * k)

/-- What the fetch of a header meets: its own page, and that of its block's last word. -/
def State.fetchSeen (s : State) (w : Wave) (a : W64) : List Seen :=
  s.seen w a.toNat :: (if (s.seen w a.toNat).loc.isNone then []
    else [s.seen w (a.toNat + 8 * fld (s.codeWord w a.toNat).toNat 50 8)])

/-- The malformed entries that header fetches meet are reported (11 R218). -/
def State.reportFetch (s : State) (w : Wave) (as : List W64) : State := s.reportBad w (as.flatMap (s.fetchSeen w))

/-- The block at a header, as an execution numbered `id`. -/
def State.readBlock (s : State) (w : Wave) (id : Nat) (a : W64) : Exec :=
  let h := s.codeWord w a.toNat
  ⟨id, a, h, (List.range (fld h.toNat 50 8)).map fun k => s.codeWord w (a.toNat + 8 + 8 * k)⟩

/-- The check of a join target at a divergence (03 R51): the pages of its word and, where that is a header, of its block. -/
def State.joinTrap (s : State) (w : Wave) (a : W64) : Option Nat :=
  match s.fetchTrap w a.toNat with
  | some c => some c
  | none =>
    let h := s.codeWord w a.toNat
    if fld h.toNat 58 6 = 63 then s.fetchTrap w (a.toNat + 8 * fld h.toNat 50 8) else some 0x02

/-! ## What a lane finds in any space (11 R210 to R212, R224) -/

/-- One lane's view of an access: where it goes, and what stands against it. -/
structure Look where
  loc : Option Loc
  refused : Bool
  /-- class 0 to a paged window -/
  mismatch : Bool
  absent : Bool
  /-- the lost team member (11 R212) -/
  lost : Option Nat
  seen : Seen
  deriving DecidableEq, Repr

def State.look (s : State) (w : Wave) (sp : Space) (cls1 : Bool) (n : Need) (ea len : Nat) : Look :=
  match sp with
  | .main =>
    let v := if cls1 then s.seen w ea else s.unwalked w ea
    let paged := match v with | .paged .. => true | _ => false
    ⟨v.loc, v.refused (s.grd (s.blk w)).pkr s.mem.cap len n cls1, paged && !cls1, cls1 && v.absent, none, v⟩
  | .peer =>
    ⟨s.padLoc w .peer ea len, (s.padLoc w .peer ea len).isNone, false, false,
      if s.peerLost w ea then some (ea / 2 ^ 24 % 8) else none, .nowhere⟩
  | sp => ⟨s.padLoc w sp ea len, (s.padLoc w sp ea len).isNone, false, false, none, .nowhere⟩

def Look.withheld (k : Look) : Bool := k.absent || k.lost.isSome

end Sys2Proof.Machine
end

