-- ==== Sys2Proof/Machine/Control.lean ====
section
/-! DEFINITION. Control flow (06 R121 to R130), divergence and reconvergence (07 R142 to R147), and the start of a
block (01 R15 to R18). -/

namespace Sys2Proof.Machine

/-! ## Leaving a block -/

/-- Where a thread goes when its path leaves a block: a header with its depth, and whether the direction is covered by
prefetch (01 R18); `none` when the thread ends. -/
abbrev Succ := Option (W64 × Nat × Bool)

/-- The threads that go on do not all go to one (PC, depth) pair. -/
def diverges (lanes : W32) (dest : Nat → Succ) : Bool :=
  let ps := (lanesOf lanes).filterMap fun l => (dest l).map fun x => (x.1, x.2.1)
  ps.any fun p => p != ps.headD p

/-- A thread goes to a header. -/
def Thread.goTo (t : Thread) (round : Nat) (x : W64 × Nat × Bool) : Thread :=
  { t with
    pc := x.1, depth := x.2.1, ex := none
    readyAt := if x.2.2 then round + 1 else round + 2
    restart := match t.restart with
      | some r => if x.2.1 < r.2 then none else t.restart
      | none => none }

/-- The trap of a divergence whose join target is not a header (03 R51). -/
def State.divergeTrap (s : State) (dest : Nat → Succ) : Option Trap :=
  match s.exec.join with
  | some j =>
    if diverges s.path.lanes dest then (s.joinTrap s.w j).map fun c => trapAt c s.exec.hdr else none
  | none => none

/-- The record of a divergence (07 R145). -/
def State.addJoin (s : State) (dest : Nat → Succ) : State :=
  match s.exec.join with
  | some j =>
    if diverges s.path.lanes dest then
      s.updWave s.path.uid fun w =>
        if w.joins.length < 16 then
          { w with joins := ⟨j, (w.th (lowLane s.path.lanes)).depth, s.path.lanes⟩ :: w.joins }
        else w
    else s
  | none => s

/-- The threads of the issuing path leave their block: flags armed, the record of a divergence, each thread at its
successor. -/
def State.leave (s : State) (dest : Nat → Succ) : State :=
  let r := s.round s.w
  ((s.armLast.addJoin dest).updWave s.path.uid fun w =>
    w.updTh s.path.lanes fun l t =>
      match dest l with
      | some x => t.goTo r x
      | none => t.finish).settle s.path.uid

/-- The header check of the targets of a transfer (06 R124): the first lane whose target fails gives the cause; TADDR
of each lane with a target is its target, of every other lane the instruction (log 87). -/
def State.targetTrap (s : State) (lanes : W32) (target : Nat → W64) : Option Trap :=
  ((lanesOf lanes).findSome? fun l => s.headerTrap s.w (target l)).map fun c =>
    ⟨c, 0, fun l => if lanes.getLsbD l then some (target l) else none⟩

/-- Falling through past the last word of the block. -/
def State.fall (s : State) (l : Nat) : Succ := some (s.path.next, (s.w.th l).depth, s.exec.fallCovered)

/-- The word at which an I-format transfer aims (06 R121). -/
def relTarget (pc : W64) (imm : W32) : W64 := pc + (imm.signExtend 64 <<< 3)

/-- The lanes whose BRC is taken (06 R123). -/
def brcTaken (z : Bool) (a : Opnd) (s : State) (act : W32) : W32 :=
  maskOf fun l => act.getLsbD l && (s.w.cond a l != z)

/-- The 64-bit target of a lane (06 R121). -/
def indTarget (r : RForm) (s : State) (l : Nat) : W64 := BitVec.ofNat 64 (s.w.rd r.a 2 l)

/-- The Active lanes that return rather than end (06 R127). -/
def retLanes (s : State) (act : W32) : W32 := maskOf fun l => act.getLsbD l && (s.w.th l).depth != 0

def retTarget (s : State) (l : Nat) : W64 := (s.w.th l).rstack.headD 0

/-- The headers that a transfer goes to. -/
def State.targetsOf (s : State) (i : Instr) (act : W32) : List W64 :=
  (match i with
   | .bra imm | .call imm => if act = 0 then [] else [relTarget s.path.pc imm]
   | .brc z a imm => if brcTaken z a s act = 0 then [] else [relTarget s.path.pc imm]
   | .jmpi r | .calli r => ((lanesOf act).map fun l => indTarget r s l).eraseDups
   | .ret _ => ((lanesOf (retLanes s act)).map fun l => retTarget s l).eraseDups
   | _ => [])

/-- The granule of the first lost word among the headers that a transfer reads (06 R124, 12 R245): those of its targets, none when
one is misaligned, and, where the path diverges, that of its join. -/
def State.lostTarget (s : State) (i : Instr) (act : W32) (dest : Nat → Succ) : Option Nat :=
  if s.mem.poison.isEmpty then none
  else
    let ts := s.targetsOf i act
    let js := if diverges s.path.lanes dest then s.exec.join.toList else []
    if ts.any fun a => a.extractLsb' 0 3 != 0 then none else (ts ++ js).findSome? fun a => s.fetchLost s.w a

/-- Offset in the slice pad of a spill slot (06 R126). -/
def Wave.spillSlot (w : Wave) (k lane : Nat) : Nat := w.spill + 256 * (k - 1) + 8 * lane

/-- The spill slots that a transfer writes or reads (06 R125, R127), by level and lane. -/
def State.spillsOf (s : State) (i : Instr) (act : W32) : List (Nat × Nat) :=
  match i with
  | .call _ | .calli _ => (lanesOf act).filterMap fun l =>
      if 8 ≤ (s.w.th l).depth then some ((s.w.th l).depth - 7, l) else none
  | .ret _ => (lanesOf (retLanes s act)).filterMap fun l =>
      if 9 ≤ (s.w.th l).depth then some ((s.w.th l).depth - 8, l) else none
  | _ => []

/-- The uncorrectable groups among some spill slots of a wave (12 R259). -/
def State.spillsLost (s : State) (w : Wave) (ks : List (Nat × Nat)) : List Nat :=
  if s.mem.broken.isEmpty then []
  else (ks.flatMap fun x => s.brokenAt (spadKey w.cl w.sl (w.spillSlot x.1 x.2)) 8).eraseDups

/-- A transfer: a header that it can't read ends the context; then its own traps, the divergence check, a spill slot that it can't
read, and the threads leave. -/
def transfer (i : Instr) (own : State → W32 → Option Trap) (pre : State → W32 → State)
    (dest : State → W32 → Nat → Succ) (s : State) : State :=
  s.issue i fun t act =>
    match s.lostTarget i act (dest s act) with
    | some g => s.poisonEnd s.b.gid g
    | none =>
      match (own s act).orElse fun _ => s.divergeTrap (dest s act) with
      | some tr => (s.reportFetch s.w ((lanesOf act).filterMap tr.hdr ++ s.exec.join.toList)).takeTrap act tr
      | none =>
        match s.spillsLost s.w (s.spillsOf i act) with
        | [] => (pre t act).leave (dest s act)
        | ks => s.found ks

/-! ## Meanings: transfers (06 R123 to R128) -/

def execBra (imm : W32) (s : State) : Out State Fault Refusal :=
  .next (transfer (.bra imm) (fun s act => s.targetTrap act fun _ => relTarget s.path.pc imm) (fun s _ => s)
    (fun s _ l => some (relTarget s.path.pc imm, (s.w.th l).depth, s.exec.targetCovered)) s)

def execBrc (z : Bool) (a : Opnd) (imm : W32) (s : State) : Out State Fault Refusal :=
  .next (transfer (.brc z a imm) (fun s act => s.targetTrap (brcTaken z a s act) fun _ => relTarget s.path.pc imm)
    (fun s _ => s)
    (fun s act l =>
      if (brcTaken z a s act).getLsbD l then some (relTarget s.path.pc imm, (s.w.th l).depth, s.exec.targetCovered)
      else s.fall l) s)

/-- JMPI and CALLI: misalignment in any Active lane, then the headers (06 R124). -/
def indTrap (r : RForm) (s : State) (act : W32) : Option Trap :=
  if (lanesOf act).any fun l => (indTarget r s l).extractLsb' 0 3 != 0 then some (trapOf 0x10)
  else s.targetTrap act (indTarget r s)

def execJmpi (r : RForm) (s : State) : Out State Fault Refusal :=
  .next (transfer (.jmpi r) (indTrap r) (fun s _ => s)
    (fun s act l => if act.getLsbD l then some (indTarget r s l, (s.w.th l).depth, false) else s.fall l) s)

def Wave.spillLoc (w : Wave) (k lane : Nat) : Loc := .pad (spadKey w.cl w.sl (w.spillSlot k lane))

/-- The stack-overflow test over the Active lanes (06 R125). -/
def callTrap (s : State) (act : W32) : Option Trap :=
  ((lanesOf act).find? fun l =>
    let d := (s.w.th l).depth
    d == 255 || (decide (8 ≤ d) && decide (s.g.l.spill / 8 < d - 7))).map fun l =>
    ⟨0x08, (s.w.th l).depth, fun _ => none⟩

/-- The push of one thread (06 R125): the oldest entry spilled at depth 8 and deeper. -/
def State.pushCall (s : State) (l : Nat) : State :=
  let t := s.w.th l
  let s := if 8 ≤ t.depth then s.writeLoc (s.w.spillLoc (t.depth - 7) l) 8 (t.rstack.getLastD 0).toNat else s
  s.updWave s.path.uid fun w => w.setTh l { t with
    rstack := (s.path.next :: (if 8 ≤ t.depth then t.rstack.dropLast else t.rstack)) }

def State.pushCalls (s : State) (act : W32) : State := (lanesOf act).foldl State.pushCall s

def execCall (imm : W32) (s : State) : Out State Fault Refusal :=
  .next (transfer (.call imm)
    (fun s act => (s.targetTrap act fun _ => relTarget s.path.pc imm).orElse fun _ => callTrap s act)
    State.pushCalls
    (fun s _ l => some (relTarget s.path.pc imm, (s.w.th l).depth + 1, s.exec.targetCovered)) s)

def execCalli (r : RForm) (s : State) : Out State Fault Refusal :=
  .next (transfer (.calli r) (fun s act => (indTrap r s act).orElse fun _ => callTrap s act) State.pushCalls
    (fun s act l =>
      if act.getLsbD l then some (indTarget r s l, (s.w.th l).depth + 1, false) else s.fall l) s)

/-- The pop of one thread, with the refill from its spill slot. -/
def State.popRet (s : State) (l : Nat) : State :=
  let t := s.w.th l
  let rest := t.rstack.tail
  s.updWave s.path.uid fun w => w.setTh l { t with
    rstack := if 9 ≤ t.depth then rest ++ [BitVec.ofNat 64 (s.readLoc (w.spillLoc (t.depth - 8) l) 8)] else rest }

def execRet (r : RForm) (s : State) : Out State Fault Refusal :=
  .next (transfer (.ret r) (fun s act => s.targetTrap (retLanes s act) (retTarget s))
    (fun s act => (lanesOf (retLanes s act)).foldl State.popRet s)
    (fun s act l =>
      if !act.getLsbD l then s.fall l
      else if (s.w.th l).depth = 0 then none
      else some (retTarget s l, (s.w.th l).depth - 1, s.exec.targetCovered)) s)

def execExit (r : RForm) (s : State) : Out State Fault Refusal :=
  .next (transfer (.exit r) (fun _ _ => none) (fun s _ => s)
    (fun s act l => if act.getLsbD l then none else s.fall l) s)

/-! ## NOP and ELB (06 R129, R130) -/

def execNop (r : RForm) (s : State) : Out State Fault Refusal :=
  .next (s.issue (.nop r) fun s _ => s.advance)

/-- The four cases in which ELB is illegal. A budget of 0 was refused before them, as a reserved field (log 85). -/
def elbTrap (s : State) (_ : W32) : Option Trap :=
  if s.path.pc != s.exec.hdr + 8 || !s.exec.elastic || s.exec.join.isNone
      || (match s.w.region with | some g => decide (s.round s.w < g.exit) | none => false) then some (trapOf 0x01)
  else none

def execElb (imm : W32) (s : State) : Out State Fault Refusal :=
  .next (s.issueChecked (.elb imm) elbTrap fun s _ =>
    (s.updWave s.path.uid fun w => { w with
      region := some ⟨s.round w + imm.toNat, s.exec.join.getD 0, (w.th (lowLane s.path.lanes)).depth⟩ }).advance)

/-! ## The start of a block (01 R15 to R17, 19 R363) -/

/-- Nominal time at which the current round of a wave's slice opened. -/
def State.roundOpen (s : State) (w : Wave) : Nat := (s.slice w.cl w.sl).opened

/-- The wait mask is satisfied: every named flag is set, and, for a path that has waited, was set before this round
(01 R16). -/
def State.flagsReady (s : State) (w : Wave) (waited : Bool) (e : Exec) : Bool :=
  (List.range 12).all fun n => !odd (fld e.waitMask n 1) ||
    ((s.flagsNow (s.blk w)).getLsbD n && (!waited || decide ((s.blk w).flagAt[n]?.getD 0 < s.roundOpen w)))

/-- The path of a lane, which stands at a header, reads it and its block: an illegal header or a refused fetch traps,
flags that are clear make it wait (R16), and a restart point is recorded (R363). A word in a poisoned atom ends the context (12
R245). -/
def State.startBlock (s : State) (wv lane : Nat) : State :=
  match s.waves[wv]? with
  | none => s
  | some w =>
    let t := w.th lane
    if t.status == .run && t.ex.isNone && t.wait == .none && w.started.isSome then
      let lanes := w.pathOf lane
      if let some g := s.fetchLost w t.pc then s.poisonEnd (s.blk w).gid g
      else match s.headerTrap w t.pc with
      | some c => (s.reportFetch w [t.pc]).enterHandler w.uid lanes (fun _ => BitVec.ofNat 32 c) (fun _ => t.pc) (fun _ => t.pc) none
      | none =>
        let e := s.readBlock w s.nextUid t.pc
        if s.flagsReady w t.flagWait e then
          { s with nextUid := s.nextUid + 1 }.updWave w.uid fun w =>
            w.updTh lanes fun _ t =>
              { t with
                ex := some e, pc := t.pc + 8
                runsOn := if t.runsOn == some (t.pc, t.depth) then none else t.runsOn
                restart := if e.isRestart then some (e.hdr, t.depth) else t.restart }
        else s.updWave w.uid fun w => w.updTh lanes fun _ t => { t with flagWait := true, reanchor := true }
    else s

def execBlockStart (wv lane : Nat) (s : State) : Out State Fault Refusal := .next (s.startBlock wv lane)

end Sys2Proof.Machine
end

