-- ==== Sys2Proof/Machine/Int.lean ====
section
/-! DEFINITION. The meanings of the integer and address instructions (04 R79 to R95). -/

namespace Sys2Proof.Machine

/-! ## Values of a type (02 R28, R29; 04 R81) -/

/-- Bits w-1:0 of a register value, as a signed or unsigned number. -/
def ival (t : IType) (raw : Nat) : Int :=
  let v := raw % 2 ^ t.bits
  if t.signed && decide (2 ^ (t.bits - 1) ≤ v) then (v : Int) - 2 ^ t.bits else v

/-- A result reduced to w bits and written under R29: a narrow type extended to 32 bits by its signedness. -/
def iwrite (t : IType) (v : Int) : Nat :=
  let u := (v % 2 ^ t.bits).toNat
  if t.bits < 32 && t.signed && decide (2 ^ (t.bits - 1) ≤ u) then u + (2 ^ 32 - 2 ^ t.bits) else u

def ilow (t : IType) : Int := if t.signed then -(2 ^ (t.bits - 1)) else 0
def ihigh (t : IType) : Int := if t.signed then 2 ^ (t.bits - 1) - 1 else 2 ^ t.bits - 1

/-- Clamped to the range of the type (02 R28). -/
def iclamp (t : IType) (v : Int) : Int := min (max v (ilow t)) (ihigh t)

/-- The write rule of 04 R81: clamped with the saturate bit, else modulo 2^w. -/
def ifinish (t : IType) (sat : Bool) (v : Int) : Nat := iwrite t (if sat then iclamp t v else v)

/-- Operand of type T in a lane. -/
def Wave.iv (w : Wave) (t : IType) (o : Opnd) (l : Nat) : Int := ival t (w.rd o t.regs l)

/-- Rounds of a multiply: 2 in 64-bit forms (01 R23). -/
def mulLat (t : IType) : Nat := if t.bits = 64 then 2 else 1
def divLat (t : IType) : Nat := if t.bits = 64 then 12 else 6

/-- The shape of every instruction of the chapter with a w-bit result. -/
def intOp (i : Instr) (t : IType) (r : RForm) (lat : Nat) (f : Wave → Nat → Int) (s : State) : Out State Fault Refusal :=
  .next (alu i r.d t.regs lat (fun w l => ifinish t r.sat (f w l)) s)

/-! ## Arithmetic (04 R84, R85) -/

/-- IADD (04 R84). -/
def execIadd (t : IType) (r : RForm) (s : State) : Out State Fault Refusal :=
  intOp (.iadd t r) t r 1 (fun w l => w.iv t r.a l + w.iv t r.b l) s

/-- ISUB (04 R84). -/
def execIsub (t : IType) (r : RForm) (s : State) : Out State Fault Refusal :=
  intOp (.isub t r) t r 1 (fun w l => w.iv t r.a l - w.iv t r.b l) s

/-- IMUL (04 R84). -/
def execImul (t : IType) (r : RForm) (s : State) : Out State Fault Refusal :=
  intOp (.imul t r) t r (mulLat t) (fun w l => w.iv t r.a l * w.iv t r.b l) s

/-- IMULHI: the high half of the product (04 R84). -/
def execImulhi (t : IType) (r : RForm) (s : State) : Out State Fault Refusal :=
  intOp (.imulhi t r) t r (mulLat t) (fun w l => (w.iv t r.a l * w.iv t r.b l) / 2 ^ t.bits) s

/-- IMAD: one exact result, one reduction (04 R84). -/
def execImad (t : IType) (r : RForm) (s : State) : Out State Fault Refusal :=
  intOp (.imad t r) t r (mulLat t) (fun w l => w.iv t r.a l * w.iv t r.b l + w.iv t r.c l) s

/-- IMIN (04 R84). -/
def execImin (t : IType) (r : RForm) (s : State) : Out State Fault Refusal :=
  intOp (.imin t r) t r 1 (fun w l => min (w.iv t r.a l) (w.iv t r.b l)) s

/-- IMAX (04 R84). -/
def execImax (t : IType) (r : RForm) (s : State) : Out State Fault Refusal :=
  intOp (.imax t r) t r 1 (fun w l => max (w.iv t r.a l) (w.iv t r.b l)) s

/-- IABS (04 R84). -/
def execIabs (t : IType) (r : RForm) (s : State) : Out State Fault Refusal :=
  intOp (.iabs t r) t r 1 (fun w l => ((w.iv t r.a l).natAbs : Int)) s

/-- INEG (04 R84). -/
def execIneg (t : IType) (r : RForm) (s : State) : Out State Fault Refusal :=
  intOp (.ineg t r) t r 1 (fun w l => -(w.iv t r.a l)) s

/-- Quotient and remainder of 04 R85. -/
def idivmod (t : IType) (a b : Int) : Int × Int :=
  if b = 0 then
    (if t.signed then (if 0 ≤ a then -1 else 1) else 2 ^ t.bits - 1, a)
  else if t.signed && decide (a = ilow t) && decide (b = -1) then (ilow t, 0)
  else (Int.tdiv a b, a - b * Int.tdiv a b)

/-- IDIV (04 R85). -/
def execIdiv (t : IType) (r : RForm) (s : State) : Out State Fault Refusal :=
  intOp (.idiv t r) t r (divLat t) (fun w l => (idivmod t (w.iv t r.a l) (w.iv t r.b l)).1) s

/-- IREM (04 R85). -/
def execIrem (t : IType) (r : RForm) (s : State) : Out State Fault Refusal :=
  intOp (.irem t r) t r (divLat t) (fun w l => (idivmod t (w.iv t r.a l) (w.iv t r.b l)).2) s

/-! ## Logic, shifts and rotation (04 R86, R87) -/

/-- The low w bits of an operand. -/
def Wave.bits (w : Wave) (t : IType) (o : Opnd) (l : Nat) : Nat := w.rd o t.regs l % 2 ^ t.bits

/-- All ones in w bits. -/
def ones (t : IType) : Nat := 2 ^ t.bits - 1

/-- AND (04 R86). -/
def execAnd (t : IType) (r : RForm) (s : State) : Out State Fault Refusal :=
  intOp (.land t r) t r 1 (fun w l => ((w.bits t r.a l &&& w.bits t r.b l : Nat) : Int)) s

/-- OR (04 R86). -/
def execOr (t : IType) (r : RForm) (s : State) : Out State Fault Refusal :=
  intOp (.lor t r) t r 1 (fun w l => ((w.bits t r.a l ||| w.bits t r.b l : Nat) : Int)) s

/-- XOR (04 R86). -/
def execXor (t : IType) (r : RForm) (s : State) : Out State Fault Refusal :=
  intOp (.lxor t r) t r 1 (fun w l => ((w.bits t r.a l ^^^ w.bits t r.b l : Nat) : Int)) s

/-- ANDN (04 R86). -/
def execAndn (t : IType) (r : RForm) (s : State) : Out State Fault Refusal :=
  intOp (.landn t r) t r 1 (fun w l => ((w.bits t r.a l &&& (ones t - w.bits t r.b l) : Nat) : Int)) s

/-- NOT (04 R86). -/
def execNot (t : IType) (r : RForm) (s : State) : Out State Fault Refusal :=
  intOp (.lnot t r) t r 1 (fun w l => ((ones t - w.bits t r.a l : Nat) : Int)) s

/-- The count of a shift: 32 bits, unsigned. -/
def Wave.count (w : Wave) (o : Opnd) (l : Nat) : Nat := w.rd o 1 l

/-- SHL of 04 R87: the exact product, of which the write rule keeps or clamps. A count of w or more keeps the sign. -/
def shlVal (t : IType) (a : Int) (n : Nat) : Int := a * 2 ^ min n t.bits

/-- SAR of 04 R87: vacated bits copy bit w-1. -/
def sarVal (t : IType) (a n : Nat) : Nat :=
  let top := if 2 ^ (t.bits - 1) ≤ a then ones t - ones t / 2 ^ min n t.bits else 0
  a / 2 ^ min n t.bits + top

/-- ROT of 04 R87: left by n mod w. -/
def rotVal (t : IType) (a n : Nat) : Nat :=
  a * 2 ^ (n % t.bits) % 2 ^ t.bits + a / 2 ^ (t.bits - n % t.bits)

/-- SHL (04 R87). -/
def execShl (t : IType) (r : RForm) (s : State) : Out State Fault Refusal :=
  intOp (.shl t r) t r 1 (fun w l => shlVal t (w.iv t r.a l) (w.count r.b l)) s

/-- SHR (04 R87). -/
def execShr (t : IType) (r : RForm) (s : State) : Out State Fault Refusal :=
  intOp (.shr t r) t r 1 (fun w l => ((w.bits t r.a l / 2 ^ min (w.count r.b l) t.bits : Nat) : Int)) s

/-- SAR (04 R87). -/
def execSar (t : IType) (r : RForm) (s : State) : Out State Fault Refusal :=
  intOp (.sar t r) t r 1 (fun w l => ((sarVal t (w.bits t r.a l) (w.count r.b l) : Nat) : Int)) s

/-- ROT (04 R87). -/
def execRot (t : IType) (right : Bool) (r : RForm) (s : State) : Out State Fault Refusal :=
  intOp (.rot t right r) t r 1 (fun w l =>
    let n := w.count r.b l % t.bits
    ((rotVal t (w.bits t r.a l) (if right then t.bits - n else n) : Nat) : Int)) s

/-! ## Bit fields, counts and reversal (04 R88, R89) -/

/-- Position and effective length of a control word. -/
def bfPos (k : Nat) : Nat := k % 256
def bfLen (t : IType) (k : Nat) : Nat := if bfPos k < t.bits then min (k / 256 % 256) (t.bits - bfPos k) else 0

/-- BFX (04 R88). -/
def execBfx (t : IType) (r : RForm) (s : State) : Out State Fault Refusal :=
  intOp (.bfx t r) t r 1 (fun w l =>
    let k := w.count r.b l
    let n := bfLen t k
    let v := w.bits t r.a l / 2 ^ bfPos k % 2 ^ n
    if t.signed && decide (0 < n) && decide (2 ^ (n - 1) ≤ v) then (v : Int) - 2 ^ n else v) s

/-- BFI (04 R88). -/
def execBfi (t : IType) (r : RForm) (s : State) : Out State Fault Refusal :=
  intOp (.bfi t r) t r 1 (fun w l =>
    let k := w.count r.c l
    let n := bfLen t k
    let m := (2 ^ n - 1) * 2 ^ bfPos k
    (((w.bits t r.a l &&& (ones t - m % 2 ^ t.bits)) ||| (w.bits t r.b l % 2 ^ n * 2 ^ bfPos k) : Nat) : Int)) s

/-- Bit `i` of a number. -/
def natBit (a i : Nat) : Nat := a / 2 ^ i % 2

/-- The number of one bits among the low `n`. -/
def popcount (a : Nat) : Nat → Nat
  | 0 => 0
  | n + 1 => natBit a n + popcount a n

/-- Zero bits above the highest one of the low `n`. -/
def clzCount (a : Nat) : Nat → Nat
  | 0 => 0
  | n + 1 => if natBit a n = 1 then 0 else 1 + clzCount a n

/-- The low `n` bits in reverse order. -/
def revBits (a : Nat) : Nat → Nat
  | 0 => 0
  | n + 1 => natBit a 0 * 2 ^ n + revBits (a / 2) n

/-- A count of the w-bit value, written to one register. -/
def countOp (i : Instr) (t : IType) (r : RForm) (f : Nat → Nat) (s : State) : Out State Fault Refusal :=
  .next (alu i r.d 1 1 (fun w l => f (w.bits t r.a l)) s)

/-- POPC (04 R89). -/
def execPopc (t : IType) (r : RForm) (s : State) : Out State Fault Refusal :=
  countOp (.popc t r) t r (fun a => popcount a t.bits) s

/-- CLZ (04 R89). -/
def execClz (t : IType) (r : RForm) (s : State) : Out State Fault Refusal :=
  countOp (.clz t r) t r (fun a => clzCount a t.bits) s

/-- CTZ (04 R89). -/
def execCtz (t : IType) (r : RForm) (s : State) : Out State Fault Refusal :=
  countOp (.ctz t r) t r (fun a => clzCount (revBits a t.bits) t.bits) s

/-- BREV (04 R89). -/
def execBrev (t : IType) (r : RForm) (s : State) : Out State Fault Refusal :=
  intOp (.brev t r) t r 1 (fun w l => ((revBits (w.bits t r.a l) t.bits : Nat) : Int)) s

/-! ## Comparison, selection, moves (04 R90 to R95) -/

def icondHolds (c : ICond) (a b : Int) : Bool :=
  match c with
  | .eq => decide (a = b) | .ne => decide (a ≠ b) | .lt => decide (a < b) | .le => decide (a ≤ b)
  | .gt => decide (b < a) | .ge => decide (b ≤ a)

/-- ICMP (04 R90). -/
def execIcmp (cc : ICond) (t : IType) (r : RForm) (s : State) : Out State Fault Refusal :=
  .next (aluBool (.icmp cc t r) r.d 1 (fun w l => icondHolds cc (w.iv t r.a l) (w.iv t r.b l)) s)

/-- SEL (04 R91). -/
def execSel (t : IType) (r : RForm) (s : State) : Out State Fault Refusal :=
  intOp (.sel t r) t r 1 (fun w l => ((if w.cond r.c l then w.bits t r.a l else w.bits t r.b l : Nat) : Int)) s

/-- MOV (04 R92). -/
def execMov (t : IType) (r : RForm) (s : State) : Out State Fault Refusal :=
  intOp (.mov t r) t r 1 (fun w l => ((w.bits t r.a l : Nat) : Int)) s

/-- A binary32 bit pattern widened exactly to binary64; every NaN gives the canonical NaN (04 R93). -/
def widen32 (b : Nat) : Nat :=
  let sgn := b / 2 ^ 31 % 2
  let e := b / 2 ^ 23 % 256
  let f := b % 2 ^ 23
  if e = 255 then (if f = 0 then sgn * 2 ^ 63 + 0x7FF * 2 ^ 52 else 0x7FF8000000000000)
  else if e = 0 then
    (if f = 0 then sgn * 2 ^ 63
     else
      let z := clzCount f 23
      sgn * 2 ^ 63 + (896 - z) * 2 ^ 52 + (f * 2 ^ (z + 1) % 2 ^ 23) * 2 ^ 29)
  else sgn * 2 ^ 63 + (e + 896) * 2 ^ 52 + f * 2 ^ 29

/-- The value that a MOVI writes. -/
def moviVal (k : MoviKind) (imm : W32) : Nat :=
  match k with
  | .i32 | .ui32 | .f | .ui64 => imm.toNat
  | .i64 => (imm.signExtend 64).toNat
  | .d => widen32 imm.toNat

/-- Registers that a MOVI writes. -/
def moviRegs : MoviKind → Nat
  | .i32 | .ui32 | .f => 1
  | _ => 2

/-- MOVI (04 R93). -/
def execMovi (k : MoviKind) (d : Opnd) (imm : W32) (s : State) : Out State Fault Refusal :=
  .next (alu (.movi k d imm) d (moviRegs k) 1 (fun _ _ => moviVal k imm) s)

/-- MOVL (04 R94). -/
def execMovl (k : MovlKind) (d : Opnd) (lit : W64) (s : State) : Out State Fault Refusal :=
  .next (alu (.movl k d lit) d 2 1 (fun _ _ => lit.toNat) s)

/-- LEA (04 R95). -/
def execLea (t : IType) (sc : Fin 5) (r : RForm) (s : State) : Out State Fault Refusal :=
  intOp (.lea t sc r) t { r with sat := false } 1 (fun w l =>
    w.iv t r.a l + ival (if t.signed then .i32 else .ui32) (w.rd r.b 1 l) * 2 ^ sc.val
      + ival .i32 (w.rd r.c 1 l)) s

end Sys2Proof.Machine
end

