-- ==== Sys2Proof/Machine/Float.lean ====
section
/-! DEFINITION. Floating-point values and their rounding (02 R33 to R44): reading an encoding exactly, RoundTo with the
outcomes of R39, exact sums and products, correctly rounded quotients and roots, and the elementary functions by
integer intervals (05 R105, R106). -/

namespace Sys2Proof.Machine

/-! ## Formats (02 R33, R36) -/

/-- What a format does at the top of its exponent range. -/
inductive FKind where
  /-- infinities and NaNs -/
  | ieee
  /-- NaNs only: E4M3 -/
  | nanOnly
  /-- numbers only: FP6 and FP4 -/
  | finite
  deriving DecidableEq, Repr

structure Fmt where
  ebits : Nat
  mbits : Nat
  kind : FKind
  deriving DecidableEq, Repr

def Fmt.bias (f : Fmt) : Nat := 2 ^ (f.ebits - 1) - 1
def Fmt.bits (f : Fmt) : Nat := 1 + f.ebits + f.mbits
/-- Code of the largest finite value. -/
def Fmt.largest (f : Fmt) : Nat :=
  match f.kind with
  | .ieee => (2 ^ f.ebits - 1) * 2 ^ f.mbits - 1
  | .nanOnly => 2 ^ (f.ebits + f.mbits) - 2
  | .finite => 2 ^ (f.ebits + f.mbits) - 1
/-- Code of +∞ in a format that has it. -/
def Fmt.inf (f : Fmt) : Nat := (2 ^ f.ebits - 1) * 2 ^ f.mbits
/-- The canonical NaN (02 R35). -/
def Fmt.nan (f : Fmt) : Nat :=
  match f.kind with
  | .ieee => f.inf + 2 ^ (f.mbits - 1)
  | .nanOnly => 2 ^ (f.ebits + f.mbits) - 1
  | .finite => 0
def Fmt.sign (f : Fmt) : Nat := 2 ^ (f.ebits + f.mbits)

def binary64 : Fmt := ⟨11, 52, .ieee⟩
def binary32 : Fmt := ⟨8, 23, .ieee⟩
def binary16 : Fmt := ⟨5, 10, .ieee⟩
def bf16 : Fmt := ⟨8, 7, .ieee⟩
def e5m2 : Fmt := ⟨5, 2, .ieee⟩
def e4m3 : Fmt := ⟨4, 3, .nanOnly⟩
def e3m2 : Fmt := ⟨3, 2, .finite⟩
def e2m3 : Fmt := ⟨2, 3, .finite⟩
def e2m1 : Fmt := ⟨2, 1, .finite⟩

def ftype : FType → Fmt
  | .f => binary32 | .d => binary64 | .h => binary16 | .bf => bf16

/-! ## Values -/

/-- What an encoding stands for: a NaN, quiet or signalling; an infinity; or (-1)^neg * m * 2^e. -/
inductive FV where
  | nan (snan : Bool)
  | inf (neg : Bool)
  | fin (neg : Bool) (m : Nat) (e : Int)
  deriving DecidableEq, Repr

/-- The value of an encoding (02 R34, R35). -/
def Fmt.read (f : Fmt) (b : Nat) : FV :=
  let neg := b / f.sign % 2 == 1
  let c := b % f.sign
  let e := c / 2 ^ f.mbits
  let m := c % 2 ^ f.mbits
  if f.kind == .ieee && decide (f.inf ≤ c) then
    (if m = 0 then .inf neg else .nan (decide (m < 2 ^ (f.mbits - 1))))
  else if f.kind == .nanOnly && decide (f.largest < c) then .nan false
  else if e = 0 then .fin neg m (1 - (f.bias : Int) - f.mbits)
  else .fin neg (2 ^ f.mbits + m) ((e : Int) - f.bias - f.mbits)

def FV.isNan : FV → Bool | .nan _ => true | _ => false
def FV.isSnan : FV → Bool | .nan s => s | _ => false
def FV.isInf : FV → Bool | .inf _ => true | _ => false
def FV.isZero : FV → Bool | .fin _ m _ => m == 0 | _ => false
/-- The sign; a NaN counts as positive. -/
def FV.neg : FV → Bool | .nan _ => false | .inf n => n | .fin n _ _ => n
def FV.flip : FV → FV
  | .nan s => .nan s | .inf n => .inf (!n) | .fin n m e => .fin (!n) m e

/-- invalid for a signalling NaN among the operands. -/
def snanFl (vs : List FV) : Fl := if vs.any FV.isSnan then fInvalid else 0

/-! ## Rounding (00 R8, 02 R37 to R39) -/

/-- Number of bits of a number. -/
def bitLen (m : Nat) : Nat := if m = 0 then 0 else Nat.log2 m + 1

/-- m * 2^-sh, with the part below m set by `sticky`, to an integer; and whether it is inexact. -/
def roundShift (rm : Rm) (neg : Bool) (m sh : Nat) (sticky : Bool) : Nat × Bool :=
  let n := m / 2 ^ sh
  let rest := 2 * (m % 2 ^ sh)
  let inexact := rest != 0 || sticky
  let up : Bool :=
    match rm with
    | .rne => decide (2 ^ sh < rest) || (rest == 2 ^ sh && decide (0 < sh) && (sticky || n % 2 == 1))
    | .rna => decide (0 < sh) && decide (2 ^ sh ≤ rest)
    | .rtz => false
    | .rup => !neg && inexact
    | .rdn => neg && inexact
  (if up then n + 1 else n, inexact)

/-- An integer times 2^e at a quantum 2^q: the rounded count of quanta. -/
def roundAt (rm : Rm) (neg : Bool) (m : Nat) (e q : Int) (sticky : Bool) : Nat × Bool :=
  if q ≤ e then (m * 2 ^ (e - q).toNat, false) else roundShift rm neg m (q - e).toNat sticky

/-- The outcome of overflow (02 R39). -/
def Fmt.overflow (f : Fmt) (rm : Rm) (sat neg : Bool) : Nat :=
  let toInf : Bool :=
    match rm with
    | .rne | .rna => true
    | .rtz => false
    | .rup => !neg
    | .rdn => neg
  let s := if neg then f.sign else 0
  match f.kind with
  | .ieee => if sat || !toInf then s + f.largest else s + f.inf
  | .nanOnly => if sat || !toInf then s + f.largest else f.nan
  | .finite => s + f.largest

/-- The outcome of an exact infinity (02 R39). -/
def Fmt.ofInf (f : Fmt) (sat neg : Bool) : Nat × Fl :=
  let s := if neg then f.sign else 0
  match f.kind with
  | .ieee => (s + f.inf, 0)
  | .nanOnly => (if sat then s + f.largest else f.nan, fInvalid)
  | .finite => (s + f.largest, fInvalid)

/-- The outcome of a NaN (02 R39). -/
def Fmt.ofNan (f : Fmt) : Nat × Fl :=
  match f.kind with
  | .finite => (0, fInvalid)
  | _ => (f.nan, 0)

/-- RoundTo of a value that is not zero: (m + d) * 2^e with 0 < d < 1 where `sticky` holds, and then m has more bits
than the format keeps. -/
def Fmt.round (f : Fmt) (rm : Rm) (sat neg : Bool) (m : Nat) (e : Int) (sticky : Bool) : Nat × Fl :=
  let top : Int := e + bitLen m - 1
  let emin : Int := 1 - f.bias
  let q := max top emin - f.mbits
  let (n, inexact) := roundAt rm neg m e q sticky
  -- the code counts quanta from the subnormals up, so that a carry raises the exponent
  let code := ((q + f.mbits + f.bias - 1) * 2 ^ f.mbits + n).toNat
  if f.largest < code then (f.overflow rm sat neg, fOverflow ||| fInexact)
  else
    -- tiny after rounding: below the smallest normal with the exponent range left open
    let tiny := decide (top < emin) && decide ((roundAt rm neg m e (top - f.mbits) sticky).1 < 2 ^ (f.mbits + 1)
      ∨ top + 1 < emin)
    ((if neg then f.sign else 0) + code,
      (if inexact then fInexact else 0) ||| (if inexact && tiny then fUnderflow else 0))

/-- A zero of a sign. -/
def Fmt.zero (f : Fmt) (neg : Bool) : Nat := if neg then f.sign else 0

/-- Conversion of a value to a format: RoundTo, then R39; a zero keeps its sign (02 R42). -/
def Fmt.of (f : Fmt) (rm : Rm) (sat : Bool) : FV → Nat × Fl
  | .nan s => ((f.ofNan).1, (f.ofNan).2 ||| (if s then fInvalid else 0))
  | .inf n => f.ofInf sat n
  | .fin n m e => if m = 0 then (f.zero n, 0) else f.round rm sat n m e false

/-! ## Exact arithmetic -/

/-- The number m * 2^e with its sign, at a lower exponent. -/
def scaled (neg : Bool) (m : Nat) (e q : Int) : Int :=
  let v := (m * 2 ^ (e - q).toNat : Nat)
  if neg then -(v : Int) else v

/-- The sign of an exact zero sum: that of the operands when they agree, + otherwise, - under RDN (02 R38). -/
def zeroSign (rm : Rm) (a b : Bool) : Bool := if a == b then a else rm == .rdn

/-- The exact sum of finite values; the sign of a zero follows R38. -/
def addFin (rm : Rm) (an : Bool) (am : Nat) (ae : Int) (bn : Bool) (bm : Nat) (be : Int) : FV :=
  let q := min ae be
  let v := scaled an am ae q + scaled bn bm be q
  if v = 0 then .fin (if am = 0 ∧ bm = 0 then zeroSign rm an bn else rm == .rdn) 0 q
  else .fin (decide (v < 0)) v.natAbs q

/-- Sum: the value and the invalid flag of 02 R40. -/
def FV.add (rm : Rm) (a b : FV) : FV × Fl :=
  match a, b with
  | .nan _, _ | _, .nan _ => (.nan false, snanFl [a, b])
  | .inf n, .inf k => if n == k then (.inf n, 0) else (.nan false, fInvalid)
  | .inf n, _ => (.inf n, 0)
  | _, .inf k => (.inf k, 0)
  | .fin an am ae, .fin bn bm be => (addFin rm an am ae bn bm be, 0)

/-- Product, exact. -/
def FV.mul (a b : FV) : FV × Fl :=
  match a, b with
  | .nan _, _ | _, .nan _ => (.nan false, snanFl [a, b])
  | .inf n, .fin k m _ | .fin k m _, .inf n => if m = 0 then (.nan false, fInvalid) else (.inf (n != k), 0)
  | .inf n, .inf k => (.inf (n != k), 0)
  | .fin an am ae, .fin bn bm be => (.fin (an != bn) (am * bm) (ae + be), 0)

/-- The product inside a fused multiply-add: 0 * ∞ is invalid also with a NaN addend (02 R40). -/
def FV.fma (rm : Rm) (a b c : FV) : FV × Fl :=
  let (p, fp) := FV.mul a b
  let (r, fr) := FV.add rm p c
  (r, fp ||| fr ||| snanFl [c])

/-- A result rounded: its flags beside those of the computation. -/
def Fmt.finish (f : Fmt) (rm : Rm) (sat : Bool) (x : FV × Fl) : Nat × Fl :=
  let (b, fl) := f.of rm sat x.1
  (b, fl ||| x.2)

/-- Quotient, correctly rounded (05 R101). -/
def Fmt.div (f : Fmt) (rm : Rm) (sat : Bool) (a b : FV) : Nat × Fl :=
  let sgn := a.neg != b.neg
  match a, b with
  | .nan _, _ | _, .nan _ => (f.nan, snanFl [a, b])
  | .inf _, .inf _ => (f.nan, fInvalid)
  | .inf _, .fin .. => f.ofInf sat sgn
  | .fin .., .inf _ => (f.zero sgn, 0)
  | .fin _ am ae, .fin _ bm be =>
    if bm = 0 then (if am = 0 then (f.nan, fInvalid) else ((f.ofInf sat sgn).1, fDivzero))
    else if am = 0 then (f.zero sgn, 0)
    else
      let k := f.mbits + 4 + bitLen bm
      let n := am * 2 ^ k
      f.round rm sat sgn (n / bm) (ae - be - k) (n % bm != 0)

/-- The integer square root, bit by bit from bit `n` down. -/
def isqrtFrom (m : Nat) : Nat → Nat → Nat
  | 0, r => if (r + 1) * (r + 1) ≤ m then r + 1 else r
  | n + 1, r =>
    let t := r + 2 ^ (n + 1)
    isqrtFrom m n (if t * t ≤ m then t else r)

def isqrt (m : Nat) : Nat := isqrtFrom m (bitLen m / 2 + 1) 0

/-- Square root of a positive value (05 R105). -/
def Fmt.sqrtPos (f : Fmt) (rm : Rm) (m : Nat) (e : Int) : Nat × Fl :=
  let k : Nat := 2 * (f.mbits + 4) + (if (e - 2 * (f.mbits + 4)) % 2 = 0 then 0 else 1)
  let n := m * 2 ^ k
  let r := isqrt n
  f.round rm false false r ((e - k) / 2) (r * r != n)

/-- Reciprocal square root of a positive value. -/
def Fmt.rsqrtPos (f : Fmt) (rm : Rm) (m : Nat) (e : Int) : Nat × Fl :=
  let odd : Bool := e % 2 != 0
  let m' := if odd then 2 * m else m
  let e' := if odd then e - 1 else e
  let k := f.mbits + 4 + bitLen m'
  let r := isqrt (2 ^ (2 * k) / m')
  f.round rm false false r (-(k : Int) - e' / 2) (r * r * m' != 2 ^ (2 * k))

/-! ## Elementary functions (05 R106)

A function is enclosed between two integers at a working precision of `w` bits; when the enclosure fixes the bits
that rounding needs, it is rounded, and otherwise the precision is doubled (log 7). The exact value is irrational
outside the listed exceptions, so some bit always lies below. -/

/-- An enclosure lo * 2^-w to hi * 2^-w of a positive value. -/
structure Encl where
  lo : Nat
  hi : Nat
  deriving DecidableEq, Repr

/-- 2 * atanh(p/q) at `w` bits, by its series, with error below one unit a term. -/
def atanhSum (p2 q2 : Nat) : Nat → Nat → Nat → Nat → Nat
  | 0, _, _, acc => acc
  | n + 1, i, t, acc => if t = 0 then acc else atanhSum p2 q2 n (i + 2) (t * p2 / q2) (acc + t / i)

def atanh2 (w terms p q : Nat) : Nat := 2 * atanhSum (p * p) (q * q) terms 1 (2 ^ w * p / q) 0

/-- ln 2 at `w` bits, with error below 4 w units. -/
def ln2At (w : Nat) : Nat := atanh2 w w 1 3

/-- The exponential series of r * 2^-w. -/
def expSum (w r : Nat) : Nat → Nat → Nat → Nat → Nat
  | 0, _, _, acc => acc
  | n + 1, i, t, acc => if t = 0 then acc else expSum w r n (i + 1) (t * r / 2 ^ w / i) (acc + t)

/-- e^(x * 2^-w), x an integer, as an enclosure at `w` bits scaled by a power of two: the result is the enclosure
times 2^n. -/
def expEncl (w : Nat) (x : Int) : Encl × Int :=
  let l := ln2At w
  let n := x / l
  let r := (x - n * l).toNat
  let v := expSum w r (2 * w) 1 (2 ^ w) 0
  -- the reduction multiplies the error of ln 2 by n, below 2^12 in magnitude
  let err := 2 ^ 16 * w
  (⟨v - err, v + err⟩, n)

/-- ln of a positive number m * 2^e with the leading bit of m taken out, at `w` bits. -/
def lnEncl (w m : Nat) (e : Int) : Int :=
  let b := bitLen m - 1
  let p := m - 2 ^ b
  (e + b) * ln2At w + atanh2 w w p (m + 2 ^ b)

/-- π at `w` bits, by Machin's formula. -/
def atanInv (w q : Nat) : Nat → Nat → Nat → Int → Int
  | 0, _, _, acc => acc
  | n + 1, i, t, acc =>
    if t = 0 then acc
    else atanInv w q n (i + 2) (t / (q * q)) (if i % 4 = 1 then acc + t / i else acc - t / i)

def piAt (w : Nat) : Int := 16 * atanInv w 5 w 1 (2 ^ w / 5) 0 - 4 * atanInv w 239 w 1 (2 ^ w / 239) 0

/-- Sum of 2^n x^(2n) / (1 * 3 * ... * (2n+1)) at `w` bits, with x^2 = y * 2^-w. -/
def erfSum (w y : Nat) : Nat → Nat → Nat → Nat → Nat
  | 0, _, _, acc => acc
  | n + 1, i, t, acc => if t = 0 then acc else erfSum w y n (i + 2) (t * 2 * y / 2 ^ w / i) (acc + t)

/-- erf(x) / x at `w` bits for x^2 = y * 2^-w, 0 ≤ x ≤ 28, with the error that the sum brings. -/
def erfRatio (w y : Nat) : Encl :=
  let sum := erfSum w y (16 * w) 3 (2 ^ w) 0
  let (g, n) := expEncl w (-(y : Int))
  -- 2 / sqrt(pi) at w bits
  let c := 2 ^ (w + 1) * 2 ^ w / isqrt ((piAt w).toNat * 2 ^ w)
  let v (g : Nat) : Nat := ((g * sum : Nat) / 2 ^ w * c / 2 ^ w) / 2 ^ (-n).toNat
  -- relative error 2^30 units of the sum's size
  let err := 2 ^ 32 * w * (sum / 2 ^ w + 1)
  ⟨v g.lo - err, v g.hi + err⟩

/-- The bits kept for rounding. -/
def keep : Nat := 72

/-- What an enclosure settles: a number whose bits beyond `keep` are left to the sticky bit. -/
def Encl.settle (c : Encl) (e : Int) : Option (Nat × Int) :=
  let t := bitLen c.lo - keep
  if c.lo / 2 ^ t = c.hi / 2 ^ t ∧ bitLen c.lo ≥ keep then some (c.lo / 2 ^ t, e + t) else none

/-- The first precision at which the enclosure settles. -/
def ziv (encl : Nat → Encl × Int) : Nat → Nat → Nat × Int
  | 0, w => let (c, e) := encl w; (c.lo, e)
  | n + 1, w =>
    let (c, e) := encl w
    match c.settle e with
    | some r => r
    | none => ziv encl n (2 * w)

/-- m * 2^e at `w` bits, truncated. -/
def fixAt (w m : Nat) (e : Int) : Nat :=
  if 0 ≤ e + w then m * 2 ^ (e + w).toNat else m / 2 ^ (-(e + w)).toNat

/-- A result just above or below 1, and one far outside every format. -/
def justAbove1 : Nat × Int := (2 ^ 200, -200)
def justBelow1 : Nat × Int := (2 ^ 200 - 1, -200)
def huge : Nat × Int := (2 ^ 200, 5000)
def tinyVal : Nat × Int := (2 ^ 200, -6000)

/-- e^a for a finite a that is not zero. -/
def expVal (neg : Bool) (m : Nat) (e : Int) : Nat × Int :=
  let top := e + bitLen m
  if 12 < top then (if neg then tinyVal else huge)
  else if top < -190 then (if neg then justBelow1 else justAbove1)
  else ziv (fun w =>
    let x : Int := if neg then -(fixAt w m e : Int) else fixAt w m e
    let (c, n) := expEncl w x
    (c, n - w)) 5 512

/-- 2^a for a finite a that is no integer. -/
def exp2Val (neg : Bool) (m : Nat) (e : Int) : Nat × Int :=
  let top := e + bitLen m
  if 13 < top then (if neg then tinyVal else huge)
  else if top < -190 then (if neg then justBelow1 else justAbove1)
  else ziv (fun w =>
    let x : Int := if neg then -(fixAt w m e : Int) else fixAt w m e
    let n := x / 2 ^ w
    let (c, k) := expEncl w ((x - n * 2 ^ w) * ln2At w / 2 ^ w)
    (c, n + k - w)) 5 512

/-- ln a or log2 a for a finite positive a other than 1 (and other than a power of two for log2): sign and value. -/
def lnVal (two : Bool) (m : Nat) (e : Int) : Bool × Nat × Int :=
  let at_ (w : Nat) : Int :=
    let v := lnEncl w m e
    if two then v * 2 ^ w / ln2At w else v
  (decide (at_ 512 < 0), ziv (fun w =>
    let v := (at_ w).natAbs
    (⟨v - 2 ^ 16 * w, v + 2 ^ 16 * w⟩, -(w : Int))) 5 512)

/-- erf |a| for a finite a that is not zero. -/
def erfVal (m : Nat) (e : Int) : Nat × Int :=
  if 3 < e + bitLen m then justBelow1
  else ziv (fun w =>
    let c := erfRatio w (fixAt w (m * m) (2 * e))
    (⟨c.lo * m, c.hi * m⟩, e - w)) 4 1024

/-- erfc a for a finite a that is not zero. -/
def erfcVal (neg : Bool) (m : Nat) (e : Int) : Nat × Int :=
  let top := e + bitLen m
  if top < -190 then (if neg then justAbove1 else justBelow1)
  else if 5 < top then (if neg then (2 ^ 201 - 1, -200) else tinyVal)
  else if neg && decide (3 < top) then (2 ^ 201 - 1, -200)
  else if !neg && decide (28 * 2 ^ 60 ≤ fixAt 60 m e) then tinyVal
  else ziv (fun w =>
    let x := fixAt w m e
    let c := erfRatio w (fixAt w (m * m) (2 * e))
    let lo := c.lo * x / 2 ^ w
    let hi := (c.hi * (x + 1)) / 2 ^ w + 1
    (if neg then ⟨2 ^ w + lo, 2 ^ w + hi⟩ else ⟨2 ^ w - hi, 2 ^ w - lo⟩, -(w : Int))) 3 2048

end Sys2Proof.Machine
end

