-- ==== Sys2Proof/Machine/FloatFns.lean ====
section
/-! DEFINITION. The lane functions of the floating-point and packed instructions (05 R101 to R120), the canonical tree
(02 R43, R44) and the window accumulation (02 R47), each from bits to bits with the flags it raises. -/

namespace Sys2Proof.Machine

/-! ## Arithmetic (05 R101) -/

def fAdd (t : FType) (rm : Rm) (sat : Bool) (a b : Nat) : Nat × Fl :=
  (ftype t).finish rm sat (FV.add rm ((ftype t).read a) ((ftype t).read b))
def fSub (t : FType) (rm : Rm) (sat : Bool) (a b : Nat) : Nat × Fl :=
  (ftype t).finish rm sat (FV.add rm ((ftype t).read a) ((ftype t).read b).flip)
def fMul (t : FType) (rm : Rm) (sat : Bool) (a b : Nat) : Nat × Fl :=
  (ftype t).finish rm sat (FV.mul ((ftype t).read a) ((ftype t).read b))
def fFma (t : FType) (rm : Rm) (sat : Bool) (a b c : Nat) : Nat × Fl :=
  (ftype t).finish rm sat (FV.fma rm ((ftype t).read a) ((ftype t).read b) ((ftype t).read c))
def fDiv (t : FType) (rm : Rm) (sat : Bool) (a b : Nat) : Nat × Fl :=
  (ftype t).div rm sat ((ftype t).read a) ((ftype t).read b)

/-! ## Order (05 R102, R103, 02 R44) -/

/-- Exact comparison of two values that are not NaN; a zero has no sign here. -/
def FV.lt (a b : FV) : Bool :=
  match a, b with
  | .inf n, .inf k => n && !k
  | .inf n, _ => n
  | _, .inf k => !k
  | .fin an am ae, .fin bn bm be => decide (scaled an am ae (min ae be) < scaled bn bm be (min ae be))
  | _, _ => false

/-- The order of FMIN and FMAX: -0 below +0. -/
def FV.below (a b : FV) : Bool := a.lt b || (a.isZero && b.isZero && a.neg && !b.neg)

/-- FMIN and FMAX (05 R102). -/
def fMinMax (t : FType) (isMax : Bool) (a b : Nat) : Nat × Fl :=
  let f := ftype t
  let (x, y) := (f.read a, f.read b)
  let r := if x.isNan && y.isNan then f.nan
    else if x.isNan then b
    else if y.isNan then a
    else if isMax then (if x.below y then b else a) else (if y.below x then b else a)
  (r % 2 ^ f.bits, snanFl [x, y])

/-- FCMP (05 R103). -/
def fCmp (t : FType) (c : FCond) (a b : Nat) : Bool × Fl :=
  let f := ftype t
  let (x, y) := (f.read a, f.read b)
  let un := x.isNan || y.isNan
  let lt := x.lt y
  let gt := y.lt x
  let anyNan : Fl := if un then fInvalid else 0
  match c with
  | .eq => (!un && !lt && !gt, snanFl [x, y])
  | .ne => (un || lt || gt, snanFl [x, y])
  | .lt => (!un && lt, anyNan)
  | .le => (!un && !gt, anyNan)
  | .gt => (!un && gt, anyNan)
  | .ge => (!un && !lt, anyNan)
  | .un => (un, snanFl [x, y])
  | .ord => (!un, snanFl [x, y])

/-- FCLASS (05 R104). -/
def fClass (t : FType) (a : Nat) : Nat :=
  let f := ftype t
  let sub (m : Nat) : Bool := decide (m < 2 ^ f.mbits)
  match f.read a with
  | .inf true => 2 ^ 0
  | .inf false => 2 ^ 7
  | .nan true => 2 ^ 8
  | .nan false => 2 ^ 9
  | .fin true 0 _ => 2 ^ 3
  | .fin false 0 _ => 2 ^ 4
  | .fin true m _ => if sub m then 2 ^ 2 else 2 ^ 1
  | .fin false m _ => if sub m then 2 ^ 5 else 2 ^ 6

/-! ## Roots and functions (05 R105 to R107) -/

def fSqrt (t : FType) (rm : Rm) (a : Nat) : Nat × Fl :=
  let f := ftype t
  match f.read a with
  | .nan s => (f.nan, if s then fInvalid else 0)
  | .inf n => if n then (f.nan, fInvalid) else (f.inf, 0)
  | .fin n m e => if m = 0 then (f.zero n, 0) else if n then (f.nan, fInvalid) else f.sqrtPos rm m e

def fRcp (t : FType) (rm : Rm) (sat : Bool) (a : Nat) : Nat × Fl :=
  let f := ftype t
  match f.read a with
  | .nan s => (f.nan, if s then fInvalid else 0)
  | .inf n => (f.zero n, 0)
  | .fin n m e => if m = 0 then ((f.ofInf sat n).1, fDivzero) else f.div rm sat (.fin false 1 0) (.fin n m e)

def fRsq (t : FType) (rm : Rm) (a : Nat) : Nat × Fl :=
  let f := ftype t
  match f.read a with
  | .nan s => (f.nan, if s then fInvalid else 0)
  | .inf n => if n then (f.nan, fInvalid) else (f.zero false, 0)
  | .fin n m e =>
    if m = 0 then ((f.ofInf false n).1, fDivzero) else if n then (f.nan, fInvalid) else f.rsqrtPos rm m e

/-- The bits of 1 in a format. -/
def Fmt.one (f : Fmt) : Nat := f.bias * 2 ^ f.mbits

/-- A transcendental result: never exact. -/
def Fmt.inexactOf (f : Fmt) (rm : Rm) (sat neg : Bool) (v : Nat × Int) : Nat × Fl := f.round rm sat neg v.1 v.2 true

/-- The value of m * 2^e as an integer, when it is one. -/
def intOf (neg : Bool) (m : Nat) (e : Int) : Option Int :=
  let sgn (v : Nat) : Int := if neg then -(v : Int) else v
  if 64 < e + bitLen m then none
  else if 0 ≤ e then some (sgn (m * 2 ^ e.toNat))
  else if m % 2 ^ (-e).toNat = 0 then some (sgn (m / 2 ^ (-e).toNat)) else none

def fExp (t : FType) (rm : Rm) (sat : Bool) (a : Nat) : Nat × Fl :=
  let f := ftype t
  match f.read a with
  | .nan s => (f.nan, if s then fInvalid else 0)
  | .inf n => if n then (f.zero false, 0) else f.ofInf sat false
  | .fin n m e => if m = 0 then (f.one, 0) else f.inexactOf rm sat false (expVal n m e)

def fExp2 (t : FType) (rm : Rm) (sat : Bool) (a : Nat) : Nat × Fl :=
  let f := ftype t
  match f.read a with
  | .nan s => (f.nan, if s then fInvalid else 0)
  | .inf n => if n then (f.zero false, 0) else f.ofInf sat false
  | .fin n m e =>
    match intOf n m e with
    | some k => f.round rm sat false 1 (max (min k 6000) (-6000)) false
    | none => f.inexactOf rm sat false (exp2Val n m e)

/-- FLOG and FLOG2. -/
def fLog (t : FType) (two : Bool) (rm : Rm) (a : Nat) : Nat × Fl :=
  let f := ftype t
  match f.read a with
  | .nan s => (f.nan, if s then fInvalid else 0)
  | .inf n => if n then (f.nan, fInvalid) else (f.inf, 0)
  | .fin n m e =>
    if m = 0 then ((f.ofInf false true).1, fDivzero)
    else if n then (f.nan, fInvalid)
    else
      let b := bitLen m - 1
      if m = 2 ^ b ∧ (two ∨ e + b = 0) then f.of rm false (.fin (decide (e + b < 0)) (e + b).natAbs 0)
      else
        let v := lnVal two m e
        f.inexactOf rm false v.1 v.2
  
def fErf (t : FType) (rm : Rm) (a : Nat) : Nat × Fl :=
  let f := ftype t
  match f.read a with
  | .nan s => (f.nan, if s then fInvalid else 0)
  | .inf n => ((if n then f.sign else 0) + f.one, 0)
  | .fin n m e => if m = 0 then (f.zero n, 0) else f.inexactOf rm false n (erfVal m e)

def fErfc (t : FType) (rm : Rm) (a : Nat) : Nat × Fl :=
  let f := ftype t
  match f.read a with
  | .nan s => (f.nan, if s then fInvalid else 0)
  | .inf n => (if n then (f.bias + 1) * 2 ^ f.mbits else 0, 0)
  | .fin n m e => if m = 0 then (f.one, 0) else f.inexactOf rm false false (erfcVal n m e)

/-! ## Integral values, scaling, exponents, signs (05 R108 to R111) -/

def fInt (t : FType) (rm : Rm) (a : Nat) : Nat × Fl :=
  let f := ftype t
  match f.read a with
  | .nan s => (f.nan, if s then fInvalid else 0)
  | .inf _ => (a % 2 ^ f.bits, 0)
  | .fin n m e =>
    let (v, inexact) := roundAt rm n m e 0 false
    if 0 ≤ e then (a % 2 ^ f.bits, 0)
    else ((f.of rm false (.fin n v 0)).1, if inexact then fInexact else 0)

/-- FSCALE by a count, or by a UE8M0 scale byte. -/
def fScale (t : FType) (e8 : Bool) (rm : Rm) (sat : Bool) (a b : Nat) : Nat × Fl :=
  let f := ftype t
  if e8 && b % 256 == 0xFF then (f.nan, 0)
  else
    match f.read a with
    | .nan s => (f.nan, if s then fInvalid else 0)
    | .inf _ => (a % 2 ^ f.bits, 0)
    | .fin n m e =>
      if m = 0 then (f.zero n, 0)
      else
        let k : Int := if e8 then (b % 256 : Nat) - 127 else ival .i32 b
        f.round rm sat n m (e + max (min k 10000) (-10000)) false

def fFrexp (t : FType) (exp : Bool) (a : Nat) : Nat × Fl :=
  let f := ftype t
  match f.read a with
  | .nan s => if exp then (0x80000000, fInvalid) else (f.nan, if s then fInvalid else 0)
  | .inf _ => if exp then (0x7FFFFFFF, fInvalid) else (a % 2 ^ f.bits, 0)
  | .fin n m e =>
    if m = 0 then (if exp then (0x80000000, fInvalid) else (f.zero n, 0))
    else if exp then (iwrite .i32 (e + bitLen m - 1), 0)
    else ((f.of .rne false (.fin n m (1 - bitLen m))).1, 0)

def fSgn (t : FType) (op : SgnOp) (a b : Nat) : Nat :=
  let f := ftype t
  let sa := a / f.sign % 2
  let sb := b / f.sign % 2
  let s := match op with | .cpy => sb | .neg => 1 - sa | .abs => 0 | .xor => (sa + sb) % 2
  s * f.sign + a % f.sign

/-! ## Conversion (02 R42, 05 R113) -/

def cvtInt : CvtType → Option IType
  | .i32 => some .i32 | .ui32 => some .ui32 | .i64 => some .i64 | .ui64 => some .ui64 | _ => none
def cvtFloat : CvtType → Fmt
  | .d => binary64 | .h => binary16 | .bf => bf16 | _ => binary32

/-- Float to integer: rounded, then clamped with invalid when out of range (02 R39). -/
def toInt (t : IType) (rm : Rm) : FV → Nat × Fl
  | .nan _ => (0, fInvalid)
  | .inf n => (iwrite t (if n then ilow t else ihigh t), fInvalid)
  | .fin n m e =>
    let (v, inexact) := roundAt rm n m e 0 false
    let x : Int := if n then -(v : Int) else v
    if x < ilow t ∨ ihigh t < x then (iwrite t (iclamp t x), fInvalid)
    else (iwrite t x, if inexact then fInexact else 0)

def fCvt (dst src : CvtType) (rm : Rm) (sat : Bool) (a : Nat) : Nat × Fl :=
  match cvtInt dst, cvtInt src with
  | some t, _ => toInt t rm ((cvtFloat src).read a)
  | none, some t =>
    let v := ival t a
    (cvtFloat dst).of rm sat (.fin (decide (v < 0)) v.natAbs 0)
  | none, none =>
    if dst == src then
      (let x := (cvtFloat src).read a
       if x.isSnan then ((cvtFloat src).nan, fInvalid) else (a % 2 ^ (cvtFloat src).bits, 0))
    else (cvtFloat dst).of rm sat ((cvtFloat src).read a)

/-! ## Elements (02 R31, R36; 05 R116) -/

def elemFmt : Elem → Option Fmt
  | .e4m3 => some e4m3 | .e5m2 => some e5m2 | .e3m2 => some e3m2 | .e2m3 => some e2m3 | .e2m1 => some e2m1
  | .h => some binary16 | .bf => some bf16 | _ => none

/-- Width of an element's place in a packed register. -/
def elemBits (e : Elem) : Nat := 32 / e.count

def elemInt : Elem → Option (Nat × Bool)
  | .i8 => some (8, true) | .ui8 => some (8, false) | .i4 => some (4, true) | .ui4 => some (4, false)
  | .i16 => some (16, true) | .ui16 => some (16, false) | _ => none

/-- Element `k` of a packed register, as bits. -/
def elemAt (e : Elem) (r k : Nat) : Nat := r / 2 ^ (elemBits e * k) % 2 ^ elemBits e

def signedOf (w : Nat) (v : Nat) : Int := if 2 ^ (w - 1) ≤ v then (v : Int) - 2 ^ w else v

/-- The value of a float element: MX INT8 is c * 2^-6, FP6 ignores bits 7:6. -/
def elemVal (e : Elem) (c : Nat) : FV :=
  match elemFmt e with
  | some f => f.read (c % 2 ^ f.bits)
  | none =>
    let v := signedOf 8 c
    .fin (decide (v < 0)) v.natAbs (-6)

/-- The value of an integer element. -/
def elemIntVal (e : Elem) (c : Nat) : Int :=
  match elemInt e with
  | some (w, true) => signedOf w c
  | _ => c

/-- Conversion of a value to an element code (02 R42, R39). -/
def toElem (e : Elem) (rm : Rm) (sat : Bool) (v : FV) : Nat × Fl :=
  match elemFmt e with
  | some f => f.of rm sat v
  | none =>
    match v with
    | .nan _ => (0, fInvalid)
    | .inf n => (if n then 0x80 else 0x7F, fInvalid)
    | .fin n m x =>
      let (k, inexact) := roundAt rm n m x (-6) false
      let c : Int := if n then -(k : Int) else k
      if c < -128 then (0x80, fOverflow ||| fInexact)
      else if 127 < c then (0x7F, fOverflow ||| fInexact)
      else ((c % 256).toNat, if inexact then fInexact else 0)

/-! ## The canonical tree (02 R43, R44) -/

/-- One level: pairs combined, an odd tail passed up. -/
def treeLevel {α : Type} (op : α → α → α) : List α → List α
  | a :: b :: rest => op a b :: treeLevel op rest
  | l => l

/-- TreeReduce; `n` levels are enough for 2^n contributions. -/
def treeReduce {α : Type} (op : α → α → α) : Nat → List α → List α
  | 0, l => l
  | n + 1, l => treeReduce op n (treeLevel op l)

/-- A node over bits that keeps the flags of both sides. -/
def nodeFl (f : Nat → Nat → Nat × Fl) (a b : Nat × Fl) : Nat × Fl :=
  let (v, fl) := f a.1 b.1
  (v, a.2 ||| b.2 ||| fl)

/-- The minimum and maximum nodes: a NaN gives the canonical NaN. -/
def nodeMinMax (f : Fmt) (isMax : Bool) (a b : Nat) : Nat × Fl :=
  let (x, y) := (f.read a, f.read b)
  if x.isNan || y.isNan then (f.nan, snanFl [x, y])
  else (if isMax then (if x.below y then b else a) else (if y.below x then b else a), 0)

/-- The sum node: RNE, R39 at saturate 0. -/
def nodeSum (f : Fmt) (a b : Nat) : Nat × Fl := f.finish .rne false (FV.add .rne (f.read a) (f.read b))

/-- The node operators over a type of WRED. -/
def redNode (t : RType) (op : RedOp) (a b : Nat) : Nat × Fl :=
  let flt (f : Fmt) : Nat × Fl :=
    match op with
    | .sum => nodeSum f a b
    | .min => nodeMinMax f false a b
    | .max => nodeMinMax f true a b
  let int (ty : IType) : Nat × Fl :=
    match op with
    | .sum => ((a + b) % 2 ^ 32, 0)
    | .min => (if ival ty b < ival ty a then b else a, 0)
    | .max => (if ival ty a < ival ty b then b else a, 0)
  match t with
  | .f => flt binary32 | .d => flt binary64 | .h => flt binary16 | .bf => flt bf16
  | .i32 => int .i32 | .ui32 => int .ui32

/-- A reduction of contributions by the canonical tree; none for an empty list. -/
def redTree (t : RType) (op : RedOp) (l : List Nat) : Option (Nat × Fl) :=
  (treeReduce (nodeFl (redNode t op)) 16 (l.map fun v => (v, 0))).head?

/-! ## Packed instructions (05 R117 to R120) -/

/-- DOT4 and DOT8. -/
def dotVal (e : Elem) (rm : Rm) (sat : Bool) (a b c : Nat) : Nat × Fl :=
  match elemInt e with
  | some _ =>
    let s := ((List.range e.count).map fun k =>
      elemIntVal e (elemAt e a k) * elemIntVal e (elemAt e b k)).sum + ival .i32 c
    (ifinish .i32 sat s, 0)
  | none =>
    let p := (List.range e.count).map fun k =>
      binary32.finish .rne false (FV.mul (elemVal e (elemAt e a k)) (elemVal e (elemAt e b k)))
    let s := ((treeReduce (nodeFl (nodeSum binary32)) 4 p).head?).getD (0, 0)
    let (r, fl) := fAdd .f rm sat s.1 c
    (r, s.2 ||| fl)

/-- One value converted to an element of PACK. -/
def packOne (e : Elem) (rm : Rm) (sat : Bool) (v : Nat) : Nat × Fl :=
  match elemInt e with
  | some (w, sgn) =>
    let x := ival .i32 v
    let lo : Int := if sgn then -(2 ^ (w - 1)) else 0
    let hi : Int := if sgn then 2 ^ (w - 1) - 1 else 2 ^ w - 1
    (((if sat then min (max x lo) hi else x) % 2 ^ w).toNat, 0)
  | none => toElem e rm sat (binary32.read v)

/-- A field of `w` bits at bit `k` replaced. -/
def putField (d k w v : Nat) : Nat := d - d / 2 ^ k % 2 ^ w * 2 ^ k + v % 2 ^ w * 2 ^ k

/-- PACK (05 R118). -/
def packVal (e : Elem) (j : Nat) (rm : Rm) (sat : Bool) (d a b : Nat) : Nat × Fl :=
  let w := elemBits e
  let x := packOne e rm sat a
  let y := packOne e rm sat b
  (putField (putField d (w * (2 * j)) w x.1) (w * (2 * j + 1)) w y.1, x.2 ||| y.2)

/-- One element of UNPACK widened to 32 bits. -/
def unpackOne (e : Elem) (c : Nat) : Nat × Fl :=
  match elemInt e with
  | some _ => (iwrite .i32 (elemIntVal e c), 0)
  | none => binary32.of .rne false (elemVal e c)

/-- UNPACK (05 R119): the pair. -/
def unpackVal (e : Elem) (j a : Nat) : Nat × Fl :=
  let x := unpackOne e (elemAt e a (2 * j))
  let y := unpackOne e (elemAt e a (2 * j + 1))
  (x.1 + 2 ^ 32 * y.1, x.2 ||| y.2)

/-- The largest exponent of an MX element format (05 R120). -/
def mxEmax : Elem → Int
  | .e4m3 => 8 | .e5m2 => 15 | .e3m2 => 4 | .e2m3 => 2 | .e2m1 => 2 | _ => 0

/-- floor(log2) of a finite value that is not zero. -/
def FV.log2 : FV → Int
  | .fin _ m e => e + bitLen m - 1
  | _ => 0

/-- The scale of the block of the Active lanes (05 R120). -/
def mxScale (e : Elem) (vals : List Nat) : Nat :=
  let vs := vals.map binary32.read
  if vs.any (fun v => v.isNan || v.isInf) then 0xFF
  else
    match (vs.filter fun v => !v.isZero).map FV.log2 with
    | [] => 0
    | x :: xs => (min (max (xs.foldl max x - mxEmax e + 127) 0) 254).toNat

/-- The element of one lane under a scale. -/
def mxElem (e : Elem) (rm : Rm) (sat : Bool) (sc a : Nat) : Nat × Fl :=
  if sc = 0xFF then
    (let v := binary32.read a
     (0, if v.isNan || v.isInf then fInvalid else 0))
  else
    match binary32.read a with
    | .fin n m x => toElem e rm sat (.fin n m (x + 127 - sc))
    | v => toElem e rm sat v

/-! ## Window accumulation (02 R47) -/

/-- A product of the window: value, with what its elements made invalid. -/
structure Prod where
  v : FV
  bad : Bool
  deriving DecidableEq, Repr

/-- An element under its block's scale exponent; a scale of 0xFF (`none`) makes it a quiet NaN whatever its code
(02 R36). -/
def underScale (v : FV) : Option Int → FV
  | none => .nan false
  | some k => match v with
    | .fin n m e => .fin n m (e + k)
    | x => x

/-- The product of two element values under the scale exponents of their blocks. -/
def mkProd (a b : FV) (sa sb : Option Int) : Prod :=
  match FV.mul (underScale a sa) (underScale b sb) with
  | (.fin n m e, _) => ⟨.fin n m e, false⟩
  | (v, fl) => ⟨v, fl != 0⟩

/-- Truncation of a product to the window's lowest bit. -/
def windowTerm (q : Int) : FV → Int
  | .fin n m e =>
    let t := if q ≤ e then m * 2 ^ (e - q).toNat else m / 2 ^ (q - e).toNat
    if n then -(t : Int) else t
  | _ => 0

/-- The rounded window of a K-slice. -/
def windowSum (ps : List Prod) : Nat × Fl :=
  let bad : Fl := if ps.any Prod.bad then fInvalid else 0
  let pos := ps.any fun p => p.v == .inf false
  let neg := ps.any fun p => p.v == .inf true
  if ps.any (fun p => p.v.isNan) then (binary32.nan, bad ||| (if pos && neg then fInvalid else 0))
  else if pos && neg then (binary32.nan, fInvalid)
  else if pos then (binary32.inf, 0)
  else if neg then (binary32.sign + binary32.inf, 0)
  else
    match (ps.filter fun p => !p.v.isZero).map fun p => p.v.log2 with
    | [] => (binary32.zero (ps.all (fun p => p.v.neg) && !ps.isEmpty), 0)
    | x :: xs =>
      let q := xs.foldl max x - 60
      let w := (ps.map fun p => windowTerm q p.v).sum
      if w = 0 then (0, 0) else binary32.round .rne false (decide (w < 0)) w.natAbs q false

/-- One K-slice into the accumulator. The sum is one of 02 R40: a signalling accumulator, or infinities of opposite sign,
make it invalid (log 75). -/
def kSlice (acc : Nat × Fl) (ps : List Prod) : Nat × Fl :=
  let w := windowSum ps
  let (r, fl) := nodeSum binary32 acc.1 w.1
  (r, acc.2 ||| w.2 ||| fl)

end Sys2Proof.Machine
end

