-- ==== Sys2Proof/Machine/Access.lean ====
section
/-! DEFINITION. Accesses to memory: effective addresses (06 R133), the ordered trap checks (06 R138, 13 R262), the
access in flight, its requests to main memory (11 R234), its effect on the bytes lane by lane (06 R135, 13 R269), its
results, and the redirect of REDX (13 R274). -/

namespace Sys2Proof.Machine

/-! ## Arrivals at a barrier (08 R176) -/

/-- `k` arrivals with the flags of their threads: none when the object refuses them (R176 step 3). -/
def State.arrive (s : State) (b : Block) (i k flags : Nat) : Option State :=
  let o := s.bar b i
  if o.state != 1 || decide (o.expected < o.arrived + k) then none
  else if o.arrived + k = o.expected then
    some ({ s with completed := ⟨s.now, b.gid, b.cl, i, (o.gen + 1) % 2 ^ 32⟩ ::
        s.completed.filter fun d => d.time == s.now }.setBar b i
      { o with arrived := 0, flags := o.flags ||| flags, gen := (o.gen + 1) % 2 ^ 32 })
  else some (s.setBar b i { o with arrived := o.arrived + k, flags := o.flags ||| flags })

/-! ## Shape of an access -/

/-- What the checks of an access need to know of its instruction. -/
structure AccKind where
  m : MForm
  need : Need
  /-- one access for the wave rather than one a lane (06 R136) -/
  scalar : Bool
  /-- registers of the address operand -/
  aregs : Nat
  /-- skips lanes whose mask bit is set (13 R263) -/
  rp : Bool
  /-- ATOM, CAS, RED, REDX -/
  atomic : Bool
  deriving DecidableEq, Repr

def Need.read : Need := ⟨true, false, false⟩
def Need.write : Need := ⟨false, true, false⟩
def Need.both : Need := ⟨true, true, false⟩

def accKind : Instr → Option AccKind
  | .ld _ a64 m => some ⟨m, .read, false, wide a64, false, false⟩
  | .st a64 m => some ⟨m, .write, false, wide a64, false, false⟩
  | .lds _ a64 m => some ⟨m, .read, true, wide a64, false, false⟩
  | .sts a64 m => some ⟨m, .write, true, wide a64, false, false⟩
  | .gath _ rp m => some ⟨m, .read, false, addrRegs m, rp, false⟩
  | .scat rp m => some ⟨m, .write, false, addrRegs m, rp, false⟩
  | .atom _ m | .cas m | .red _ m | .redx _ m => some ⟨m, .both, false, addrRegs m, false, true⟩
  | .qst _ m => some ⟨m, .write, true, 2, false, false⟩
  | .xld _ m => some ⟨m, .read, false, 1, false, false⟩
  | .xst m => some ⟨m, .write, false, 1, false, false⟩
  | _ => none

/-- Stores that the live test of a barrier object covers (08 R181). -/
def AccKind.tested (k : AccKind) : Bool := k.need.wr

/-- Class-0 load latency of a space (01 R23). -/
def spaceLat : Space → Nat
  | .slice => 1 | .cluster => 3 | .peer => 6 | .die => 10 | .main => 200

/-- Latency of an access: 18 rounds for a pad atomic (13 R270). -/
def AccKind.lat (k : AccKind) : Nat := if k.atomic then 18 else spaceLat k.m.space

/-- Effective address from the base and the scaled offset (06 R133). -/
def effAddr (sp : Space) (scale : Nat) (off : BitVec 8) (base : Nat) : Nat :=
  (((base : Int) + off.toInt * scale) % (if sp = .main then 2 ^ 64 else 2 ^ 32)).toNat

def Wave.ea (w : Wave) (k : AccKind) (l : Nat) : Nat :=
  effAddr k.m.space k.m.sz.bytes k.m.off (w.rd k.m.a k.aregs l)

/-- Registers `off` to `off + k - 1` of an operand, low word first. -/
def Wave.rdFrom (w : Wave) (o : Opnd) (off k l : Nat) : Nat :=
  ((List.range k).map fun j => (w.word o (off + j) l).toNat * 2 ^ (32 * j)).sum

/-- The lanes accessed among the Active ones. -/
def AccKind.lanes (k : AccKind) (w : Wave) (act : W32) : List Nat :=
  if k.scalar then (lanesOf act).take 1
  else if k.rp then lanesOf (act &&& ~~~ w.mreg (k.m.b.map Fin.val |>.getD 0))
  else lanesOf act

/-- A lane's address and what it finds there. -/
structure LaneLook where
  lane : Nat
  ea : Nat
  look : Look
  deriving DecidableEq, Repr

def State.laneLooks (s : State) (k : AccKind) (act : W32) : List LaneLook :=
  (k.lanes s.w act).map fun l =>
    ⟨l, s.w.ea k l, s.look s.w k.m.space k.m.flagged k.need (s.w.ea k l) k.m.sz.bytes⟩

/-! ## Redirect words (13 R273, R274) -/

/-- Target member, barrier and offset of a redirect word. -/
structure Redir where
  rank : Nat
  bar : Nat
  off : Nat
  deriving DecidableEq, Repr

def redirOf (x : Nat) : Redir := ⟨fld x 24 3, fld x 27 5, fld x 0 24⟩

def isRedx : Instr → Bool | .redx .. => true | _ => false

def Wave.redir (w : Wave) (m : MForm) (l : Nat) : Redir := redirOf (w.rdFrom m.d m.sz.regs 1 l)

/-- The location of a redirect target, while its member is resident and not lost. -/
def State.redirKey (s : State) (bid : Nat) (r : Redir) : Option (Block × Nat) :=
  match s.blockOf bid with
  | none => none
  | some b =>
    match s.member b r.rank with
    | some c => if c.lost then none else some (c, cpadKey c.cl (c.cbase + r.off))
    | none => none

/-- Protection test of a redirect word. -/
def State.redirBad (s : State) (m : MForm) (r : Redir) : Bool :=
  decide (s.g.members s.b.bl ≤ r.rank) || decide (s.g.l.cbytes < r.off + m.sz.bytes) || decide (s.g.l.barriers ≤ r.bar)

/-! ## The checks in order (06 R138, 13 R262) -/

/-- The first trap of an access over the lanes it accesses. -/
def State.accTrap (s : State) (i : Instr) (k : AccKind) (ls : List LaneLook) : Option Trap :=
  let n := k.m.sz.bytes
  let rd := fun l => s.w.redir k.m l
  if ls.any fun x => x.ea % n != 0 || (isRedx i && (rd x.lane).off % n != 0) then some (trapOf 0x10)
  else if ls.any fun x => x.look.refused || (isRedx i && s.redirBad k.m (rd x.lane)) then some (trapOf 0x0E)
  else if ls.any fun x => x.look.mismatch then some (trapOf 0x0F)
  else if s.g.l.ordered && k.m.space == .main && k.atomic && !(match i with | .red .. => true | _ => false)
      && !ls.isEmpty then some (trapOf 0x13)
  else if k.m.b.isNone && ls.any fun x => x.look.absent then some (trapOf 0x0D)
  else match (if k.m.b.isNone then ls.find? fun x => x.look.lost.isSome else none) with
    | some x => some ⟨0x0C, x.look.lost.getD 0, fun _ => none⟩
    | none =>
      if k.tested && ls.any fun x =>
          (match x.look.loc with | some (.pad p) => !x.look.withheld && s.liveBar p n | _ => false)
          || (isRedx i && match s.redirKey s.b.bid (rd x.lane) with | some (_, p) => s.liveBar p n | none => false)
      then some (trapOf 0x06) else none

/-! ## Requests (11 R234) -/

/-- The smallest aligned block of 16, 32, 64 or 128 bytes that holds bytes `lo` to `hi - 1`: its start and length. -/
def grain (lo hi : Nat) : Nat × Nat :=
  match [16, 32, 64].find? fun g => lo / g == (hi - 1) / g with
  | some g => (lo / g * g, g)
  | none => (lo / 128 * 128, 128)

/-- One request for each 128-byte segment that runs of bytes touch, in ascending address. -/
def coalesce (runs : List (Nat × Nat)) : List (Nat × Nat) :=
  let segs := sortNat (runs.map fun r => r.1 / 128).eraseDups
  segs.map fun sg =>
    let rs := runs.filter fun r => r.1 / 128 == sg
    grain ((rs.map Prod.fst).foldl min (sg * 128 + 127)) ((rs.map fun r => r.1 + r.2).foldl max 0)

/-- The main-memory runs of an access's lanes. -/
def Access.runs (a : Access) (n : Nat) : List (Nat × Nat) :=
  a.lanes.filterMap fun l => match l.loc with
    | .main pa _ => if l.withheld then none else some (pa, n)
    | _ => none

/-- An access put in flight, with the requests it makes. -/
def State.addAccess (s : State) (a : Access) (write : Bool) (runs : List (Nat × Nat)) : State :=
  let a := { a with id := s.nextUid }
  { s with
    nextUid := s.nextUid + 1, accs := s.accs ++ [a]
    mem := { s.mem with reqs := s.mem.reqs ++ (coalesce runs).map fun r =>
      ⟨a.id, none, r.1, r.2, write, a.cls1, a.part, a.asid, s.now, a.cl, a.sl, none, false, false, []⟩ } }

/-- The fields of an access that the issuing path gives. -/
def State.newAccess (s : State) (i : Instr) (act : W32) (cls1 : Bool) (lat : Nat) : Access :=
  let w := s.w
  { id := 0, i := i, uid := w.uid, bid := w.bid, gid := s.b.gid, part := s.g.part, asid := s.g.l.asid
    cl := w.cl, sl := w.sl, slot := w.slot, path := s.path.lanes, act := act, dreg := 0
    round := s.round w, lat := lat, cls1 := cls1, lanes := [], regs := []
    flag := if cls1 then s.exec.setA else 15, exec := s.exec.id, effected := false, abandoned := false
    after := [], wnum := [], paged := true }

/-! ## Order among a thread's accesses (06 R137) -/

/-- An access that stores. -/
def Access.stores (a : Access) : Bool :=
  match accKind a.i with
  | some k => k.need.wr
  | none => false

def Access.mainSpace (a : Access) : Bool := a.lanes.any fun l => match l.loc with | .main .. => true | .pad _ => false

def Access.size (a : Access) : Nat := match accKind a.i with | some k => k.m.sz.bytes | none => 8

/-- Whether two accesses of one thread touch overlapping bytes. -/
def Access.touches (a b : Access) : Bool :=
  a.lanes.any fun x => b.lanes.any fun y =>
    (x.lane == y.lane || a.lanes.length == 1 || b.lanes.length == 1) && x.loc.overlaps a.size y.loc b.size

/-- Whether two accesses of main memory touch one granule. -/
def Access.sharesGranule (a b : Access) : Bool :=
  a.lanes.any fun x => b.lanes.any fun y => match x.loc, y.loc with
    | .main p _, .main q _ => p / 512 == q / 512
    | _, _ => false

/-- The earlier accesses that an access of the same threads follows: a class-1 access the accesses of its bytes (06 R137, edge 1
of 14 R288) and every class-0 store; a class-0 access the class-0 stores to its granules, should they be abandoned (12 R251). -/
def State.before (s : State) (a : Access) : List Nat :=
  (s.accs.filter fun e => e.uid == a.uid && e.path &&& a.path != 0 && !e.effected && e.mainSpace
    && (if a.cls1 then e.touches a || (!e.cls1 && e.stores)
        else !e.cls1 && e.stores && e.sharesGranule a)).map Access.id

/-! ## Issue -/

/-- Registers of the old value or the loaded data. -/
def destRegs (w : Wave) (i : Instr) (m : MForm) : List Reg :=
  match i with
  | .ld .. | .lds .. | .gath .. | .atom .. | .cas _ | .xld .. => w.regsAt m.d m.sz.regs
  | _ => []

def maskRegs (m : MForm) : List Reg := match m.b with | some n => [.m n.val] | none => []

/-- The number of D: a v- or s-register. -/
def Wave.dnum (w : Wave) : Opnd → Nat
  | .v n => n.val
  | .vx n => w.x.toNat + n.val
  | .s n => n.val
  | _ => 0

/-- Second operand of a lane: the new value of CAS, the redirect word of REDX. -/
def Wave.auxOf (w : Wave) (i : Instr) (m : MForm) (l : Nat) : Nat :=
  match i with
  | .cas _ => w.rdFrom m.d m.sz.regs m.sz.regs l
  | .redx .. => w.rdFrom m.d m.sz.regs 1 l
  | _ => 0

/-- A RED to main memory in a grid of ordered mode (13 R276). -/
def State.isOrdered (s : State) (i : Instr) (m : MForm) : Bool :=
  (match i with | .red .. => true | _ => false) && s.g.l.ordered && m.space == .main

/-- The lanes as the access carries them. -/
def State.laneAccs (s : State) (i : Instr) (k : AccKind) (ls : List LaneLook) : List LaneAcc :=
  ls.map fun x =>
    { lane := x.lane, loc := x.look.loc.getD (.pad 0), withheld := x.look.withheld || x.look.loc.isNone
      data := s.w.rd k.m.d k.m.sz.regs x.lane
      aux := if s.isOrdered i k.m then (s.w.th x.lane).seq else s.w.auxOf i k.m x.lane
      got := 0, done := false }

/-- The access of an instruction that passed its checks. One with no Active lane stands until its round L as well
(log 86). -/
def State.access (s : State) (i : Instr) (k : AccKind) (act : W32) (ls : List LaneLook) : State :=
  let ordered := s.isOrdered i k.m
  let a := { s.newAccess i act k.m.flagged k.lat with
    dreg := if ordered then s.w.widx else s.w.dnum k.m.d, lanes := s.laneAccs i k ls
    regs := destRegs s.w i k.m ++ maskRegs k.m
    paged := ls.any fun x => match x.look.seen with | .paged .. => true | _ => false
    wnum := if ordered then (lanesOf act).map fun l => (l, (s.w.th l).window) else [] }
  let a := { a with after := s.before a }
  let s := s.addAccess a k.need.wr (if ordered then [] else a.runs k.m.sz.bytes)
  if ordered then s.updWave s.path.uid fun w => w.updTh act fun _ t => { t with seq := t.seq + 1 } else s

/-- A memory instruction of the plain, gather and atomic kinds. -/
def accIssue (i : Instr) (k : AccKind) (s : State) : State :=
  s.issue i fun t act =>
    let ls := s.laneLooks k act
    let seen := ls.map fun x => x.look.seen
    match s.accTrap i k ls with
    | some tr => (s.reportBad s.w seen).takeTrap act tr
    | none => ((t.reportBad s.w seen).access i k act ls).advance

/-! ## Effects on bytes (06 R135, 13 R268, R269) -/

/-- Op(v, x) of 13 R268 on values of `n` bytes. -/
def atomVal (op : AtomOp) (n v x : Nat) : Nat :=
  let t : IType := if n = 8 then .i64 else .i32
  match op with
  | .xchg => x
  | .add => (v + x) % 2 ^ (8 * n)
  | .fadd => (nodeSum (if n = 8 then binary64 else binary32) v x).1
  | .smin => if ival t v ≤ ival t x then v else x
  | .smax => if ival t x ≤ ival t v then v else x
  | .and => v &&& x
  | .or => v ||| x
  | .xor => v ^^^ x

/-- The bytes that a lane writes, from what it found. -/
def laneWrite (i : Instr) (n v : Nat) (l : LaneAcc) : Option Nat :=
  match i with
  | .st .. | .sts .. | .scat .. | .qst .. | .xst _ => some l.data
  | .atom op _ | .red op _ | .redx op _ => some (atomVal op n v l.data)
  | .cas _ => if v = l.data then some l.aux else none
  | _ => none

/-- The uncorrectable groups at a lane's bytes (12 R259). -/
def State.brokenLoc (s : State) (l : Loc) (n : Nat) : List Nat :=
  match l with
  | .pad k => s.brokenAt k n
  | .main .. => []

/-- One lane takes effect. One that finds an uncorrectable group delivers nothing. -/
def State.laneEffect (s : State) (i : Instr) (n : Nat) (l : LaneAcc) : State × LaneAcc :=
  if l.withheld || l.done then (s, { l with done := true })
  else if !(s.brokenLoc l.loc n).isEmpty then (s.found (s.brokenLoc l.loc n), { l with withheld := true, done := true })
  else
    let v := s.readLoc l.loc n
    (match laneWrite i n v l with
     | some x => s.writeLoc l.loc n x
     | none => s, { l with got := v, done := true })

/-- Lanes take effect in ascending order. -/
def State.laneEffects (s : State) (i : Instr) (n : Nat) (pick : LaneAcc → Bool) : List LaneAcc → State × List LaneAcc
  | [] => (s, [])
  | l :: ls =>
    let (s, l) := if pick l then s.laneEffect i n l else (s, l)
    let (s, ls) := s.laneEffects i n pick ls
    (s, l :: ls)

/-! ## Results -/

/-- A loaded value of `n` bytes in its registers (01 R29 in 02, 06 R132). -/
def extendVal (sx : Bool) (n v : Nat) : Nat :=
  if n < 4 && sx && decide (2 ^ (8 * n - 1) ≤ v) then v + (2 ^ 32 - 2 ^ (8 * n)) else v

def isSx : Instr → Bool
  | .ld sx .. | .lds sx .. | .gath sx .. | .xld sx _ => sx
  | _ => false

def regPart (v j : Nat) : W32 := BitVec.ofNat 32 (v / 2 ^ (32 * j))

/-- The writes of data and mask bits when an access delivers. -/
def Access.writes (a : Access) : List Wr :=
  match accKind a.i with
  | none => []
  | some k =>
    let n := k.m.sz.bytes
    let val := fun (l : LaneAcc) => if l.withheld then 0 else extendVal (isSx a.i) n l.got
    let data : List Wr :=
      match a.i with
      | .ld .. | .gath .. | .atom .. | .cas _ | .xld .. =>
        if k.m.d.isZero then []
        else (a.lanes.map fun l => (List.range k.m.sz.regs).map fun j => Wr.v (a.dreg + j) l.lane (regPart (val l) j)).flatten
      | .lds .. =>
        if k.m.d.isZero then []
        else (a.lanes.map fun l => (List.range k.m.sz.regs).map fun j => Wr.s (a.dreg + j) (regPart (val l) j)).flatten
      | _ => []
    let mask : List Wr :=
      match k.m.b with
      | none => []
      | some m =>
        if a.lanes.isEmpty then []
        else if k.scalar then [.m m.val a.act (if a.lanes.any fun l => l.withheld then 0 else allLanes)]
        else [.m m.val (maskOf fun i => a.lanes.any fun l => l.lane == i)
          (maskOf fun i => a.lanes.any fun l => l.lane == i && !l.withheld)]
    data ++ mask

/-- The writes of a class-1 access that its wave still takes: none to the v-registers of threads that have ended (06
R128). -/
def Access.writesTo (a : Access) (w : Wave) : List Wr :=
  a.writes.filter fun x => match x with | .v _ l _ => (w.th l).status != .ended | _ => true

def State.dropAcc (s : State) (id : Nat) : State := { s with accs := s.accs.filter fun a => a.id != id }

/-- Every request of an access has been served. -/
def State.served (s : State) (id : Nat) : Bool := !s.mem.reqs.any fun r => r.walk.isNone && r.acc == id

/-- A class-0 access with nothing outstanding before it: its requests are served, and so is every abandoned store that
it follows (19 R357). -/
def State.clear (s : State) (a : Access) : Bool :=
  s.served a.id && a.after.all fun id => match s.accs.find? fun e => e.id == id with
    | some e => e.effected || !e.abandoned
    | none => true

/-- The round in which a class-0 access delivers has come. -/
def State.accOver (s : State) (a : Access) : Bool := decide (a.round + a.lat ≤ (s.slice a.cl a.sl).round)

/-- The first granule at or above CAP that an access reaches (12 R252). -/
def State.beyondCap (s : State) (a : Access) : Option Nat :=
  a.lanes.findSome? fun l => match l.loc with
    | .main pa _ => if !l.withheld && decide (s.mem.cap < pa + a.size) then some (pa / 512) else none
    | .pad _ => none

/-- A class-0 access takes effect: the bytes, then a result in flight for its delivery round (06 R135). The access stays
until that round, unless it was abandoned. One that reaches past a CAP lowered since its issue reads zeros there, writes nothing
there, and ends its context (12 R252). -/
def State.class0Effect (s : State) (a : Access) : State :=
  let s := match s.beyondCap a with
    | some g => s.endContext a.gid (unitEv 0x0006 (a.cl / 8) [g])
    | none => s
  let (s, ls) := s.laneEffects a.i a.size (fun _ => true) a.lanes
  let wr := ({ a with lanes := ls } : Access).writes
  if a.abandoned then s.dropAcc a.id
  else
    let s := s.updAcc a.id fun b => { b with lanes := ls, effected := true }
    if wr.isEmpty then s
    else s.updAny a.uid fun w =>
      { w with pend := w.pend ++ [⟨a.round + a.lat, a.act, a.regs, wr, [], none, [], 0, 0, none⟩] }

/-! ## REDX (13 R274, R275) -/

/-- One lane of a REDX writes its old value at its target and arrives there, without flags of its own (R274, log 20). An arrival that fails ends the context of
the REDX (R275). -/
def State.redirect (s : State) (a : Access) (l : LaneAcc) : State :=
  match s.redirKey a.bid (redirOf l.aux) with
  | none => s
  | some (c, key) =>
    let r := redirOf l.aux
    let s := s.found (s.brokenAt key a.size ++ s.brokenAt (s.barKey c r.bar) 16)
    let s := { s with mem := s.mem.write key (toBytes a.size (if l.withheld then 0 else l.got)) }
    match s.arrive c r.bar 1 0 with
    | some s => s
    | none => s.endContext a.gid
        ({ (default : Ev) with code := 0x0008, kind := 1, detail := [r.bar, r.rank, l.lane] }.at c.cl 0 0)

/-! ## Ordered mode (13 R276 to R281) -/

/-- Unit and address slots of the holding buffers: whether an update to an address finds room (13 R277). -/
def State.heldRoom (s : State) (pa : Nat) : Bool :=
  let here := s.held.filter fun h => h.spilled.isNone && h.pa / 512 % 4 == pa / 512 % 4
  let mine := here.filter fun h => h.pa == pa
  if mine.isEmpty then decide (((here.map fun h => h.pa).eraseDups).length < 256) else decide (mine.length < 16)

/-- Operation code of 13 R268. -/
def opCode : AtomOp → Nat
  | .xchg => 0 | .add => 1 | .fadd => 2 | .smin => 3 | .smax => 4 | .and => 5 | .or => 6 | .xor => 7

/-- The spill record of a held update (13 R278). -/
def Held.record (h : Held) : Nat :=
  h.pa * 2 ^ 192 + h.x * 2 ^ 128 + h.gtid * 2 ^ 64 + h.seq % 2 ^ 32 * 2 ^ 32 + h.window % 256 * 2 ^ 24
    + opCode h.op * 2 ^ 13 + (if h.wide then 2 ^ 12 else 0)

/-- A record of the partition's spill list that no held update uses. -/
def State.spillFree (s : State) (p : Nat) : Option Nat :=
  (List.range (s.part p).spillcnt.toNat).find? fun r =>
    !s.held.any fun h => h.spilled == some r && (match s.gridOf h.gid with | some g => g.part == p | none => false)

/-- One update to the spill list; with no room the context ends (13 R278). -/
def State.spillHeld (s : State) (p : Nat) (h : Held) : State :=
  match s.spillFree p with
  | some r => { s with
      held := s.held ++ [{ h with spilled := some r }]
      mem := s.mem.writeMany ((s.part p).spillbase.toNat + 32 * r) (toBytes 32 h.record) }
  | none => s.endContext h.gid (unitEv 0x0009 (h.pa / 512 % 4) [])

/-- One collected update reaches its unit; under a pre-emption it goes to the spill list (13 R281). -/
def State.collect (s : State) (p : Nat) (h : Held) : State :=
  if s.heldRoom h.pa && (s.part p).preemptAt.isNone then { s with held := s.held ++ [h] } else s.spillHeld p h

/-- Issuer index of a lane (07 R151). -/
def gtidOf (bl waves widx lane : Nat) : Nat := (bl * waves + widx) * 32 + lane

/-- The lanes of an access by request: 128-byte segments ascending, each with its lanes in order (11 R234, 16 R304). -/
def Access.byRequest (a : Access) : List LaneAcc :=
  let seg := fun (l : LaneAcc) => match l.loc with | .main pa _ => pa / 128 | .pad k => k / 128
  (sortNat (a.lanes.map seg).eraseDups).flatMap fun g => a.lanes.filter fun l => seg l == g

/-- The lanes of an ordered RED collected, one unbroken run a request (16 R304); those of a context that has ended are discarded
(13 R281). -/
def State.collectAll (s : State) (a : Access) : State :=
  match a.i, s.gridOf a.gid, s.blockOf a.bid with
  | .red op m, some g, some b =>
    if g.phase != .run then
      s.reportDiscards g ((a.lanes.filter fun l => !l.withheld).map fun l => match l.loc with
        | .main pa _ => pa | .pad k => k)
    else
    (a.byRequest.filter fun l => !l.withheld).foldl (fun s l =>
      match l.loc with
      | .main pa e => s.collect a.part
          ⟨a.gid, ((a.wnum.find? fun x => x.1 == l.lane).map Prod.snd).getD 0, pa, e, m.sz == .b64, op, l.data,
            gtidOf b.bl g.l.waves a.dreg l.lane, l.aux, none,
            if a.paged then some a.id else none⟩
      | .pad _ => s) s
  | _, _, _ => s

end Sys2Proof.Machine
end

