-- ==== Sys2Proof/Machine/Entry.lean ====
section
/-! DEFINITION. Tile-table entries (20 R408 to R411, R417): the fields of an entry, its regions, its state, and the nodes
of its tree; semaphore updates (17 R324). -/

namespace Sys2Proof.Machine

/-! ## Fields of an entry (20 R408) -/

def EWord.dst (w : EWord) : Nat := fld w.toNat 384 64
def EWord.src (w : EWord) : Nat := fld w.toNat 320 64
def EWord.dspace (w : EWord) : Nat := fld w.toNat 317 3
def EWord.sspace (w : EWord) : Nat := fld w.toNat 314 3
def EWord.dloc (w : EWord) : Nat := fld w.toNat 309 5
def EWord.sloc (w : EWord) : Nat := fld w.toNat 304 5
def EWord.dkey (w : EWord) : Nat := fld w.toNat 296 8
def EWord.skey (w : EWord) : Nat := fld w.toNat 288 8
def EWord.sem (w : EWord) : Nat := fld w.toNat 282 6
def EWord.semen (w : EWord) : Bool := odd (fld w.toNat 281 1)
def EWord.semcl (w : EWord) : Nat := fld w.toNat 276 5
def EWord.lkey (w : EWord) : Nat := fld w.toNat 268 8
def EWord.isSealed (w : EWord) : Bool := decide (128 ≤ w.lkey)
def EWord.n (w : EWord) : Nat := fld w.toNat 242 14 + 1
def EWord.pos (w : EWord) : Nat := fld w.toNat 228 14
def EWord.contrib (w : EWord) : Bool := odd (fld w.toNat 227 1)
def EWord.recv (w : EWord) : Bool := odd (fld w.toNat 226 1)
def EWord.isw (w : EWord) : Bool := odd (fld w.toNat 225 1)
def EWord.type (w : EWord) : Nat := fld w.toNat 222 3
def EWord.op (w : EWord) : Nat := fld w.toNat 219 3
def EWord.nslots (w : EWord) : Nat := fld w.toNat 192 8
def EWord.bytes (w : EWord) : Nat := 256 * w.nslots
def EWord.reservedBad (w : EWord) : Bool :=
  fld w.toNat 448 64 != 0 || fld w.toNat 256 12 != 0 || fld w.toNat 200 19 != 0 || fld w.toNat 0 192 != 0

/-! ## Regions (20 R408, R409) -/

/-- Physical cluster of a partition-relative number (18 R352). -/
def State.physCluster (s : State) (p k : Nat) : Option Nat := (s.part p).clusters[k]?

/-- Whether a partition has a cluster on a die. -/
def State.hasDie (s : State) (p d : Nat) : Bool := (s.part p).clusters.any fun c => c / 8 == d

/-- Where byte `addr` of a region lies, when the region's space and place exist: spaces 1, 2 and 3. -/
def State.regionPlace (s : State) (p space loc key addr len : Nat) : Option Loc :=
  match space with
  | 1 => match s.physCluster p loc with
    | some c => if addr + len ≤ 8388608 then some (.pad (cpadKey c addr)) else none
    | none => none
  | 2 => if s.hasDie p loc && decide (addr + len ≤ 67108864) then some (.pad (dpadKey loc addr)) else none
  | 3 => if loc = 0 then
      some (.main addr (if 128 ≤ key then some ⟨key % 128, Nat.mod_lt _ (by decide)⟩ else none))
    else none
  | _ => none

/-- A region that lies within its space: below CAP for space 3 (20 R409). -/
def State.regionLoc (s : State) (p space loc key addr len : Nat) : Option Loc :=
  if space = 3 ∧ s.mem.cap < addr + len then none else s.regionPlace p space loc key addr len

/-- A cluster-pad region lies wholly in the cluster-pad space of one block of the partition (20 R409). -/
def State.inBlock (s : State) (p c addr len : Nat) : Bool :=
  s.blocks.any fun b => b.cl == c && (s.grd b).part == p && decide (b.cbase ≤ addr)
    && decide (addr + len ≤ b.cbase + (s.grd b).l.cbytes)

/-- The check made at each read and each root write of a region. -/
def State.regionHere (s : State) (p space loc addr len : Nat) : Bool :=
  space != 1 || match s.physCluster p loc with
    | some c => s.inBlock p c addr len
    | none => false

/-! ## State of an entry (20 R417) -/

def Tent.idle (p e : Nat) : Tent :=
  { part := p, e := e, st := 0, ready := false, flags := 0, reason := 0, word := .none, folio := 0, mode := .plain
    node := .none, got := [], trails := [], bad := [], twos := [], written := [], alts := [], replay := false, own := [], unsent := [] }

def State.tent (s : State) (p e : Nat) : Tent :=
  (s.fabric.ents.find? fun t => t.part == p && t.e == e).getD (Tent.idle p e)

def State.setTent (s : State) (t : Tent) : State :=
  { s with fabric := { s.fabric with
    ents := t :: s.fabric.ents.filter fun u => !(u.part == t.part && u.e == t.e) } }

def State.updTent (s : State) (p e : Nat) (f : Tent → Tent) : State := s.setTent (f (s.tent p e))

/-- The state word. -/
def Tent.stateWord (t : Tent) : Nat :=
  t.reason * 2 ^ 16 + t.flags.toNat * 2 ^ 8 + bit t.ready * 2 ^ 7 + t.st

/-- The entry as the tile table holds it now. -/
def State.tableEntry (s : State) (p e : Nat) : EWord :=
  BitVec.ofNat 512 (s.mem.word ((s.part p).ttbase.toNat + 64 * e) 64)

/-- The entry in use: as read at its latest arming, or as the table holds it while it has never been armed. -/
def State.entryWord (s : State) (p e : Nat) : EWord := ((s.tent p e).word).getD (s.tableEntry p e)

/-! ## Trees (20 R410) -/

/-- A range is a node of the tree of `n` contributors. -/
def isNode (n lo hi : Nat) : Bool :=
  decide (lo ≤ hi) && decide (hi < n) &&
    (List.range 15).any fun k => lo % 2 ^ k == 0 && hi == min (lo + 2 ^ k) n - 1

/-- The last position of the left child of a node with more than one position. -/
def splitAt (lo hi : Nat) : Nat :=
  lo + ((List.range 15).foldl (fun m k => if 2 ^ k < hi - lo + 1 then 2 ^ k else m) 1) - 1

/-- Node(l, r) on one element (02 R44). -/
def nodeElem (w : EWord) (l r : Nat) : Nat × Fl :=
  let ty : RType := match w.type with | 0 => .f | 1 => .bf | _ => .i32
  match w.op with
  | 1 => redNode ty .sum l r
  | 2 => redNode ty .min l r
  | 3 => redNode ty .max l r
  | _ => (l, 0)

/-- Bytes of an element. -/
def EWord.esize (w : EWord) : Nat := if w.type = 1 then 2 else 4

/-- A node's chunk from its children's. -/
def nodeChunk (w : EWord) (l r : List Byte) : List Byte × Fl :=
  let z := ((List.range (256 / w.esize)).map fun j =>
    nodeElem w (ofBytes ((l.drop (w.esize * j)).take w.esize)) (ofBytes ((r.drop (w.esize * j)).take w.esize)))
  (z.flatMap fun x => toBytes w.esize x.1, z.foldl (fun f x => f ||| x.2) 0)

def zeroSlot : List Byte := List.replicate 256 0

/-- Why chunk `c` of the contribution cannot be read, as the reason of the failure: a pad region outside one block, or an
uncorrectable atom, which leaves the node not held (20 R409, R413). -/
def State.ownBad (s : State) (p : Nat) (w : EWord) (c : Nat) : Option Nat :=
  match s.regionPlace p w.sspace w.sloc w.skey w.src w.bytes with
  | none => some 1
  | some l =>
    if !s.regionHere p w.sspace w.sloc w.src w.bytes then some 1
    else if s.mem.lost (l.add (256 * c)) 256 then some 5 else none

/-- This device's contribution, chunk `c`; bytes at or above a CAP lowered since arming read zero (12 R252). -/
def State.ownChunk (s : State) (p : Nat) (w : EWord) (c : Nat) : Option (List Byte) :=
  if (s.ownBad p w c).isSome then none
  else (s.regionPlace p w.sspace w.sloc w.skey w.src w.bytes).map fun l => s.mem.readLoc (l.add (256 * c)) 256

/-- A node's chunk with its flags, as far as it is held: the device's own contribution `own`, a chunk whose trailer has
arrived valid, or computed from both children. -/
def Tent.holds (t : Tent) (w : EWord) (alt : Bool) (c : Nat) (own : Option (List Byte)) :
    Nat → Nat → Nat → Option (List Byte × Fl)
  | 0, _, _ => none
  | k + 1, lo, hi =>
    if lo == hi && w.contrib && lo == w.pos then own.map fun d => (d, 0)
    else
      match t.got.find? (fun g => g.alt == alt && g.lo == lo && g.hi == hi && g.c == c),
        t.trails.find? (fun g => g.alt == alt && g.lo == lo && g.hi == hi) with
      | some g, some r => some (g.data, r.flags)
      | _, _ =>
        if lo == hi then none
        else match t.holds w alt c own k lo (splitAt lo hi), t.holds w alt c own k (splitAt lo hi + 1) hi with
          | some l, some r => let z := nodeChunk w l.1 r.1; some (z.1, z.2 ||| l.2 ||| r.2)
          | _, _ => none

/-- Chunk `c` of the device's own contribution as a path has read it: read once, it is held (20 R410). -/
def Tent.kept (t : Tent) (alt : Bool) (c : Nat) : Option (List Byte) :=
  (t.own.find? fun x => x.1 == alt && x.2.1 == c).map fun x => x.2.2

/-- A node's chunk. -/
def State.node (s : State) (t : Tent) (w : EWord) (alt : Bool) (c lo hi : Nat) : Option (List Byte × Fl) :=
  t.holds w alt c ((t.kept alt c).orElse fun _ => s.ownChunk t.part w c) 16 lo hi

/-- All of a node's chunk is held but for the device's own contribution, which is read for it. -/
def Tent.usesOwn (t : Tent) (w : EWord) (alt : Bool) (c lo hi : Nat) : Bool :=
  (t.kept alt c).isNone && (t.holds w alt c none 16 lo hi).isNone && (t.holds w alt c (some zeroSlot) 16 lo hi).isSome

/-- The reason for which the read that a node needs fails. -/
def State.ownFails (s : State) (t : Tent) (w : EWord) (alt : Bool) (c lo hi : Nat) : Option Nat :=
  if t.usesOwn w alt c lo hi then s.ownBad t.part w c else none

/-- A fabric read or write of main memory at or above CAP, or of an uncorrectable atom, is reported with the granule; it
ends no context (12 R245, R252; log 97). One of a pad finds the broken groups of its bytes (12 R259). -/
def State.meets (s : State) (p : Nat) (l : Loc) (n : Nat) (write : Bool) : State :=
  match l with
  | .main pa _ =>
    let e : Ev := { (default : Ev) with part := some p, kind := 6, die := pa / 512 % 4, detail := [pa / 512] }
    if s.mem.cap < pa + n then s.report { e with code := 0x0006 }
    else if !write && s.mem.lost l n then s.report { e with code := 0x0005 } else s
  | .pad k => s.found (s.brokenAt k n)

/-- A chunk of a region lies in the granule that a sweep is moving, so that an access to it waits (12 R251). -/
def State.chunkHeld (s : State) (p space loc key addr len c : Nat) : Bool :=
  match s.regionPlace p space loc key addr len with
  | some (.main pa _) => s.mem.atF (pa + 256 * c)
  | _ => false

/-- The read of the device's own contribution that a node needs waits. -/
def State.ownHeld (s : State) (t : Tent) (w : EWord) (alt : Bool) (c lo hi : Nat) : Bool :=
  t.usesOwn w alt c lo hi && s.chunkHeld t.part w.sspace w.sloc w.skey w.src w.bytes c

/-- The device reads its own contribution for a node, and holds it from then on. -/
def State.readOwn (s : State) (t : Tent) (w : EWord) (alt : Bool) (c lo hi : Nat) : State :=
  match s.regionPlace t.part w.sspace w.sloc w.skey w.src w.bytes with
  | some l =>
    if t.usesOwn w alt c lo hi then
      let u := s.meets t.part (l.add (256 * c)) 256 false
      match s.ownChunk t.part w c with
      | some d => u.updTent t.part t.e fun t => { t with own := (alt, c, d) :: t.own }
      | none => u
    else s
  | none => s

/-- XST with .rel sets the ready flags of its entries once it has taken effect. -/
def State.readyAfter (s : State) (a : Access) : State :=
  match a.i with
  | .xst m => if m.order == .rel then
      a.lanes.foldl (fun s l => s.updTent a.part l.aux fun t => { t with ready := true }) s else s
  | _ => s

end Sys2Proof.Machine
end

