-- ==== Sys2Proof/Machine/FabricInstr.lean ====
section
/-! DEFINITION. Fabric instructions (20 R419 to R425). The waits of TREADY, of XST with .rel and of XLD with .acq are the
scheduler's, in Sched.lean. -/

namespace Sys2Proof.Machine

/-! ## TREADY, TSTAT, FOLRD -/

/-- The entry that a scalar operand names. -/
def State.entryOf (s : State) (a : Opnd) (act : W32) : Nat := s.w.rd a 1 (lowLane act)

/-- An entry at or above the table size (20 R420). -/
def entryTrap (a : Opnd) (s : State) (act : W32) : Option Trap :=
  if act != 0 && decide ((s.part s.g.part).ttsize ≤ s.entryOf a act) then some (trapOf 0x0E) else none

def execTready (r : RForm) (s : State) : Out State Fault Refusal :=
  .next (s.issueChecked (.tready r) (entryTrap r.a) fun u act =>
    (if act = 0 then u else u.updTent u.g.part (s.entryOf r.a act) fun t => { t with ready := true }).advance)

def execTstat (r : RForm) (s : State) : Out State Fault Refusal :=
  .next (s.issueChecked (.tstat r) (entryTrap r.a) fun u act =>
    (if act = 0 then u
     else u.result 3 act (u.w.regsAt r.d 1)
      (u.w.dst r.d 1 act fun _ => (s.tent s.g.part (s.entryOf r.a act)).stateWord)).advance)

/-- A schedule value (20 R425); the constants read zero before the first SCHEDLOAD (log 22). -/
def State.folVal (s : State) : FolSel → Nat
  | .len => match s.fabric.plan with | some p => p.p | none => 0
  | .frm => match s.fabric.plan with | some p => p.f | none => 0
  | .g0 => match s.fabric.plan with | some p => p.g0 | none => 0
  | .diam => match s.fabric.plan with | some p => p.d | none => 0
  | .fail => match s.g.began with
    | some b => min ((s.part s.g.part).fails.filter fun g => decide (b ≤ g)).length (2 ^ 32 - 1)
    | none => 0

def folRegs : FolSel → Nat | .g0 => 2 | _ => 1

def execFolrd (k : FolSel) (r : RForm) (s : State) : Out State Fault Refusal :=
  .next (s.issue (.folrd k r) fun s act =>
    (if act = 0 then s
     else s.result 1 act (s.w.regsAt r.d (folRegs k)) (s.w.dst r.d (folRegs k) act fun _ => s.folVal k)).advance)

/-! ## XLD and XST (20 R423, R424) -/

/-- What a lane's entry address names. -/
structure EntryLook where
  lane : Nat
  ea : Nat
  w : EWord
  /-- the region: space, place, key, address of byte 0 -/
  space : Nat
  place : Nat
  key : Nat
  base : Nat
  refused : Bool
  mismatch : Bool
  /-- the entry has failed and the load waits on it -/
  withheld : Bool
  deriving DecidableEq, Repr

def EntryLook.off (k : EntryLook) : Nat := k.ea % 65536

/-- Entry number in an entry address. -/
def entryNum (ea : Nat) : Nat := ea / 65536 % 4096

def State.entryLook (s : State) (m : MForm) (store : Bool) (l : Nat) : EntryLook :=
  let p := s.g.part
  let ea := (((s.w.rd m.a 1 l : Int) + m.off.toInt * m.sz.bytes) % 2 ^ 32).toNat
  let w := s.entryWord p (entryNum ea)
  let space := if store then w.sspace else w.dspace
  let place := if store then w.sloc else w.dloc
  let key := if store then w.skey else w.dkey
  let base := if store then w.src else w.dst
  let near := match space with
    | 1 => s.physCluster p place == some s.w.cl
    | 2 => place == s.w.cl / 8
    | n => n == 3
  { lane := l, ea := ea, w := w, space := space, place := place, key := key, base := base
    refused := decide (2 ^ 28 ≤ ea) || decide ((s.part p).ttsize ≤ entryNum ea)
      || decide (w.bytes < ea % 65536 + m.sz.bytes) || !(if store then w.contrib else w.recv) || !near
      || (s.regionPlace p space place key base w.bytes).isNone
    mismatch := m.flagged != (space == 3)
    withheld := !store && m.order == .acq && (s.tent p (entryNum ea)).st == 4 }

/-- The checks of R423, in order. -/
def entryChecks (m : MForm) (ks : List EntryLook) : Option Trap :=
  if ks.any fun k => k.ea % m.sz.bytes != 0 then some (trapOf 0x10)
  else if ks.any fun k => k.refused then some (trapOf 0x0E)
  else if ks.any fun k => k.mismatch then some (trapOf 0x0F)
  else none

/-- The traps in order: those checks, and an entry that has failed (R424). -/
def entryAccTrap (m : MForm) (ks : List EntryLook) : Option Trap :=
  if (entryChecks m ks).isSome then entryChecks m ks
  else if m.b.isNone && ks.any fun k => k.withheld then some (trapOf 0x0C)
  else none

/-- Class-0 latency of a region. -/
def EntryLook.lat (k : EntryLook) : Nat := if k.space = 2 then 10 else 3

def entryIssue (i : Instr) (m : MForm) (store : Bool) (s : State) : State :=
  s.issue i fun u act =>
    let ks := (lanesOf act).map fun l => s.entryLook m store l
    match entryAccTrap m ks with
    | some tr => s.takeTrap act tr
    | none =>
      let lat := ks.foldl (fun n k => max n k.lat) 3
      let a := { u.newAccess i act m.flagged (if m.flagged then 0 else lat) with
        dreg := u.w.dnum m.d
        lanes := ks.map fun (k : EntryLook) =>
          { lane := k.lane
            loc := ((s.regionPlace s.g.part k.space k.place k.key k.base k.w.bytes).getD (.pad 0)).add k.off
            withheld := k.withheld, data := s.w.rd m.d m.sz.regs k.lane, aux := entryNum k.ea, got := 0, done := false }
        regs := destRegs u.w i m ++ maskRegs m, paged := false }
      let a := { a with after := u.before a }
      (u.addAccess a store (a.runs m.sz.bytes)).advance

def execXld (sx : Bool) (m : MForm) (s : State) : Out State Fault Refusal := .next (entryIssue (.xld sx m) m false s)
def execXst (m : MForm) (s : State) : Out State Fault Refusal := .next (entryIssue (.xst m) m true s)

end Sys2Proof.Machine
end

