-- ==== Sys2Proof/Machine/FloatOps.lean ====
section
/-! DEFINITION. The meanings of the floating-point, function and packed instructions (05 R96 to R120). -/

namespace Sys2Proof.Machine

/-- Rounds in binary16, BF16 and binary32, and in binary64 (05 R97). -/
def fLat (t : FType) (short long : Nat) : Nat := if t = .d then long else short

/-- Operand of a floating type in a lane: its w bits (02 R32). -/
def Wave.fv (w : Wave) (t : FType) (o : Opnd) (l : Nat) : Nat := w.rd o t.regs l % 2 ^ (ftype t).bits

/-- The shape of an instruction of type T with a result in T. -/
def fltOp (i : Instr) (t : FType) (r : RForm) (lat : Nat) (f : Wave → Nat → Nat × Fl) (s : State) :
    Out State Fault Refusal :=
  .next (aluFl i r.d t.regs lat f s)

/-! ## Arithmetic (05 R101) -/

/-- FADD. -/
def execFadd (t : FType) (r : RForm) (s : State) : Out State Fault Refusal :=
  fltOp (.fadd t r) t r (fLat t 1 2) (fun w l => fAdd t r.rm r.sat (w.fv t r.a l) (w.fv t r.b l)) s

/-- FSUB. -/
def execFsub (t : FType) (r : RForm) (s : State) : Out State Fault Refusal :=
  fltOp (.fsub t r) t r (fLat t 1 2) (fun w l => fSub t r.rm r.sat (w.fv t r.a l) (w.fv t r.b l)) s

/-- FMUL. -/
def execFmul (t : FType) (r : RForm) (s : State) : Out State Fault Refusal :=
  fltOp (.fmul t r) t r (fLat t 1 2) (fun w l => fMul t r.rm r.sat (w.fv t r.a l) (w.fv t r.b l)) s

/-- FMA. -/
def execFma (t : FType) (r : RForm) (s : State) : Out State Fault Refusal :=
  fltOp (.fma t r) t r (fLat t 1 2) (fun w l => fFma t r.rm r.sat (w.fv t r.a l) (w.fv t r.b l) (w.fv t r.c l)) s

/-- FDIV. -/
def execFdiv (t : FType) (r : RForm) (s : State) : Out State Fault Refusal :=
  fltOp (.fdiv t r) t r (fLat t 3 6) (fun w l => fDiv t r.rm r.sat (w.fv t r.a l) (w.fv t r.b l)) s

/-! ## Minimum, maximum, comparison and class (05 R102 to R104) -/

/-- FMIN. -/
def execFmin (t : FType) (r : RForm) (s : State) : Out State Fault Refusal :=
  fltOp (.fmin t r) t r (fLat t 1 2) (fun w l => fMinMax t false (w.fv t r.a l) (w.fv t r.b l)) s

/-- FMAX. -/
def execFmax (t : FType) (r : RForm) (s : State) : Out State Fault Refusal :=
  fltOp (.fmax t r) t r (fLat t 1 2) (fun w l => fMinMax t true (w.fv t r.a l) (w.fv t r.b l)) s

/-- FCMP: written as ICMP is. -/
def execFcmp (cc : FCond) (t : FType) (r : RForm) (s : State) : Out State Fault Refusal :=
  .next (s.issue (.fcmp cc t r) fun s act =>
    (s.resultFl (fLat t 1 2) act (s.w.regsAt r.d 1)
      (s.w.dstBool r.d act fun l => (fCmp t cc (s.w.fv t r.a l) (s.w.fv t r.b l)).1)
      ((lanesOf act).map fun l => (l, (fCmp t cc (s.w.fv t r.a l) (s.w.fv t r.b l)).2))).advance)

/-- FCLASS: one register, no flag. -/
def execFclass (t : FType) (r : RForm) (s : State) : Out State Fault Refusal :=
  .next (alu (.fclass t r) r.d 1 (fLat t 1 2) (fun w l => fClass t (w.fv t r.a l)) s)

/-! ## Roots and functions (05 R105 to R107) -/

/-- FSQRT. -/
def execFsqrt (t : FType) (r : RForm) (s : State) : Out State Fault Refusal :=
  fltOp (.fsqrt t r) t r (fLat t 3 6) (fun w l => fSqrt t r.rm (w.fv t r.a l)) s

/-- FRCP. -/
def execFrcp (t : FType) (r : RForm) (s : State) : Out State Fault Refusal :=
  fltOp (.frcp t r) t r (fLat t 3 6) (fun w l => fRcp t r.rm r.sat (w.fv t r.a l)) s

/-- FRSQ. -/
def execFrsq (t : FType) (r : RForm) (s : State) : Out State Fault Refusal :=
  fltOp (.frsq t r) t r (fLat t 3 6) (fun w l => fRsq t r.rm (w.fv t r.a l)) s

/-- FEXP. -/
def execFexp (t : FType) (r : RForm) (s : State) : Out State Fault Refusal :=
  fltOp (.fexp t r) t r (fLat t 4 10) (fun w l => fExp t r.rm r.sat (w.fv t r.a l)) s

/-- FEXP2. -/
def execFexp2 (t : FType) (r : RForm) (s : State) : Out State Fault Refusal :=
  fltOp (.fexp2 t r) t r (fLat t 4 10) (fun w l => fExp2 t r.rm r.sat (w.fv t r.a l)) s

/-- FLOG. -/
def execFlog (t : FType) (r : RForm) (s : State) : Out State Fault Refusal :=
  fltOp (.flog t r) t r (fLat t 4 10) (fun w l => fLog t false r.rm (w.fv t r.a l)) s

/-- FLOG2. -/
def execFlog2 (t : FType) (r : RForm) (s : State) : Out State Fault Refusal :=
  fltOp (.flog2 t r) t r (fLat t 4 10) (fun w l => fLog t true r.rm (w.fv t r.a l)) s

/-- FERF. -/
def execFerf (t : FType) (r : RForm) (s : State) : Out State Fault Refusal :=
  fltOp (.ferf t r) t r (fLat t 4 10) (fun w l => fErf t r.rm (w.fv t r.a l)) s

/-- FERFC. -/
def execFerfc (t : FType) (r : RForm) (s : State) : Out State Fault Refusal :=
  fltOp (.ferfc t r) t r (fLat t 4 10) (fun w l => fErfc t r.rm (w.fv t r.a l)) s

/-! ## Integral values, scaling, exponents, signs (05 R108 to R111) -/

/-- FINT. -/
def execFint (t : FType) (r : RForm) (s : State) : Out State Fault Refusal :=
  fltOp (.fint t r) t r (fLat t 1 2) (fun w l => fInt t r.rm (w.fv t r.a l)) s

/-- FSCALE. -/
def execFscale (t : FType) (e8 : Bool) (r : RForm) (s : State) : Out State Fault Refusal :=
  fltOp (.fscale t e8 r) t r (fLat t 1 2) (fun w l => fScale t e8 r.rm r.sat (w.fv t r.a l) (w.rd r.b 1 l)) s

/-- FFREXP. -/
def execFfrexp (t : FType) (exp : Bool) (r : RForm) (s : State) : Out State Fault Refusal :=
  .next (aluFl (.ffrexp t exp r) r.d (if exp then 1 else t.regs) (fLat t 1 2)
    (fun w l => fFrexp t exp (w.fv t r.a l)) s)

/-- FSGN: bits pass through but for the sign, and no Flag is called. -/
def execFsgn (t : FType) (op : SgnOp) (r : RForm) (s : State) : Out State Fault Refusal :=
  .next (alu (.fsgn t op r) r.d t.regs (fLat t 1 2) (fun w l => fSgn t op (w.fv t r.a l) (w.fv t r.b l)) s)

/-! ## Conversion (05 R112, R113) -/

/-- CVT: two rounds when either side is binary64. -/
def execCvt (dst src : CvtType) (r : RForm) (s : State) : Out State Fault Refusal :=
  .next (aluFl (.cvt dst src r) r.d dst.regs (if dst = .d ∨ src = .d then 2 else 1)
    (fun w l => fCvt dst src r.rm r.sat (w.rd r.a src.regs l)) s)

/-! ## Exception status (05 R114) -/

/-- FXRD. -/
def execFxrd (r : RForm) (s : State) : Out State Fault Refusal :=
  .next (alu (.fxrd r) r.d 1 1 (fun w l => (w.th l).readThs.toNat) s)

/-- A write of fields of THS in each Active thread. -/
def thsOp (i : Instr) (mask : Wave → Nat → W32) (val : Wave → Nat → W32) (s : State) : Out State Fault Refusal :=
  .next (s.issue i fun s act =>
    (s.result 1 act [.ths] ((lanesOf act).map fun l => .ths l (mask s.w l) (val s.w l))).advance)

/-- FXCLR: the flags named by A[4:0] are cleared. -/
def execFxclr (r : RForm) (s : State) : Out State Fault Refusal :=
  thsOp (.fxclr r) (fun w l => w.word r.a 0 l &&& 0x1F) (fun _ _ => 0) s

/-- FXEN: the enables become A[4:0]. -/
def execFxen (r : RForm) (s : State) : Out State Fault Refusal :=
  thsOp (.fxen r) (fun _ _ => 0x1F00) (fun w l => (w.word r.a 0 l &&& 0x1F) <<< 8) s

/-! ## Packed instructions (05 R116 to R120) -/

/-- A packed instruction; the integer element codes call no Flag. -/
def packedOp (i : Instr) (r : RForm) (dk : Nat) (f : Wave → Nat → Nat × Fl) (s : State) : Out State Fault Refusal :=
  .next (if canFlag i then aluFl i r.d dk 1 f s else alu i r.d dk 1 (fun w l => (f w l).1) s)

/-- DOT4. -/
def execDot4 (e : Elem) (r : RForm) (s : State) : Out State Fault Refusal :=
  packedOp (.dot4 e r) r 1 (fun w l => dotVal e r.rm r.sat (w.rd r.a 1 l) (w.rd r.b 1 l) (w.rd r.c 1 l)) s

/-- DOT8. -/
def execDot8 (e : Elem) (r : RForm) (s : State) : Out State Fault Refusal :=
  packedOp (.dot8 e r) r 1 (fun w l => dotVal e r.rm r.sat (w.rd r.a 1 l) (w.rd r.b 1 l) (w.rd r.c 1 l)) s

/-- PACK: D is a source too. -/
def execPack (e : Elem) (j : Fin 4) (r : RForm) (s : State) : Out State Fault Refusal :=
  packedOp (.pack e j r) r 1
    (fun w l => packVal e j.val r.rm r.sat (w.rd r.d 1 l) (w.rd r.a 1 l) (w.rd r.b 1 l)) s

/-- UNPACK: the pair D, D+1. -/
def execUnpack (e : Elem) (j : Fin 4) (r : RForm) (s : State) : Out State Fault Refusal :=
  packedOp (.unpack e j r) r 2 (fun w l => unpackVal e j.val (w.rd r.a 1 l)) s

/-- MXQ over the Active lanes. -/
def execMxq (e : Elem) (scale : Bool) (r : RForm) (s : State) : Out State Fault Refusal :=
  .next (s.issue (.mxq e scale r) fun s act =>
    let sc := mxScale e ((lanesOf act).map fun l => s.w.rd r.a 1 l)
    if scale then (s.result 1 act (s.w.regsAt r.d 1) (s.w.dst r.d 1 act fun _ => sc)).advance
    else (s.resultFl 1 act (s.w.regsAt r.d 1)
      (s.w.dst r.d 1 act fun l => (mxElem e r.rm r.sat sc (s.w.rd r.a 1 l)).1)
      ((lanesOf act).map fun l => (l, (mxElem e r.rm r.sat sc (s.w.rd r.a 1 l)).2))).advance)

end Sys2Proof.Machine
end

