-- ==== Sys2Proof/Machine/Matrix.lean ====
section
/-! DEFINITION. Matrix engines and their instructions (09): the format word, operand layouts, MMA and MMASP from issue
to tile update, tile transfers, TFLG and LREL, the twins and their proofs. -/

namespace Sys2Proof.Machine

/-! ## The format word (09 R190, R191) -/

structure FmtWord where
  scaleoff : Nat
  reserved : Nat
  bscaled : Bool
  ascaled : Bool
  bfmt : Nat
  afmt : Nat
  deriving DecidableEq, Repr

def fmtWordOf (x : Nat) : FmtWord :=
  ⟨fld x 12 20, fld x 10 2, odd (fld x 9 1), odd (fld x 8 1), fld x 4 4, fld x 0 4⟩

def fmtByte (c : Nat) : Bool := decide (c ≤ 4)
def fmtHalf (c : Nat) : Bool := c == 10 || c == 11

/-- Validity of the word (09 R191 step 2). -/
def FmtWord.ok (f : FmtWord) : Bool :=
  ((fmtByte f.afmt && fmtByte f.bfmt) || (f.afmt == 7 && f.bfmt == 7) || (fmtHalf f.afmt && fmtHalf f.bfmt))
    && !(f.ascaled && fmtHalf f.afmt) && !(f.bscaled && fmtHalf f.bfmt) && f.reserved == 0

def FmtWord.a (f : FmtWord) : Elem := (decElem f.afmt).getD .e4m3
def FmtWord.b (f : FmtWord) : Elem := (decElem f.bfmt).getD .e4m3

/-- K length in elements of a row of A (09 R192): expanded for MMASP. -/
def kLen (e : Elem) (sparse : Bool) : Nat :=
  (match e with | .e2m1 => 384 | .h | .bf => 96 | _ => 192) * (if sparse then 2 else 1)

/-- Elements of a K-slice (02 R46). -/
def kSliceLen (e : Elem) : Nat := match e with | .e2m1 => 64 | .h | .bf => 16 | _ => 32

/-- Bytes of the panel and of the metadata (09 R193, R195). -/
def panelBytes (sparse : Bool) : Nat := if sparse then 49152 else 24576
def metaBytes (e : Elem) : Nat := 16 * (kLen e true / 8)

/-- Bytes of the scale area in use: from `scaleStart` on (09 R194). -/
def scaleBytes (e : Elem) (sparse asc bsc : Bool) : Nat :=
  kLen e sparse / 32 * ((if asc then 16 else 0) + (if bsc then 128 else 0))

/-! ## Issue (09 R189, R198, R199) -/

/-- Byte `k` of row `m` of the fragment in the registers from `n` (09 R192). -/
def Wave.fragByte (w : Wave) (n m k : Nat) : Byte :=
  (w.vreg (n + k / 8) (m + 16 * (k % 8 / 4))).extractLsb' (8 * (k % 4)) 8

def Wave.fragment (w : Wave) (n : Nat) : List Byte :=
  (List.range 16).flatMap fun m => (List.range 192).map fun k => w.fragByte n m k

/-- The operands of an MMA or MMASP as its issue round reads them. -/
structure MmaOps where
  fmt : FmtWord
  boff : Nat
  moff : Nat
  deriving DecidableEq, Repr

def mmaOps (sparse : Bool) (r : RForm) (s : State) (act : W32) : MmaOps :=
  let l := lowLane act
  ⟨fmtWordOf (s.w.rd r.c 1 l), s.w.rd r.b 1 l, if sparse then (s.w.word r.b 1 l).toNat else 0⟩

/-- The first trap of 09 R199. -/
def mmaTrap (sparse : Bool) (r : RForm) (s : State) (act : W32) : Option Trap :=
  let o := mmaOps sparse r s act
  let n := s.g.l.cbytes
  let e := o.fmt.a
  if act = 0 then none
  else if r.c.isVec && (lanesOf act).any (fun l => s.w.word r.c 0 l != s.w.word r.c 0 (lowLane act)) then some (trapOf 0x05)
  else if !o.fmt.ok || (r.reuse && s.w.latch.isNone) then some (trapOf 0x03)
  else if o.boff % 256 != 0 || (sparse && o.moff % 64 != 0) then some (trapOf 0x10)
  else if decide (n < o.boff + panelBytes sparse) || (sparse && decide (n < o.moff + metaBytes e))
      || ((o.fmt.ascaled || o.fmt.bscaled)
          && decide (n < 8 * o.fmt.scaleoff + scaleBytes e sparse o.fmt.ascaled o.fmt.bscaled)) then some (trapOf 0x0E)
  else none

/-- The operation put in flight: the fragment from registers or latch; without reuse the latch takes it. -/
def State.issueMma (s : State) (sparse z : Bool) (t : Nat) (r : RForm) (act : W32) : State :=
  let w := s.w
  let o := mmaOps sparse r s act
  let a := if r.reuse then w.latch.getD [] else w.fragment ((w.vnum r.a).getD 0)
  let m : Mma :=
    { uid := w.uid, path := s.path.lanes, bid := w.bid, cl := w.cl, sl := w.sl, slot := w.slot
      round := s.round w, sparse := sparse, z := z, tile := t, afmt := o.fmt.a, bfmt := o.fmt.b
      ascaled := o.fmt.ascaled, bscaled := o.fmt.bscaled, a := a, boff := o.boff, moff := o.moff
      soff := 8 * o.fmt.scaleoff, latched := none, twin := none }
  ({ s with mmas := s.mmas ++ [m] }.renew (latchKey w.place) 3072).updWave w.uid fun w => { w with latch := some a }

def mmaIssue (i : Instr) (sparse z : Bool) (t : Fin 16) (r : RForm) (s : State) : Out State Fault Refusal :=
  .next (s.issueChecked i (mmaTrap sparse r) fun u act =>
    (if act = 0 then u else u.issueMma sparse z t.val r act).advance)

def execMma (z : Bool) (t : Fin 16) (r : RForm) (s : State) : Out State Fault Refusal :=
  mmaIssue (.mma z t r) false z t r s
def execMmasp (z : Bool) (t : Fin 16) (r : RForm) (s : State) : Out State Fault Refusal :=
  mmaIssue (.mmasp z t r) true z t r s

/-! ## The product (09 R192 to R196) -/

/-- The elements of a byte string (02 R31, R32). -/
def elems (e : Elem) : List Byte → List Nat
  | [] => []
  | b :: bs =>
    match e with
    | .e2m1 => (b.toNat % 16) :: (b.toNat / 16) :: elems e bs
    | .h | .bf =>
      match bs with
      | c :: cs => (b.toNat + 256 * c.toNat) :: elems e cs
      | [] => []
    | _ => b.toNat :: elems e bs

/-- A list cut into pieces of `n` values. -/
def chunksOf {α : Type} (n : Nat) : Nat → List α → List (List α)
  | 0, _ => []
  | k + 1, l => l.take n :: chunksOf n k (l.drop n)

/-- Scale exponent of a byte: none for 0xFF (02 R36). -/
def scaleExp (b : Byte) : Option Int := if b = 0xFF then none else some ((b.toNat : Int) - 127)

/-- Scale exponents of a row or column: one for each block, or 0 throughout. -/
def scaleRow (scaled : Bool) (sc : List Byte) (off nb : Nat) : List (Option Int) :=
  if scaled then ((sc.drop off).take nb).map scaleExp else List.replicate nb (some 0)

/-- Expanded positions of the kept elements of a row of MMASP (09 R192, R195): two for each metadata nibble. -/
def keptPos : Nat → List Byte → List Nat
  | _, [] => []
  | g, b :: bs =>
    let n := b.toNat
    (4 * g + n % 4) :: (4 * g + n / 4 % 4) :: (4 * (g + 1) + n / 16 % 4) :: (4 * (g + 1) + n / 64 % 4) :: keptPos (g + 2) bs

/-- The kept elements of a row with their expanded positions: all of them for MMA. -/
def rowOf (m : Mma) (metaB : List Byte) (i : Nat) : List (Nat × FV) :=
  let vals := (elems m.afmt ((m.a.drop (192 * i)).take 192)).map (elemVal m.afmt)
  let n := kLen m.afmt true / 8
  if m.sparse then (keptPos 0 ((metaB.drop (n * i)).take n)).zip vals
  else (List.range vals.length).zip vals

/-- The products of a row and a column: pairs of elements at the kept positions, by K-slice. -/
def colProducts (sa sb : List (Option Int)) (row : List (Nat × FV)) (col : Array FV) (k : Nat) : List (List Prod) :=
  let ps := row.map fun x =>
    (x.1 / k, mkProd x.2 (col.getD x.1 (.fin false 0 0)) (sa.getD (x.1 / 32) (some 0)) (sb.getD (x.1 / 32) (some 0)))
  (List.range (col.size / k)).map fun q => (ps.filter fun p => p.1 == q).map Prod.snd

/-- One output element: accumulator and flags. -/
def mmaElem (acc : Nat) (slices : List (List Prod)) : Nat × Fl := slices.foldl kSlice (acc, 0)

/-- The tile after the operation, with the flags it raised. -/
def mmaResult (m : Mma) (panel metaB scales : List Byte) (acc : Nat → Nat) : List W32 × Fl :=
  let ke := kLen m.afmt m.sparse
  let nb := ke / 32
  let kb := if m.sparse then 384 else 192
  let cols := (chunksOf kb 128 panel).zipIdx.map fun c =>
    (((elems m.bfmt c.1).map (elemVal m.bfmt)).toArray,
      scaleRow m.bscaled scales ((if m.ascaled then 16 * nb else 0) + nb * c.2) nb)
  let outs := (List.range 16).flatMap fun i =>
    let row := rowOf m metaB i
    let sa := scaleRow m.ascaled scales (nb * i) nb
    cols.zipIdx.map fun c =>
      mmaElem (if m.z then 0 else acc (128 * i + c.2)) (colProducts sa c.1.2 row c.1.1 (kSliceLen m.afmt))
  (outs.map fun o => BitVec.ofNat 32 o.1, outs.foldl (fun f o => f ||| o.2) 0)

/-! ## The engine span and its proofs (09 R184, R206 to R208) -/

def Cluster.twin (c : Cluster) (b : Bool) : Twin := if b then c.twins.2 else c.twins.1
def Cluster.setTwin (c : Cluster) (b : Bool) (t : Twin) : Cluster :=
  { c with twins := if b then (c.twins.1, t) else (t, c.twins.2) }

/-- A failed proof of a twin at a sub-array (09 R207): fenced, out of service, the tiles updated since its last passing
proof suspect, the event, and the matrix-engine fault when neither twin is left (R208). -/
def State.proofFail (s : State) (cl : Nat) (tw : Bool) (tiles : List Nat) (sub : Nat) : State :=
  let t := (s.cluster cl).twin tw
  let s := s.updCluster cl fun c => c.setTwin tw { t with out := true, fenced := (t.fenced ++ [sub]).eraseDups, tiles := [] }
  let s := tiles.foldl (fun s k => s.setTile (16 * cl + k) { s.tileAt (16 * cl + k) with
    fl := (s.tileAt (16 * cl + k)).fl ||| 0x80 }) s
  let s := s.report ({ (default : Ev) with
    code := 0x0108, kind := 5, detail := [cl, bit tw, sub, (tiles.foldl (fun m k => m ||| 2 ^ k) 0)] }.at cl 0 0)
  if (s.cluster cl).twins.1.out && (s.cluster cl).twins.2.out then
    (s.grids.filter fun g => decide (0 < g.l.tiles)
        && s.blocks.any fun b => b.gid == g.gid && b.cl == cl && !b.retired).foldl
      (fun s g => s.endContext g.gid ({ (default : Ev) with code := 0x0007, kind := 5 }.at cl 0 0)) s
  else s

/-- A twin's comparator has tripped (23 R464). -/
def State.tripped (s : State) (t : Twin) : Bool := decide (fld s.host.templim.toNat 8 8 ≤ t.temp.toNat)

/-- The twin that performs a span: the one on duty, changed between spans by the rota or its comparator, while the other
is healthy (09 R206). -/
def State.onDuty (s : State) (cl : Nat) : Bool :=
  let c := s.cluster cl
  let o := !c.duty
  let rota := fld s.host.rota.toNat 0 16
  if (c.twin c.duty).out then o
  else if (c.twin o).out then c.duty
  else if s.tripped (c.twin c.duty) && !s.tripped (c.twin o) then o
  else if rota != 0 && decide (rota ≤ c.spans) then o
  else c.duty

/-- The proofs of one twin in a span: those of `fails` fail, each naming the same suspect tiles; with none, the twin's tiles
since its last passing proof are cleared (09 R207). -/
def State.proofs (s : State) (cl : Nat) (tw : Bool) (fails : List Nat) : State :=
  let t := (s.cluster cl).twin tw
  if t.out then s
  else if fails.isEmpty then s.updCluster cl fun c => c.setTwin tw { c.twin tw with tiles := [] }
  else fails.foldl (fun s sub => s.proofFail cl tw t.tiles sub) s

/-- A span of a cluster (09 R184, R206, R207): the twin on duty performs the operation that has waited longest, if any;
the other twin runs its proofs, and a twin on duty without an operation its own. `fails` are the sub-arrays whose proof
fails: 0 to 7 of the twin off duty, 8 to 15 of the one on duty. -/
def State.span (s : State) (cl : Nat) (fails : List Nat) : State :=
  let d := s.onDuty cl
  let q := (s.cluster cl).queue.head?
  let s := s.updCluster cl fun c =>
    { c with
      duty := d, spans := if d == c.duty then c.spans + 1 else 1
      spanAt := c.spanAt + 6 * c.pass, queue := c.queue.tail, fails := [] }
  let s := { s with mmas := s.mmas.map fun (m : Mma) => if q == some (m.uid, m.round) then { m with twin := some d } else m }
  let s := s.proofs cl (!d) (fails.filter fun x => decide (x < 8))
  if q.isSome then s else s.proofs cl d ((fails.filter fun x => decide (8 ≤ x ∧ x < 16)).map fun x => x - 8)

/-- A cluster's next span opens, or the outcome of its proofs becomes known before. -/
def State.spanEvent (s : State) (cl : Nat) (fails : List Nat) : State :=
  let c := s.cluster cl
  if 32 ≤ cl then s
  else if c.frozen || decide (s.cycle cl < c.spanAt) then s.updCluster cl fun c => { c with fails := c.fails ++ fails }
  else s.span cl (c.fails ++ fails)

/-- The first cycle of round r + 2 of an operation: its panel, metadata and scales are latched, and it waits for the
engine. -/
def State.latchMma (s : State) (i : Nat) : State :=
  match s.mmas[i]? with
  | none => s
  | some m =>
    if m.latched.isSome || decide ((s.slice m.cl m.sl).round < m.round + 2) then s
    else
      let b := (s.blockOf m.bid).getD default
      let at' := fun off n => s.mem.read (cpadKey m.cl (b.cbase + off)) n
      let bad := fun off n => s.brokenAt (cpadKey m.cl (b.cbase + off)) n
      let lost := bad m.boff (panelBytes m.sparse) ++ (if m.sparse then bad m.moff (metaBytes m.afmt) else [])
        ++ bad m.soff (scaleBytes m.afmt m.sparse m.ascaled m.bscaled)
      if !lost.isEmpty then { s with mmas := s.mmas.eraseIdx i }.found lost.eraseDups
      else
      let ops := (at' m.boff (panelBytes m.sparse), if m.sparse then at' m.moff (metaBytes m.afmt) else [],
        at' m.soff (scaleBytes m.afmt m.sparse m.ascaled m.bscaled))
      { s with mmas := s.mmas.set i { m with latched := some ops } }.updCluster m.cl fun c =>
        { c with queue := c.queue ++ [(m.uid, m.round)] }

/-- A tile counts among those that a twin has updated since its last passing proof. The update of a span performed before the
failing proof that took its twin out marks nothing by itself (log 105). -/
def State.updated (s : State) (m : Mma) (tile : Nat) : State :=
  match m.twin with
  | some d => s.updCluster m.cl fun c => c.setTwin d { c.twin d with tiles := ((c.twin d).tiles ++ [tile]).eraseDups }
  | none => s

/-- The tile update of an operation (09 R186, R196). -/
def State.mmaUpdate (s : State) (i : Nat) : State :=
  match s.mmas[i]? with
  | none => s
  | some m =>
    match m.latched with
    | none => s
    | some (panel, metaB, scales) =>
      let s := { s with mmas := s.mmas.eraseIdx i }
      match s.blockOf m.bid with
      | none => s
      | some b =>
        let lost := if m.z then [] else s.brokenAt (tileKey (b.tile m.tile)) 8192
        if !lost.isEmpty then s.found lost
        else
        let s := s.renew (tileKey (b.tile m.tile)) 8192
        let t := s.tileAt (b.tile m.tile)
        let (out, fl) := mmaResult m panel metaB scales fun k => (t.el.get 0 k).toNat
        (s.updated m (b.tiles.getD m.tile 0)).setTile (b.tile m.tile) ⟨Cells.setMany 0 [] 0 out, t.fl ||| fl.setWidth 8⟩

/-! ## Tile transfers (09 R200 to R202) -/

def execTzero (t : Fin 16) (r : RForm) (s : State) : Out State Fault Refusal :=
  .next (s.issue (.tzero t r) fun s act =>
    (if act = 0 then s else s.result 1 act [.tile t.val] [.tileZero t.val]).advance)

/-- Bytes of an element of an image. -/
def tileFmtBytes : TileFmt → Nat | .f => 4 | _ => 2
def tileFmtOf : TileFmt → Fmt | .f => binary32 | .bf => bf16 | .h => binary16

/-- Misalignment, protection, and for TST the live test (09 R201, R202). -/
def tileTrap (fm : TileFmt) (store : Bool) (r : RForm) (s : State) (act : W32) : Option Trap :=
  let off := s.w.rd r.a 1 (lowLane act)
  let n := 2048 * tileFmtBytes fm
  if act = 0 then none
  else if off % 256 != 0 then some (trapOf 0x10)
  else if s.g.l.cbytes < off + n then some (trapOf 0x0E)
  else if store && s.liveBar (cpadKey s.w.cl (s.b.cbase + off)) n then some (trapOf 0x06) else none

def tileMoveIssue (i : Instr) (store : Bool) (fm : TileFmt) (t : Fin 16) (r : RForm) (s : State) :
    Out State Fault Refusal :=
  .next (s.issueChecked i (tileTrap fm store r) fun u act =>
    let m : TileMove :=
      { uid := u.w.uid, path := u.path.lanes, bid := u.w.bid, cl := u.w.cl, sl := u.w.sl, slot := u.w.slot
        round := u.round u.w, store := store, fm := fm, sat := r.sat, tile := t.val
        off := s.w.rd r.a 1 (lowLane act), img := none, done := false }
    (if act = 0 then u else { u with moves := u.moves ++ [m] }).advance)

def execTld (fm : TileFmt) (t : Fin 16) (r : RForm) (s : State) : Out State Fault Refusal :=
  tileMoveIssue (.tld fm t r) false fm t r s
def execTst (fm : TileFmt) (t : Fin 16) (r : RForm) (s : State) : Out State Fault Refusal :=
  tileMoveIssue (.tst fm t r) true fm t r s

/-- Elements of an image widened to binary32, with invalid for a signalling NaN (02 R42). -/
def widenImage (fm : TileFmt) (img : List Byte) : List W32 × Fl :=
  let vals := (chunksOf (tileFmtBytes fm) 2048 img).map fun b =>
    match fm with
    | .f => (ofBytes b, (0 : Fl))
    | _ => binary32.of .rne false ((tileFmtOf fm).read (ofBytes b))
  (vals.map fun v => BitVec.ofNat 32 v.1, vals.foldl (fun f v => f ||| (v.2 &&& fInvalid)) 0)

/-- The image of a tile, with the flags of narrowing. -/
def narrowImage (fm : TileFmt) (sat : Bool) (t : Tile) : List Byte × Fl :=
  let vals := (t.el.getMany 0 0 2048).map fun e =>
    match fm with
    | .f => (e.toNat, (0 : Fl))
    | _ => (tileFmtOf fm).of .rne sat (binary32.read e.toNat)
  (vals.flatMap fun v => toBytes (tileFmtBytes fm) v.1, vals.foldl (fun f v => f ||| v.2) 0)

/-- Key of a transfer's image in the cluster pad. -/
def State.moveKey (s : State) (m : TileMove) : Nat := cpadKey m.cl (((s.blockOf m.bid).getD default).cbase + m.off)

/-- TST reads its tile; TLD, its image read, writes its tile. -/
def State.moveTile (s : State) (i : Nat) : State :=
  match s.moves[i]? with
  | none => s
  | some m =>
    let k := ((s.blockOf m.bid).getD default).tile m.tile
    let t := s.tileAt k
    let lost := s.brokenAt (tileKey k) 8192
    match m.store, m.img with
    | true, none =>
      if !lost.isEmpty then { s with moves := s.moves.eraseIdx i }.found lost
      else
      let (img, fl) := narrowImage m.fm m.sat t
      { s with moves := s.moves.set i { m with img := some img } }.setTile k { t with fl := t.fl ||| fl.setWidth 8 }
    | false, some img =>
      let (el, fl) := widenImage m.fm img
      ({ s with moves := s.moves.eraseIdx i }.renew (tileKey k) 8192).setTile k
        ⟨Cells.setMany 0 [] 0 el, (t.fl &&& 0x7F) ||| fl.setWidth 8⟩
    | _, _ => s

/-- TLD reads its image; TST, its tile read, writes the image, and leaves in round 3. -/
def State.movePad (s : State) (i : Nat) : State :=
  match s.moves[i]? with
  | none => s
  | some m =>
    let n := 2048 * tileFmtBytes m.fm
    match m.store, m.img with
    | false, none =>
      if !(s.brokenAt (s.moveKey m) n).isEmpty then { s with moves := s.moves.eraseIdx i }.found (s.brokenAt (s.moveKey m) n)
      else { s with moves := s.moves.set i { m with img := some (s.mem.read (s.moveKey m) (2048 * tileFmtBytes m.fm)) } }
    | true, some img =>
      if m.done then
        (if m.round + 3 ≤ (s.slice m.cl m.sl).round then { s with moves := s.moves.eraseIdx i } else s)
      else { s.renew (s.moveKey m) n with
        moves := s.moves.set i { m with done := true }
        mem := (s.renew (s.moveKey m) n).mem.write (s.moveKey m) img }
    | _, _ => s

/-! ## TFLG and LREL (09 R203, R204) -/

/-- Where TFLG writes the flag byte. -/
def tflgDst (w : Wave) (t : Nat) (d : Opnd) (act : W32) : List Wr :=
  match d with
  | .s n => [.tileRd t n.val none]
  | .v n => [.tileRd t n.val (some act)]
  | .vx n => [.tileRd t (w.x.toNat + n.val) (some act)]
  | _ => []

def execTflg (op : TflgOp) (t : Fin 16) (r : RForm) (s : State) : Out State Fault Refusal :=
  .next (s.issue (.tflg op t r) fun s act =>
    (if act = 0 then s
     else match op with
      | .rd => s.result 1 act (s.w.regsAt r.d 1) (tflgDst s.w t.val r.d act)
      | .clr => s.result 1 act [.tile t.val] [.tileClr t.val]
      | .rdc => s.result 1 act (.tile t.val :: s.w.regsAt r.d 1) (tflgDst s.w t.val r.d act ++ [.tileClr t.val])
      | .mrg =>
        let en := s.w.enablesOf act
        let rd := s.round s.w
        let u := s.push ⟨rd + 1, act, [], [], [], some t.val, en, s.path.pc, s.path.next, s.ex?⟩
        if en.isEmpty then u else u.updWave s.path.uid fun w => { w with hold := max w.hold (rd + 1) }).advance)

def execLrel (r : RForm) (s : State) : Out State Fault Refusal :=
  .next (s.issue (.lrel r) fun s act => (if act = 0 then s else s.result 1 act [] [.latchOff]).advance)

end Sys2Proof.Machine
end

