-- ==== Sys2Proof/Machine/Engines.lean ====
section
/-! DEFINITION. Copy, gather and digest engines, semaphores and completion flags (17). -/

namespace Sys2Proof.Machine

/-! ## The job card (17 R311) -/

def Card.n (c : Card) (k w : Nat) : Nat := fld c.word.toNat k w
def Card.src (c : Card) : Nat := c.n 64 64
def Card.dst (c : Card) : Nat := c.n 128 64
def Card.count (c : Card) : Nat := c.n 192 32
def Card.rows (c : Card) : Nat := c.n 224 16
def Card.sstride (c : Card) : Nat := c.n 256 32
def Card.dstride (c : Card) : Nat := c.n 288 32
def Card.srclen (c : Card) : Nat := c.n 256 64
def Card.idx (c : Card) : Nat := c.n 320 64
def Card.mode (c : Card) : Nat := c.n 32 8
def Card.statoff (c : Card) : Nat := c.n 0 32
def Card.sem (c : Card) : Nat := c.n 50 6
def Card.semen (c : Card) : Bool := odd (c.n 57 1)
def Card.events (c : Card) : Bool := odd (c.n 58 1)
def Card.cls1 (c : Card) : Bool := odd (c.n 59 1)

/-- The space of a code below 5. -/
def spaceOf : Nat → Space
  | 0 => .slice | 1 => .cluster | 2 => .die | 3 => .main | _ => .peer

def Card.sspace (c : Card) : Space := spaceOf (c.n 253 3)
def Card.dspace (c : Card) : Space := spaceOf (c.n 250 3)
def Card.ispace (c : Card) : Space := spaceOf (c.n 247 3)

/-- Element size: of a transpose, or of a gather. -/
def Card.esize (c : Card) : Nat := if c.kind = 2 then 2 ^ c.mode else 2 ^ (c.mode - 1)
def Card.transpose (c : Card) : Bool := c.kind == 1 && c.mode != 0
/-- Output bytes of a digest. -/
def Card.out (c : Card) : Nat := if c.mode = 1 then 64 else 32

/-- A run of bytes in one space. -/
structure Run where
  sp : Space
  lo : Nat
  len : Nat
  deriving DecidableEq, Repr

def Run.meets (a b : Run) : Bool :=
  a.sp == b.sp && decide (0 < a.len) && decide (0 < b.len) && decide (a.lo < b.lo + b.len) && decide (b.lo < a.lo + a.len)

/-- Read footprints (17 R312). -/
def Card.reads (c : Card) : List Run :=
  match c.kind with
  | 1 => [⟨c.sspace, c.src, (c.rows - 1) * c.sstride + c.count⟩]
  | 2 => [⟨c.ispace, c.idx, 4 * c.count⟩, ⟨c.sspace, c.src, c.srclen⟩]
  | _ => [⟨c.sspace, c.src, c.count⟩]

/-- The destination run. -/
def Card.dest (c : Card) : Run :=
  match c.kind with
  | 1 => if c.transpose then ⟨c.dspace, c.dst, (c.count / c.esize - 1) * c.dstride + c.rows * c.esize⟩
         else ⟨c.dspace, c.dst, (c.rows - 1) * c.dstride + c.count⟩
  | 2 => ⟨c.dspace, c.dst, c.count * c.esize⟩
  | _ => ⟨c.dspace, c.dst, c.out⟩

def Card.hasStat (c : Card) : Bool := c.statoff != 0xFFFFFFFF

/-- Write footprints: the status record belongs to them. -/
def Card.writes (c : Card) : List Run := c.dest :: (if c.hasStat then [⟨.cluster, c.statoff, 16⟩] else [])

/-- The engine of a kind at a cluster: copy and gather engines of the cluster, the digest engine of its die (17 R308). -/
def engineOf (kind cl : Nat) : Nat := 64 * kind + (if kind = 3 then cl / 8 * 8 else cl)
/-- Queues of an engine. -/
def engineSize (kind : Nat) : Nat := if kind = 3 then 288 else 36
def Card.engine (c : Card) : Nat := engineOf c.kind c.cl

/-- Chunks of a card (17 R315 to R317). -/
def Card.chunks (c : Card) : Nat :=
  match c.kind with
  | 1 => (c.rows * c.count + 127) / 128
  | 2 => (c.count + 7) / 8
  | _ => (c.count + 135) / 136

/-! ## The checks at issue (17 R313) -/

/-- Fields that must be zero in a card of the kind. -/
def Card.otherFields (c : Card) : Bool :=
  c.n 384 128 != 0 || c.n 240 7 != 0 || c.n 56 1 != 0 || c.n 40 6 != 0
    || (c.kind != 2 && (c.idx != 0 || c.n 247 3 != 0)) || (c.kind != 1 && c.rows != 0)
    || (c.kind == 3 && c.srclen != 0)

def padHigh (sp : Space) (a : Nat) : Bool := sp != .main && decide (2 ^ 32 ≤ a)

/-- Step 3. -/
def Card.reservedBad (c : Card) : Bool :=
  c.n 60 4 != c.kind || c.otherFields
    || decide (4 < c.n 253 3) || decide (4 < c.n 250 3) || decide (4 < c.n 247 3)
    || padHigh c.sspace c.src || padHigh c.dspace c.dst || (c.kind == 2 && padHigh c.ispace c.idx)
    || (match c.kind with | 1 => decide (3 < c.mode) || c.rows == 0 | 2 => decide (4 < c.mode) | _ => decide (1 < c.mode))
    || c.count == 0 || (decide (12 ≤ c.flag) && c.flag != 15) || (c.kind == 3 && !c.cls1)
    || (c.transpose && c.count % c.esize != 0)

/-- Step 4. -/
def Card.misaligned (c : Card) : Bool :=
  (c.hasStat && c.statoff % 16 != 0) || (c.kind == 2 && (c.idx % 4 != 0 || c.src % c.esize != 0 || c.dst % c.esize != 0))
    || (c.transpose && (c.src % c.esize != 0 || c.dst % c.esize != 0 || c.sstride % c.esize != 0 || c.dstride % c.esize != 0))

/-- The window that holds a whole main-memory run. -/
def Grid.runWindow (g : Grid) (r : Run) : Option Window :=
  match g.window r.lo with
  | some (_, wd) => if r.lo + r.len ≤ wd.vbase + 65536 * wd.size then some wd else none
  | none => none

/-! ## Footprints by the bytes they name (11 R211; 14 R293, R294) -/

/-- A stretch of bytes by which footprints are compared: pads by their key (0), main memory by physical address (1), and
by intermediate address (2) where no page stands. -/
structure Piece where
  tag : Nat
  lo : Nat
  len : Nat
  deriving DecidableEq, Repr

def Piece.meets (a b : Piece) : Bool := a.tag == b.tag && decide (a.lo < b.lo + b.len) && decide (b.lo < a.lo + a.len)

/-- A stand-in for the issuing wave, which may have ended. -/
def Card.ghost (c : Card) : Wave :=
  { (default : Wave) with uid := c.uid, cl := c.cl, sl := c.sl, slot := c.slot, bid := c.bid, walked := c.walked }

def State.runPieces (s : State) (w : Wave) (r : Run) : List Piece :=
  if r.len = 0 then []
  else match r.sp with
    | .main =>
      match (s.grd (s.blk w)).runWindow r with
      | none => []
      | some wd =>
        let ia := wd.ia r.lo
        if wd.kind != 1 then [⟨1, ia, r.len⟩]
        else (List.range ((ia % 65536 + r.len + 65535) / 65536)).map fun k =>
          let lo := max ia (65536 * (ia / 65536 + k))
          let n := min (ia + r.len) (65536 * (ia / 65536 + k + 1)) - lo
          match (s.seen w (wd.vbase + (lo - wd.ibase))).loc with
          | some (.main pa _) => ⟨1, pa, n⟩
          | _ => ⟨2, lo, n⟩
    | sp => match s.padLoc w sp r.lo r.len with
      | some (.pad k) => [⟨0, k, r.len⟩]
      | _ => []

/-- Whether two footprints share a byte, under one name or two. -/
def State.runsMeet (s : State) (w : Wave) (a b : Run) : Bool :=
  a.meets b || (s.runPieces w a).any fun x => (s.runPieces w b).any x.meets

/-- The cards' edges of one queue (14 R294): read after write, write after read, write after write. -/
def State.edge (s : State) (a b : Card) : Bool :=
  let meet := s.runsMeet b.ghost
  (b.reads.any fun x => a.writes.any fun y => meet x y) || (b.writes.any fun x => a.reads.any fun y => meet x y)
    || (b.writes.any fun x => a.writes.any fun y => meet x y)

/-- The read and write footprints of a card overlap (17 R313). -/
def State.cardOverlaps (s : State) (c : Card) : Bool :=
  c.reads.any fun x => c.writes.any fun y => s.runsMeet c.ghost x y

def Loc.piece (l : Loc) (n : Nat) : Piece :=
  match l with
  | .pad k => ⟨0, k, n⟩
  | .main pa _ => ⟨1, pa, n⟩

/-- The bytes of an access, with the targets of a REDX. -/
def State.accPieces (s : State) (a : Access) : List Piece :=
  a.lanes.flatMap fun l =>
    (if l.withheld then [] else [l.loc.piece a.size])
      ++ (if isRedx a.i then match s.redirKey a.bid (redirOf l.aux) with | some (_, k) => [⟨0, k, a.size⟩] | none => [] else [])

/-- The bytes that a tile transfer or an MMA reads or writes in the pad. -/
def State.movePieces (s : State) (m : TileMove) : List Piece := [⟨0, s.moveKey m, 2048 * tileFmtBytes m.fm⟩]
def State.mmaPieces (s : State) (m : Mma) : List Piece :=
  let k := fun off => cpadKey m.cl (((s.blockOf m.bid).getD default).cbase + off)
  [⟨0, k m.boff, panelBytes m.sparse⟩, ⟨0, k m.soff, scaleBytes m.afmt m.sparse m.ascaled m.bscaled⟩]
    ++ (if m.sparse then [⟨0, k m.moff, metaBytes m.afmt⟩] else [])

/-- Whether bytes lie in a card's footprints. -/
def State.cardMeets (s : State) (c : Card) (xs : List Piece) : Bool :=
  let ps := (c.reads ++ c.writes).flatMap (s.runPieces c.ghost)
  xs.any fun x => ps.any x.meets

/-- A footprint that step 5 refuses. -/
def State.runRefused (s : State) (w : Wave) (need : Need) (digest : Bool) (r : Run) : Bool :=
  let g := s.grd (s.blk w)
  match r.sp with
  | .main =>
    match g.runWindow r with
    | none => decide (0 < r.len)
    | some wd =>
      wd.kind == 2 || need.lacks wd.r wd.w wd.x || (digest && wd.kind != 3)
        || (wd.kind != 1 && (keyRefuses g.pkr wd.pkey need.wr || decide (s.mem.cap < wd.ia r.lo + r.len)))
  | sp => (s.padLoc w sp r.lo r.len).isNone || (digest && need.rd)

/-- Whether a partition owns a semaphore of a cluster (17 R324). -/
def State.owns (s : State) (cl k part : Nat) : Bool :=
  (((s.cluster cl).sems[k]?.getD default).owner.map Fin.val) == some part

/-- Step 5. -/
def State.cardRefused (s : State) (w : Wave) (c : Card) : Bool :=
  (c.reads.any fun r => s.runRefused w .read (c.kind == 3) r) || s.runRefused w .write false c.dest
    || (c.semen && !s.owns w.cl c.sem (s.grd (s.blk w)).part)
    || (c.hasStat && decide ((s.grd (s.blk w)).l.cpad < c.statoff + 16))

/-- Step 6. -/
def State.cardMismatch (s : State) (w : Wave) (c : Card) : Bool :=
  !c.cls1 && (c.dest :: c.reads).any fun r => r.sp == .main &&
    match (s.grd (s.blk w)).runWindow r with | some wd => wd.kind == 1 | none => false

/-- The 64 bytes of a card: as read in the first cycle of the slot (17 R311). -/
def State.cardWord (s : State) (w : Wave) (off : Nat) : BitVec 512 :=
  match w.latched.find? fun x => x.1 == s.round w && x.2.1 == off with
  | some x => x.2.2
  | none => BitVec.ofNat 512 (ofBytes (s.mem.read (cpadKey w.cl ((s.blk w).cbase + off)) 64))

/-- The card as the issuing path hands it over. One of class 1 issued under a pre-emption ends as those that the
pre-emption met do (19 R389). -/
def State.cardAt (s : State) (kind off : Nat) : Card :=
  let w := s.w
  let n := w.cards[kind - 1]?.getD 0
  let c : Card := { (default : Card) with
    kind := kind, word := s.cardWord w off
    handle := BitVec.ofNat 32 (kind * 2 ^ 30 + n % 2 ^ 30), uid := w.uid, bid := w.bid, gid := s.b.gid
    part := s.g.part, cl := w.cl, sl := w.sl, slot := w.slot, exec := s.exec.id, setB := s.exec.setB
    round := s.round w }
  { c with stop := if c.cls1 && s.leaving w then some 0x20 else none }

/-- The first trap of a card (17 R313). -/
def cardTrap (kind : Nat) (r : RForm) (s : State) (act : W32) : Option Trap :=
  let off := s.w.rd r.a 1 (lowLane act)
  let c := s.cardAt kind off
  if act = 0 then none
  else if off % 64 != 0 then some (trapOf 0x10)
  else if s.g.l.cbytes < off + 64 then some (trapOf 0x0E)
  else if c.reservedBad || s.cardOverlaps c then some (trapOf 0x03)
  else if c.misaligned then some (trapOf 0x10)
  else if s.cardRefused s.w c then some (trapOf 0x0E)
  else if s.cardMismatch s.w c then some (trapOf 0x0F)
  else none

/-! ## Timing of class-0 cards (17 R318) -/

/-- Latencies of source, index and destination. -/
def Card.ls (c : Card) : Nat := spaceLat c.sspace
def Card.li (c : Card) : Nat := if c.kind = 2 then spaceLat c.ispace else 0
def Card.ld (c : Card) : Nat := spaceLat c.dspace

/-- Round of a chunk's index read, source read and write, from the round in which it goes out. -/
def Card.ixRound (c : Card) (k : Nat) : Nat := c.start + k + c.li - 1
def Card.rdRound (c : Card) (k : Nat) : Nat := c.start + k + c.li + c.ls - 1
def Card.wrRound (c : Card) (k : Nat) : Nat := c.start + k + c.li + c.ls + c.ld - 1

def Card.lastOut (c : Card) : Nat := c.start + c.chunks - 1
def Card.finishRound (c : Card) : Nat := c.wrRound (c.chunks - 1)

/-- The cards of a wave's queue of one kind that have not finished. -/
def State.queue (s : State) (uid kind : Nat) : List Card :=
  s.cards.filter fun c => c.uid == uid && c.kind == kind && !c.finished

/-- The round from which a card may start: one of class 0 in exactly that round, if its class-1 predecessors are done. -/
def State.cardStart (s : State) (c : Card) : Nat :=
  let q := (s.queue c.uid c.kind).filter fun e => !e.cls1
  let base := if c.cls1 then c.round + 1
    else q.foldl (fun m e => max m (max (e.lastOut + 1) (if s.edge e c then e.finishRound + 1 else 0))) (c.round + 2)
  let mine := fun (uid : Nat) (path : W32) (ps : List Piece) => uid == c.uid && path &&& s.path.lanes != 0 && s.cardMeets c ps
  ((s.accs.filter fun (a : Access) => !a.cls1 && mine a.uid a.path (s.accPieces a)).map (fun (a : Access) => a.round + a.lat)
    ++ (s.moves.filter fun (m : TileMove) => mine m.uid m.path (s.movePieces m)).map (fun (m : TileMove) => m.round + 3)
    ++ (s.mmas.filter fun (m : Mma) => mine m.uid m.path (s.mmaPieces m)).map fun (m : Mma) => m.round + 3).foldl max base

/-! ## Meanings: cards and JCAN -/

/-- CPYJ, GATJ, DGSTJ: the card joins the wave's queue, and its handle arrives in round 1. -/
def cardIssue (i : Instr) (kind : Nat) (r : RForm) (s : State) : Out State Fault Refusal :=
  .next (s.issueChecked i (cardTrap kind r) fun u act =>
    (if act = 0 then u
     else
      let c := s.cardAt kind (s.w.rd r.a 1 (lowLane act))
      let c := { c with start := u.cardStart c }
      ({ u with cards := u.cards ++ [c] }.updWave u.path.uid fun w =>
        { w with cards := w.cards.setIfInBounds (kind - 1) ((w.cards[kind - 1]?.getD 0) + 1) }).result 1 act
          (u.w.regsAt r.d 1) (u.w.dst r.d 1 act fun _ => c.handle.toNat)).advance)

def execCpyj (r : RForm) (s : State) : Out State Fault Refusal := cardIssue (.cpyj r) 1 r s
def execGatj (r : RForm) (s : State) : Out State Fault Refusal := cardIssue (.gatj r) 2 r s
def execDgstj (r : RForm) (s : State) : Out State Fault Refusal := cardIssue (.dgstj r) 3 r s

/-- A card that has not started (17 R323). -/
def State.unstarted (s : State) (c : Card) : Bool :=
  !c.finished && (if c.cls1 then !c.begun else !c.started && decide ((s.slice c.cl c.sl).round < c.start))

/-- The requests and walks of chunks are withdrawn. -/
def State.dropChunks (s : State) (ps : List Chunk) : State :=
  let gone := fun (r : Req) => ps.any fun p => match r.walk with | some (u, _, _) => p.id == u | none => p.id == r.acc
  { s with mem := { s.mem with reqs := s.mem.reqs.filter fun r => !gone r } }

/-- A cancelled or ended card leaves, and the flags that counted it may set (17 R320). -/
def State.closeCard (s : State) (c : Card) : State :=
  let s := { s.dropChunks c.pipe with cards := s.cards.filter fun e => !(e.uid == c.uid && e.handle == c.handle) }
  (s.updBlock c.bid fun b => { b with armed := b.armed ||| armBit c.flag }).settleFlags c.bid

def execJcan (r : RForm) (s : State) : Out State Fault Refusal :=
  .next (s.issue (.jcan r) fun s act =>
    if act = 0 then s.advance
    else
      let h := BitVec.ofNat 32 (s.w.rd r.a 1 (lowLane act))
      let hit := s.cards.find? fun c => c.uid == s.w.uid && c.handle == h && s.unstarted c
      let u := match hit with | some c => s.closeCard c | none => s
      (u.result 3 act (s.w.regsAt r.d 1) (s.w.dst r.d 1 act fun _ => bit hit.isSome)).advance)

/-! ## Semaphores (17 R324 to R328) -/

def Cluster.sem (c : Cluster) (k : Nat) : Sem := c.sems[k]?.getD default

def State.updSem (s : State) (cl k : Nat) (f : Sem → Sem) : State :=
  s.updCluster cl fun c => { c with sems := c.sems.setIfInBounds k (f (c.sem k)) }

/-- An addend, clamped (17 R325). -/
def Sem.add (m : Sem) (n : Int) : Sem :=
  let v : Int := m.count.toNat + n
  if 4294967295 < v then { m with count := 0xFFFFFFFF, ovf := true }
  else if v < 0 then { m with count := 0, ovf := true }
  else { m with count := BitVec.ofInt 32 v }

/-- Bits 63:32 of a semaphore. -/
def Sem.status (m : Sem) : Nat := bit m.ovf + 2 * bit m.fail

/-- The condition of SEMWT: neither failed nor below the threshold. -/
def Sem.reached (m : Sem) (threshold : W32) : Bool := m.fail || decide (threshold ≤ m.count)

/-- A semaphore instruction: the protection trap of a semaphore that the partition does not own (17 R310). -/
def semOp (i : Instr) (k : Nat) (f : State → W32 → State) (s : State) : Out State Fault Refusal :=
  .next (s.issueChecked i
    (fun s act => if act != 0 && !s.owns s.w.cl k s.g.part then some (trapOf 0x0E) else none)
    fun u act => (if act = 0 then u else f u act).advance)

def execSemadd (k : Fin 64) (r : RForm) (s : State) : Out State Fault Refusal :=
  semOp (.semadd k r) k.val (fun s act =>
    s.updSem s.w.cl k.val fun m => m.add (BitVec.ofNat 32 (s.w.rd r.b 1 (lowLane act))).toInt) s

def execSemset (k : Fin 64) (r : RForm) (s : State) : Out State Fault Refusal :=
  semOp (.semset k r) k.val (fun s act =>
    s.updSem s.w.cl k.val fun m =>
      { m with count := BitVec.ofNat 32 (s.w.rd r.b 1 (lowLane act)), fail := false, ovf := false }) s

def execSemrd (st : Bool) (k : Fin 64) (r : RForm) (s : State) : Out State Fault Refusal :=
  semOp (.semrd st k r) k.val (fun s act =>
    let m := (s.cluster s.w.cl).sem k.val
    s.result 3 act (s.w.regsAt r.d 1) (s.w.dst r.d 1 act fun _ => if st then m.status else m.count.toNat)) s

/-- The s-register of a destination. -/
def sDstOf : Opnd → Option (Fin 64) | .s n => some n | _ => none

/-- SEMWT waits in every case: its condition is tested after every update of the cycle (R328). -/
def execSemwt (k : Fin 64) (r : RForm) (s : State) : Out State Fault Refusal :=
  semOp (.semwt k r) k.val (fun s act =>
    s.updWave s.path.uid fun w => w.updTh s.path.lanes fun _ t =>
      { t with wait := .sem k.val (BitVec.ofNat 32 (s.w.rd r.b 1 (lowLane act))) (sDstOf r.d) (s.cycle s.w.cl) }) s

/-- A thread's semaphore wait is over. -/
def State.semOver (s : State) (w : Wave) (t : Thread) : Bool :=
  match t.wait with
  | .sem k th _ _ => ((s.cluster w.cl).sem k).reached th
  | _ => false

/-- The path of a satisfied wait resumes: the status word arrives in the resume round. A wait satisfied in the cycle in
which SEMWT was applied is none (17 R327, R328). -/
def State.semResume (s : State) (wv lane : Nat) : State :=
  match s.waves[wv]? with
  | none => s
  | some w =>
    let t := w.th lane
    match t.wait with
    | .sem k th d since =>
      if ((s.cluster w.cl).sem k).reached th then
        let same := fun (u : Thread) => u.wait == t.wait && u.pc == t.pc && u.depth == t.depth
        let lanes := maskOf fun l => same (w.th l)
        let st := BitVec.ofNat 32 ((s.cluster w.cl).sem k).status
        let r := s.round w
        (s.updWave w.uid fun w =>
          { (w.updTh lanes fun _ t => { t with
              wait := .none, reanchor := t.reanchor || decide (since < s.cycle w.cl), readyAt := max t.readyAt (r + 1) }) with
            pend := match d with
              | some n => w.pend ++ [⟨r + 1, lanes, [.s n.val], [.s n.val st], [], none, [], 0, 0, none⟩]
              | none => w.pend }).settle w.uid
      else s
    | _ => s

def execSemaphoreResume (wv lane : Nat) (s : State) : Out State Fault Refusal := .next (s.semResume wv lane)

/-! ## Completion flags (17 R329, R330) -/

def execFlgclr (r : RForm) (s : State) : Out State Fault Refusal :=
  .next (s.issue (.flgclr r) fun s act =>
    (if act = 0 then s
     else s.result 1 act [] [.flagClr (BitVec.ofNat 32 (s.w.rd r.a 1 (lowLane act)) &&& 0xFFF)]).advance)

def execFlgrd (r : RForm) (s : State) : Out State Fault Refusal :=
  .next (s.issue (.flgrd r) fun s act =>
    (s.result 1 act (s.w.regsAt r.d 1) (s.w.dst r.d 1 act fun _ => (s.flagsNow s.b).toNat)).advance)

/-! ## A card at work (17 R315 to R322) -/

/-- Source and destination address of each byte of a chunk of a copy, in the job's order. -/
def Card.copyBytes (c : Card) (k : Nat) : List (Nat × Nat) :=
  (List.range (min 128 (c.rows * c.count - 128 * k))).map fun o =>
    let n := 128 * k + o
    if c.transpose then
      let e := c.esize
      let j := n / (c.rows * e)
      let i := n % (c.rows * e) / e
      (c.src + i * c.sstride + e * j + n % e, c.dst + j * c.dstride + e * i + n % e)
    else (c.src + n / c.count * c.sstride + n % c.count, c.dst + n / c.count * c.dstride + n % c.count)

/-- What a byte of a card finds, and why it would fail: code 0x11 or 0x12. -/
def State.cardLook (s : State) (c : Card) (sp : Space) (need : Need) (a : Nat) : Look := s.look c.ghost sp true need a 1

def Look.fails (k : Look) : Option Nat :=
  if k.refused then some 0x12 else if k.withheld || k.loc.isNone then some 0x11 else none

/-- Requests of a chunk to main memory. -/
def State.cardReqs (s : State) (c : Card) (id : Nat) (write : Bool) (sp : Space) (as : List Nat) : State :=
  if sp != .main then s
  else
    let runs := as.filterMap fun a =>
      match (s.cardLook c sp (if write then .write else .read) a).loc with
      | some (.main pa _) => some (pa, 1)
      | _ => none
    { s with mem := { s.mem with reqs := s.mem.reqs ++ (coalesce runs).map fun r =>
      ⟨id, none, r.1, r.2, write, c.cls1, c.part, (match s.gridOf c.gid with | some g => g.l.asid | none => 0), s.now,
        c.cl, c.sl, none, false, false, []⟩ } }

/-- Malformed entries that the bytes of a card meet are reported (11 R218). -/
def State.reportCard (s : State) (c : Card) (sp : Space) (as : List Nat) : State :=
  if sp == .main then s.reportBad c.ghost (as.map fun a => s.seen c.ghost a) else s

def State.setCard (s : State) (c : Card) : State :=
  { s with cards := modifyFirst (fun e => e.uid == c.uid && e.handle == c.handle) (fun _ => c) s.cards }

/-- One cluster cycle after now. -/
def State.nextCycle (s : State) (cl : Nat) : Nat := s.now + Config.cycle (s.cluster cl).clock

/-- The status record (17 R321). Its 32-bit count of bytes or elements done is kept modulo 2^32 (log 121). -/
def Card.status (c : Card) (code faddr : Nat) : Nat :=
  code + min c.ocount 4095 * 2 ^ 8 + min c.wcount 4095 * 2 ^ 20 + c.done % 2 ^ 32 * 2 ^ 32 + faddr % 2 ^ 64 * 2 ^ 64

/-- Engine kind of an event record for a card (19 R379). -/
def Card.evKind (c : Card) : Nat := c.kind + 1

/-- A card ends with a code: status record, event count or fail bit, the report of a failure (17 R320, R322). -/
def State.endCard (s : State) (c : Card) (code faddr : Nat) : State :=
  let b := (s.blockOf c.bid).getD default
  let s := (s.dropChunks c.pipe).setCard { c with code := some (code, s.nextCycle c.cl), pipe := [] }
  let s := if c.hasStat then
      { s with mem := s.mem.write (cpadKey c.cl (b.cbase + c.statoff)) (toBytes 16 (c.status code faddr)) } else s
  if code = 1 ∨ code = 2 then
    (if c.semen && c.events then s.updSem c.cl c.sem fun m => m.add 1 else s)
  else
    let s := if c.semen then s.updSem c.cl c.sem fun m => { m with fail := true } else s
    let g := (s.gridOf c.gid).getD default
    let e : Ev := { (default : Ev) with
      code := 0x010B, asid := some g.l.asid, part := some c.part, kind := c.evKind, detail := [c.handle.toNat, code] }
    s.report (if c.kind = 3 then { e with die := c.cl / 8 } else e.at c.cl c.sl c.slot)

/-- An error of main memory met by a job ends its context; the card leaves without a status record (17 R322; log 92). -/
def State.loseCard (s : State) (id : Nat) : State :=
  match s.cards.find? fun c => c.pipe.any fun p => p.id == id with
  | some c => s.closeCard c
  | none => s

/-- A chunk fails: the card ends with a code once the chunks before it are written. -/
def State.failChunk (s : State) (c : Card) (k code a : Nat) : State :=
  (s.dropChunks (c.pipe.filter fun q => decide (k ≤ q.c))).setCard
    { c with fate := some (code, a), pipe := c.pipe.filter fun q => decide (q.c < k) }

/-- A card starts: it fails when its write footprint overlaps a barrier area (code 0x10). -/
def State.startCard (s : State) (c : Card) : State :=
  let hit := c.writes.findSome? fun r =>
    match s.padLoc c.ghost r.sp r.lo r.len with
    | some (.pad k) =>
      if r.sp == .cluster || r.sp == .peer then (s.barArea k r.len).map fun n => r.lo + n else none
    | _ => none
  s.setCard { c with started := true, fate := hit.map fun a => (0x10, a) }

/-! ### What a chunk touches -/

def Card.setChunk (c : Card) (p : Chunk) : Card :=
  { c with pipe := modifyFirst (fun q => q.c == p.c) (fun _ => p) c.pipe }

/-- Addresses of a run of bytes. -/
def byteRun (a n : Nat) : List Nat := (List.range n).map fun o => a + o

/-- Indices of a chunk of a gather. -/
def Card.indexAddrs (c : Card) (k : Nat) : List Nat := (List.range (min 8 (c.count - 8 * k))).map fun j => c.idx + 32 * k + 4 * j

/-- Whether an element of a gather lies within the source region. -/
def Card.inBounds (c : Card) (v : Nat) : Bool := decide (c.esize * v + c.esize ≤ c.srclen)

/-- Source addresses of a chunk of a copy or a digest. -/
def Card.srcAddrs (c : Card) (k : Nat) : List Nat :=
  if c.kind = 1 then (c.copyBytes k).map Prod.fst else byteRun (c.src + 136 * k) (min 136 (c.count - 136 * k))

/-- What a chunk reads or writes next: the space, whether it writes, and the addresses. -/
def Card.phase (c : Card) (p : Chunk) : Space × Bool × List Nat :=
  match p.data with
  | some d => (c.dspace, true, d.map Prod.fst)
  | none =>
    if c.kind = 2 then match p.idx with
      | none => (c.ispace, false, (c.indexAddrs p.c).flatMap fun a => byteRun a 4)
      | some xs => (c.sspace, false, xs.flatMap fun x => match x with
          | some v => if c.inBounds v then byteRun (c.src + c.esize * v) c.esize else []
          | none => [])
    else (c.sspace, false, c.srcAddrs p.c)

/-- A chunk asks for what it touches next: the entries of its walks first (11 R219), then its requests. -/
def State.askChunk (s : State) (c : Card) (p : Chunk) : State :=
  match c.phase p with
  | (sp, wr, as) =>
    let gs := if sp == .main then s.gaps c.ghost as else []
    if gs.isEmpty then (s.setCard (c.setChunk { p with asked := true })).cardReqs c p.id wr sp as
    else gs.foldl (fun s g => s.askWalk { c.ghost with uid := p.id } g) s

/-- A chunk goes on to its next phase. -/
def State.nextPhase (s : State) (c : Card) (p : Chunk) : State :=
  let p := { p with asked := false }
  let c := { c.setChunk p with walked := [] }
  (s.setCard c).askChunk c p

/-- A chunk goes out in the service of a queue of the engine. -/
def State.sendChunk (s : State) (c : Card) (cl sl slot : Nat) : State :=
  let p : Chunk := ⟨c.sent, s.nextUid, none, none, false, [], 0⟩
  let c := { c with sent := c.sent + 1, pipe := c.pipe ++ [p], begun := c.begun || (c.phase p).1 != Space.main }
  let s := { s with nextUid := s.nextUid + 1 }
  let s := if c.cls1 then
      { s.updSlice cl sl fun x => { x with turns := (c.kind, slot) :: x.turns } with
        lastQueue := s.lastQueue.set 0 (c.engine) ((6 * c.cl + c.sl) * 6 + c.slot) } else s
  (s.setCard c).askChunk c p

/-! ### Reading and writing -/

/-- The first failing address of a list, with its code. -/
def State.cardFail (s : State) (c : Card) (sp : Space) (need : Need) (as : List Nat) : Option (Nat × Nat) :=
  as.findSome? fun a => ((s.cardLook c sp need a).fails).map fun code => (code, a)

/-- The first address that is refused. -/
def State.cardRefusal (s : State) (c : Card) (sp : Space) (need : Need) (as : List Nat) : Option Nat :=
  as.find? fun a => (s.cardLook c sp need a).refused

def State.byteAt (s : State) (c : Card) (sp : Space) (a : Nat) : Byte :=
  match (s.cardLook c sp .read a).loc with
  | some l => (s.mem.readLoc l 1).headD 0
  | none => 0

/-- A chunk reads its indices; an index that is withheld leaves its element withheld. -/
def State.readIndices (s : State) (c : Card) (p : Chunk) : State :=
  let js := c.indexAddrs p.c
  let s := s.reportCard c c.ispace js
  match s.cardRefusal c c.ispace .read js with
  | some a => s.failChunk c p.c 0x12 a
  | none => s.nextPhase c { p with
      idx := some (js.map fun a =>
        if (s.cardLook c c.ispace .read a).withheld then none
        else some (ofBytes ((byteRun a 4).map fun b => s.byteAt c c.ispace b))) }

/-- A gather chunk reads its elements: zero out of bounds and for a withheld element. -/
def State.readElements (s : State) (c : Card) (p : Chunk) (xs : List (Option Nat)) : State :=
  let e := c.esize
  let addr := fun (v : Nat) => c.src + e * v
  let s := s.reportCard c c.sspace ((xs.filterMap id).filter c.inBounds |>.map addr)
  match s.cardRefusal c c.sspace .read ((xs.filterMap id).filter c.inBounds |>.map addr) with
  | some a => s.failChunk c p.c 0x12 a
  | none =>
    let lost := fun (x : Option Nat) => match x with
      | some v => c.inBounds v && (s.cardLook c c.sspace .read (addr v)).withheld
      | none => true
    s.nextPhase c { p with
      withheld := (xs.zipIdx.filter fun x => lost x.1).map Prod.snd
      outside := (xs.filter fun x => match x with | some v => !c.inBounds v | none => false).length
      data := some (xs.zipIdx.flatMap fun x => (List.range e).map fun o =>
        (c.dst + e * (8 * p.c + x.2) + o,
          match x.1 with
          | some v => if c.inBounds v && !lost x.1 then s.byteAt c c.sspace (addr v + o) else 0
          | none => 0)) }

/-- A copy chunk or a digest chunk reads its source. -/
def State.readSource (s : State) (c : Card) (p : Chunk) : State :=
  let as := c.srcAddrs p.c
  let s := s.reportCard c c.sspace as
  match s.cardFail c c.sspace .read as with
  | some (code, a) => s.failChunk c p.c code a
  | none =>
    if c.kind = 1 then
      s.nextPhase c { p with data := some ((c.copyBytes p.c).map fun x => (x.2, s.byteAt c c.sspace x.1)) }
    else s.setCard { c.setChunk { p with data := some (as.map fun a => (0, s.byteAt c c.sspace a)) } with walked := [] }

/-- Bytes of a chunk written; a withheld byte of a gather is not. -/
def State.putBytes (s : State) (c : Card) (bs : List (Nat × Byte)) : State :=
  bs.foldl (fun s x => match (s.cardLook c c.dspace .write x.1).loc with
    | some l => s.writeBytes l [x.2]
    | none => s) s

/-- The semaphore counts bytes written (17 R320). -/
def State.countBytes (s : State) (c : Card) (n : Nat) : State :=
  if c.semen && !c.events then s.updSem c.cl c.sem fun m => m.add n else s

/-- The code of a completed card. -/
def Card.okCode (c : Card) : Nat := if c.kind = 2 && (c.ocount != 0 || c.wcount != 0) then 2 else 1

/-- A chunk of a digest is absorbed; after the last one the digest asks for its output. -/
def State.absorb (s : State) (c : Card) (p : Chunk) : State :=
  let c := { c with
    msg := c.msg ++ (p.data.getD []).map Prod.snd, chunk := c.chunk + 1, pipe := c.pipe.filter fun q => q.c != p.c }
  if c.chunk < c.chunks then s.setCard c
  else
    let q : Chunk := ⟨c.chunks, s.nextUid, none,
      some ((shake256 c.out (bytesNat c.msg)).zipIdx.map fun x => (c.dst + x.2, BitVec.ofNat 8 x.1)), false, [], 0⟩
    let c := { c with pipe := [q] }
    ({ s with nextUid := s.nextUid + 1 }.setCard c).askChunk c q

/-- The writes of a chunk of a copy or gather, with its bytes counted, or those of a digest's output. -/
def State.putChunk (s : State) (c : Card) (p : Chunk) : State :=
  let bs := p.data.getD []
  let s := s.reportCard c c.dspace (bs.map Prod.fst)
  let fail := if c.kind = 2 then (s.cardRefusal c c.dspace .write (bs.map Prod.fst)).map fun a => (0x12, a)
    else s.cardFail c c.dspace .write (bs.map Prod.fst)
  match fail with
  | some (code, a) => s.failChunk c p.c code a
  | none =>
    let lands := bs.filter fun x => (s.cardLook c c.dspace .write x.1).loc.isSome
    let n := bs.length / c.esize
    let away := (List.range n).filter fun j =>
      p.withheld.contains j || (s.cardLook c c.dspace .write (c.dst + c.esize * (8 * p.c + j))).withheld
    let s := (s.putBytes c bs).countBytes c lands.length
    let c := { c with chunk := c.chunk + 1, pipe := c.pipe.filter fun q => q.c != p.c, walked := [] }
    let c := if c.kind = 2 then
        { c with wcount := c.wcount + away.length, ocount := c.ocount + p.outside, done := c.done + lands.length / c.esize }
      else { c with done := c.done + lands.length }
    let s := s.setCard c
    if c.chunks ≤ c.chunk then s.endCard c c.okCode 0 else s

/-- The effect of a chunk whose turn has come. A card that ends with its block or context leaves its current chunk
unwritten (19 R378), and a digest that is stopped writes nothing. -/
def State.writeChunk (s : State) (c : Card) (p : Chunk) : State :=
  match c.stop with
  | some code =>
    if code = 0x21 ∨ c.kind = 3 then s.endCard c code 0 else s.putChunk c p
  | none => if c.kind = 3 && p.c != c.chunks then s.absorb c p else s.putChunk c p

/-- What a card does next in a round: nothing, or one of its steps. -/
inductive CardStep where
  | close | halt (code addr : Nat) | start | send (cl sl slot : Nat) | ask (p : Chunk) | index (p : Chunk) | read (p : Chunk)
  | write (p : Chunk)
  deriving DecidableEq, Repr

/-- Every request of a chunk has been served. -/
def State.chunkServed (s : State) (id : Nat) : Bool := !s.mem.reqs.any fun r => r.walk.isNone && r.acc == id

/-- A walk of a chunk is under way. -/
def State.chunkWalks (s : State) (id : Nat) : Bool :=
  s.mem.reqs.any fun r => match r.walk with | some (u, _, _) => u == id | none => false

/-- A chunk's next read or write may be made. -/
def State.chunkReady (s : State) (p : Chunk) : Bool := p.asked && s.chunkServed p.id

/-- The queue's earlier cards with an edge to this one have finished (17 R319). -/
def State.edgesDone (s : State) (c : Card) : Bool :=
  !((s.cards.takeWhile fun e => !(e.uid == c.uid && e.handle == c.handle)).any fun e =>
    e.uid == c.uid && e.kind == c.kind && !e.finished && s.edge e c)

/-! ### Services of the queues (17 R318, R319) -/

/-- A class-0 card has a chunk for the present service of a queue. -/
def State.timedTurn (s : State) (kind cl sl slot : Nat) : Bool :=
  s.cards.any fun c => c.kind == kind && c.cl == cl && c.sl == sl && c.slot == slot && !c.cls1 && c.code.isNone
    && !c.cancelled && decide (c.start ≤ (s.slice cl sl).round) && decide ((s.slice cl sl).round ≤ c.lastOut)

/-- A class-1 card with a chunk to send. -/
def State.canSend (s : State) (c : Card) : Bool :=
  c.cls1 && c.started && c.code.isNone && !c.cancelled && decide (c.sent < c.chunks) && c.pipe.isEmpty && c.stop.isNone
    && c.fate.isNone && decide (c.start ≤ (s.slice c.cl c.sl).round)

/-- Place of a card's queue among those of the device. -/
def Card.place (c : Card) : Nat := (6 * c.cl + c.sl) * 6 + c.slot

/-- The class-1 card that a queue's service goes to, when no class-0 card has it: the first of the queue itself, or the
first of the next queue of the engine, in rotation, that has one. -/
def State.taker (s : State) (kind cl sl slot : Nat) : Option Card :=
  if s.timedTurn kind cl sl slot || (s.slice cl sl).turns.contains (kind, slot) then none
  else
    let k := (6 * cl + sl) * 6 + slot
    let e := engineOf kind cl
    let n := engineSize kind
    let first := 36 * (e % 64)
    let cs := s.cards.filter fun c => c.kind == kind && c.engine == e && s.canSend c
    match cs.find? fun c => c.place == k with
    | some c => some c
    | none =>
      let last := s.lastQueue.get 0 e
      let rank := fun (c : Card) => (c.place + n - 1 - (last - first)) % n
      cs.foldl (fun m c => match m with
        | some d => if rank c < rank d then some c else some d
        | none => some c) none

/-- The services that a class-1 card takes in the present rounds of the engine's queues: slice and slot. -/
def State.turnsOf (s : State) (c : Card) : List (Nat × Nat × Nat) :=
  (List.range (engineSize c.kind)).filterMap fun j =>
    let k := 36 * (c.engine % 64) + j
    match s.taker c.kind (k / 36) (k / 6 % 6) (k % 6) with
    | some d => if d.uid == c.uid && d.handle == c.handle then some (k / 36, k / 6 % 6, k % 6) else none
    | none => none

/-- The first or last cycle of a slot in the present round (07 R139). -/
def State.slotTime (s : State) (cl sl slot : Nat) (last : Bool) : Nat :=
  let y := (s.slice cl sl).slotCycles (s.cluster cl).pass slot
  (s.cluster cl).timeOf (if last then y.2 else y.1)

/-- The earliest of the services still to come that a card takes; a frozen cluster serves none. -/
def State.nextTurn (s : State) (c : Card) : Option (Nat × Nat × Nat) :=
  ((s.turnsOf c).filter fun x => !(s.cluster x.1).frozen && decide (s.now ≤ s.slotTime x.1 x.2.1 x.2.2 false)).foldl (fun m x => match m with
    | some y => if s.slotTime x.1 x.2.1 x.2.2 false < s.slotTime y.1 y.2.1 y.2.2 false then some x else some y
    | none => some x) none

/-- The step that is due for a card in round `r` of its slice; `reads` in its read cycle, otherwise in its effect
cycle. -/
def State.cardStep (s : State) (c : Card) (r : Nat) (reads : Bool) : Option CardStep :=
  match c.code with
  | some (_, t) => if t ≤ s.now then some .close else none
  | none =>
    if c.cancelled then some .close
    else if !c.started then
      match c.stop with
      | some code => some (.halt code 0)
      | none => if reads && decide (c.start ≤ r) && (!c.cls1 || s.edgesDone c) then some .start else none
    else if reads then
      match c.pipe.find? fun p => !p.asked && !s.chunkWalks p.id && (p.data.isNone || c.kind != 3 || p.c == c.chunks) with
      | some p => some (.ask p)
      | none =>
        match c.pipe.find? fun p => p.idx.isNone && c.kind == 2 && (c.cls1 || decide (c.ixRound p.c ≤ r)) && s.chunkReady p with
        | some p => some (.index p)
        | none =>
          match c.pipe.find? fun p => p.data.isNone && (c.kind != 2 || p.idx.isSome)
              && (c.cls1 || decide (c.rdRound p.c ≤ r)) && s.chunkReady p with
          | some p => some (.read p)
          | none =>
            if c.cls1 then (s.nextTurn c).map fun x => .send x.1 x.2.1 x.2.2
            else if decide (c.sent < c.chunks) && c.fate.isNone && decide (c.start + c.sent ≤ r) then some (.send c.cl c.sl c.slot)
            else none
    else
      match c.pipe with
      | p :: _ =>
        if p.data.isSome && (c.cls1 || decide (c.wrRound p.c ≤ r)) && s.chunkReady p then some (.write p) else none
      | [] => match c.fate, c.stop with
        | some (code, a), _ => some (.halt code a)
        | none, some code => some (.halt code 0)
        | none, none => none

/-- The uncorrectable groups that a chunk's next read or write meets (12 R259). -/
def State.cardGroups (s : State) (c : Card) (p : Chunk) : List Nat :=
  match c.phase p with
  | (sp, wr, as) =>
    if sp == .main || s.mem.broken.isEmpty then []
    else (as.flatMap fun a => match (s.cardLook c sp (if wr then .write else .read) a).loc with
      | some l => s.brokenLoc l 1
      | none => []).eraseDups

/-- One step of a card. A job that finds an uncorrectable group ends without a status record (17 R322). -/
def State.runCard (s : State) (c : Card) (st : CardStep) : State :=
  let lost := match st with | .index p | .read p | .write p => s.cardGroups c p | _ => []
  if !lost.isEmpty then (s.found lost).closeCard c
  else
  match st with
  | .close => s.closeCard c
  | .halt code a => s.endCard c code a
  | .start => s.startCard c
  | .send cl sl slot => s.sendChunk c cl sl slot
  | .ask p => s.askChunk c p
  | .index p => s.readIndices c p
  | .read p => match p.idx with
    | some xs => if c.kind = 2 then s.readElements c p xs else s.readSource c p
    | none => s.readSource c p
  | .write p => s.writeChunk c p

end Sys2Proof.Machine
end

