-- ==== Sys2Proof/Machine/GraphOps.lean ====
section
/-! DEFINITION. Shared operations of the marshal (18): the graph region, condition words, graph faults, and the commit of
a node. -/

namespace Sys2Proof.Machine

/-! ## The graph region (18 R332) -/

/-- `n` bytes at an address lie in the graph region and below CAP, and no atom of theirs is lost: the marshal has no context that
12 R245 could end (log 114). -/
def State.inRegion (s : State) (p a n : Nat) : Bool :=
  decide ((s.part p).grbase.toNat ≤ a) && decide (a + n ≤ (s.part p).grbase.toNat + 65536 * (s.part p).grsize.toNat)
    && decide (a + n ≤ s.mem.cap) && !s.mem.lostPa a n

def State.cwAddr (s : State) (p : Nat) (n : Fin 64) : Nat := (s.part p).cwbase.toNat + 8 * n.val

/-- Condition word `n`; none is a graph protection fault. -/
def State.cw (s : State) (p : Nat) (n : Fin 64) : Option Nat :=
  if s.inRegion p (s.cwAddr p n) 8 then some (s.mem.word (s.cwAddr p n) 8) else none

/-! ## Graph faults (18 R350) -/

/-- The graph of a partition stops with a code; nodes already issued run on. -/
def State.gstop (s : State) (p code : Nat) (more : List Nat) : State :=
  (s.updPart p fun q =>
    { q with mstate := .stopped, mcode := BitVec.ofNat 8 code, waitgc := none, deadline := none }).report
    (marshalEv 0x0110 p ([p, (s.part p).gpc.toNat, code] ++ more))

/-- A node of the current graph stops it while it runs; the outcome of a node that an earlier graph left behind stops
nothing (log 26). -/
def State.nodeStop (s : State) (p : Nat) (n : Node) (code : Nat) (more : List Nat) : State :=
  if (s.part p).mstate == .running && decide ((s.part p).first ≤ n.phase) then s.gstop p code more else s

/-- A condition word written, or the protection fault. -/
def State.setCw (s : State) (p : Nat) (n : Fin 64) (v : Nat) : State :=
  if s.inRegion p (s.cwAddr p n) 8 then { s with mem := s.mem.writeMany (s.cwAddr p n) (toBytes 8 v) }
  else s.gstop p 0x04 []

/-! ## Commits (18 R336, R338, R341) -/

def State.dropNode (s : State) (p id : Nat) : State :=
  s.updPart p fun q => { q with nodes := q.nodes.filter fun n => n.id != id }

/-- A node commits with an outcome: its status word, or, without one, the graph fault of a bad outcome. -/
def State.commit (s : State) (p : Nat) (n : Node) (v : Nat) (fault : Option (Nat × List Nat)) : State :=
  let s := s.dropNode p n.id
  if n.sten then s.setCw p n.cw v
  else match fault with
    | some (code, more) => s.nodeStop p n code more
    | none => s

def State.nodeOf (s : State) (p id : Nat) : Option Node := (s.part p).nodes.find? fun n => n.id == id

/-- The node of a grid. -/
def State.gridNode (s : State) (g : Grid) : Option Node := s.nodeOf g.part g.node

/-- The event code with which a grid counts as ended by a fault (19 R375, R376). -/
def Grid.faultCode (g : Grid) : Option Nat :=
  match g.phase with
  | .faulted c => some c
  | _ => g.blockFault

/-- A grid has retired: every block that was placed has, and none is still to be placed. -/
def Grid.isDone (g : Grid) : Bool :=
  match g.phase with
  | .faulted _ => g.retired == g.next
  | .run => g.retired == g.blocks && g.next == g.blocks && g.saved.isNone
  | _ => false

/-- A grid that has retired with every ordered window merged, or was refused, commits its GLAUNCH and leaves. -/
def State.settleGrid (s : State) (gid : Nat) : State :=
  match s.gridOf gid with
  | none => s
  | some g =>
    let out : Option (Nat × Option (Nat × List Nat)) := match g.phase with
      | .refused c => some (c, some (0x05, [c]))
      | _ => if g.isDone && !s.held.any fun h => h.gid == gid then
          some (match g.faultCode with
            | some c => (2 ^ 31 + c, some (0x09, [c]))
            | none => (0, none))
        else none
    match out with
    | none => s
    | some (v, f) =>
      let s := { s with grids := s.grids.filter fun h => h.gid != gid }.dropContext g.l.asid
      match s.gridNode g with
      | some n => s.commit g.part n v f
      | none => s

/-- A node still waits for a schedule fault. -/
def State.stopDue (s : State) (p id : Nat) : Bool := s.fabric.stops.any fun x => x.1 == p && x.2.1 == id

/-- An entry that has arrived or failed leaves the GCOLL node that counts it, which commits with its last, or with the
schedule fault that is to stop its graph (log 100). -/
def State.collEntry (s : State) (t : Tent) (failed : Bool) : State :=
  match t.node.bind (s.nodeOf t.part) with
  | some n =>
    match n.kind with
    | .coll es f =>
      let es := es.filter fun e => e != t.e
      let f := f || failed
      if es.isEmpty && !s.stopDue t.part n.id then s.commit t.part n (bit f) (if f then some (0x09, []) else none)
      else s.updPart t.part fun q =>
        { q with nodes := modifyFirst (fun m => m.id == n.id) (fun m => { m with kind := .coll es f }) q.nodes }
    | _ => s
  | none => s

/-- A failed entry leaves its node. Without a status word it stops the graph: at once, or after the schedule fault of its
folio where it raises one (18 R341). -/
def State.collFails (s : State) (t : Tent) (reason folio : Nat) : State :=
  let s := match t.node.bind (s.nodeOf t.part) with
    | some n =>
      if n.sten then s
      else if decide (2 ≤ reason) && decide (reason ≤ 5) then
        { s with fabric := { s.fabric with stops := (t.part, n.id, folio) :: s.fabric.stops } }
      else s.nodeStop t.part n 0x09 []
    | none => s
  s.collEntry t true

/-- After the schedule fault of a folio: the graphs of its failed entries stop, and nodes with nothing outstanding commit. -/
def State.settleColls (s : State) (n : Nat) : State :=
  let due := s.fabric.stops.filter fun x => decide (x.2.2 ≤ n)
  due.foldl (fun (s : State) x =>
    match s.nodeOf x.1 x.2.1 with
    | some m =>
      let s := s.nodeStop x.1 m 0x09 []
      (match m.kind with
       | .coll es _ => if es.isEmpty && !s.stopDue x.1 m.id then s.commit x.1 m 1 none else s
       | _ => s)
    | none => s) { s with fabric := { s.fabric with stops := s.fabric.stops.filter fun x => decide (n < x.2.2) } }

end Sys2Proof.Machine
end

