-- ==== Sys2Proof/Machine/Fabric.lean ====
section
/-! DEFINITION. Collective entries of the tile table: arming, firing, the chunks a device holds, root writes, failures
(20 R409 to R418; 21 R435, R439 to R443). -/

namespace Sys2Proof.Machine

/-! ## Templates (20 R406, 21 R441) -/

/-- A template entry. -/
structure TSlot where
  kind : Nat
  part : Nat
  e : Nat
  chunk : Nat
  lo : Nat
  hi : Nat
  deriving DecidableEq, Repr

def tslot (w : W64) : TSlot :=
  ⟨fld w.toNat 62 2, fld w.toNat 59 3, fld w.toNat 47 12, fld w.toNat 39 8, fld w.toNat 25 14, fld w.toNat 11 14⟩

def TSlot.names (t : TSlot) (p e : Nat) : Bool := t.kind != 0 && t.part == p && t.e == e
/-- A slot of the endpoint path. -/
def TSlot.alt (t : TSlot) : Bool := t.kind == 3
def TSlot.trailer (t : TSlot) : Bool := t.kind == 2 || (t.kind == 3 && t.chunk == 255)

/-- The entries of a template that name an entry: frame, position and content. -/
def slotsOf (tm : Cells W64) (p e : Nat) : List (Nat × Nat × TSlot) :=
  (tm.map fun x => (x.1 / 256, x.1 % 256, tslot x.2)).filter fun x => x.2.1 != 0 && x.2.2.names p e

def State.port (s : State) (n : Nat) : Port := s.fabric.ports[n]?.getD Port.reset
def State.updPort (s : State) (n : Nat) (f : Port → Port) : State :=
  { s with fabric := { s.fabric with ports := s.fabric.ports.setIfInBounds n (f (s.port n)) } }

/-- Transmit and receive slots of an entry on every port. -/
def State.txSlots (s : State) (p e : Nat) : List (Nat × Nat × Nat × TSlot) :=
  (List.range 12).flatMap fun n => (slotsOf (s.port n).tx p e).map fun x => (n, x)
def State.rxSlots (s : State) (p e : Nat) : List (Nat × Nat × Nat × TSlot) :=
  (List.range 12).flatMap fun n => (slotsOf (s.port n).rx p e).map fun x => (n, x)

/-! ## Folios (20 R401, R402) -/

def Plan.start (p : Plan) (n : Nat) : Nat := p.g0 + n * p.p
/-- GC tick of flit `j` of folio `n`. -/
def Plan.flit (p : Plan) (n j : Nat) : Nat := p.start n + 8 * j / 25
def Plan.slotTick (p : Plan) (n k i : Nat) : Nat := p.flit n (1040 * k + 4 * i)
/-- Read point of a transmit slot (20 R413). -/
def Plan.readPoint (p : Plan) (n k i : Nat) : Nat := p.slotTick n k i - 32

/-- The folio that a GC value lies in. -/
def Plan.folioAt (p : Plan) (g : Nat) : Nat := (g - p.g0) / p.p

/-- GC tick of the first gutter of a folio that has not begun: its closing sequence opens it (20 R402). -/
def State.nextGutter (s : State) : Nat :=
  match s.fabric.plan with
  | none => s.gc
  | some pl =>
    let at' := fun n => pl.flit n (1040 * pl.f)
    if s.gc ≤ at' s.fabric.folio then at' s.fabric.folio else at' (s.fabric.folio + 1)

/-- A partition holds armed entries (19 R386). -/
def State.holdsArmed (s : State) (p : Nat) : Bool := s.fabric.ents.any fun t => t.part == p && t.st == 1

/-- The folio of a step (20 R412). -/
def Plan.target (p : Plan) (epoch : Nat) (step : Nat) : Nat :=
  (-((((p.g0 : Int) - epoch) / p.p)) + step).toNat

/-- The first read point of an entry in its folio, or the folio's start. -/
def State.firstRead (s : State) (pl : Plan) (n p e : Nat) : Nat :=
  ((s.txSlots p e).map fun x => pl.readPoint n x.2.1 x.2.2.1).foldl
    (fun m r => match m with | none => some r | some k => some (min k r)) none |>.getD (pl.start n)

/-! ## Checks at arming (20 R409, 21 R435, R440, R441) -/

/-- Check group of a data position (20 R404). -/
def groupOf (i : Nat) : Nat := (i - 1) / 17

/-- Two entries may share a check group: both plaintext, or under one key slot (21 R435). -/
def sameKey (a b : Nat) : Bool := a == b || (decide (a < 128) && decide (b < 128))

/-- Every entry that shares a check group with the entry's slots stands under the same job key. -/
def State.groupsAgree (s : State) (p e lkey : Nat) : Bool :=
  (List.range 12).all fun n => [(s.port n).tx, (s.port n).rx].all fun tm =>
    (slotsOf tm p e).all fun x => tm.all fun y =>
      let u := tslot y.2
      !(y.1 / 256 == x.1 && y.1 % 256 != 0 && groupOf (y.1 % 256) == groupOf x.2.1 && u.kind != 0)
        || sameKey (s.entryWord u.part u.e).lkey lkey || (u.part == p && u.e == e)

/-- The switch-set record that an entry names (21 R439). -/
def State.switchSet (s : State) (p e : Nat) : BitVec 512 :=
  let q := s.part p
  BitVec.ofNat 512 (s.mem.word (q.ssbase.toNat + 64 * s.mem.word (q.rtbase.toNat + e) 1) 64)

/-- The mode of an entry, or none where it is malformed. -/
def State.chooseMode (s : State) (p e : Nat) (w : EWord) (n : Nat) : Option EMode :=
  if !w.isw then some .plain
  else if !w.isSealed then none
  else
    let r := (s.switchSet p e).toNat
    let cnt := fld r 128 5
    if fld r 133 27 != 0 || fld r 0 128 != 0 || decide (16 < cnt) then none
    else
      let m := if fld r 192 64 ≤ n then fld r 176 16 else fld r 160 16
      let fallback := (!w.contrib || (s.txSlots p e).any fun x => x.2.2.2.alt)
        && (!w.recv || (s.rxSlots p e).any fun x => x.2.2.2.alt)
      if m % 2 ^ cnt = 2 ^ cnt - 1 then some (if fallback then .both else .alone)
      else if fallback then some .ends else none

/-- The checks of R409. -/
def State.entryOk (s : State) (p e : Nat) (w : EWord) : Bool :=
  decide ((s.part p).ttbase.toNat + 64 * e + 64 ≤ s.mem.cap) && !w.reservedBad
    && decide (w.op ≤ 3) && decide (w.type ≤ 2) && !(w.op == 0 && (w.type != 0 || w.n != 1))
    && decide (1 ≤ w.nslots) && decide (w.nslots ≤ 128) && !(w.contrib && decide (w.n ≤ w.pos))
    && (w.contrib || w.recv) && (!w.contrib || w.src % 256 == 0) && (!w.recv || w.dst % 256 == 0)
    && (!w.contrib || (s.regionLoc p w.sspace w.sloc w.skey w.src w.bytes).isSome)
    && (!w.recv || (s.regionLoc p w.dspace w.dloc w.dkey w.dst w.bytes).isSome)
    && (!w.semen || match s.physCluster p w.semcl with | some c => s.owns c w.sem p | none => false)
    && ((s.txSlots p e ++ s.rxSlots p e).all fun x => isNode w.n x.2.2.2.lo x.2.2.2.hi && (w.isw || !x.2.2.2.alt))
    && s.groupsAgree p e w.lkey
    && (!w.isSealed || (s.fabric.jkeys.get none (w.lkey % 128)).isSome)

/-! ## Failing and finishing (20 R413 to R418) -/

/-- The policy of a partition lets an entry that has failed wait for the hold that its schedule fault brings, which arms it again
or records it (19 R385). A failure in a hold or in a replay folio is recorded at once. -/
def State.replays (s : State) (t : Tent) (reason : Nat) : Bool :=
  odd (s.part t.part).policy.toNat && decide (2 ≤ reason) && decide (reason ≤ 5) && !t.replay && s.fabric.hold.isNone

/-- Fail bit of an entry's semaphore (20 R415); an entry that was never armed stands in the table. -/
def State.semFail (s : State) (t : Tent) : State :=
  let w := t.word.getD (s.tableEntry t.part t.e)
  if w.semen then
    match s.physCluster t.part w.semcl with
    | some c => if s.owns c w.sem t.part then s.updSem c w.sem fun m => { m with fail := true } else s
    | none => s
  else s

/-- A failure with reason 2, 3, 4 or 5 fails its folio (20 R418). -/
def State.failFolio (s : State) (reason folio : Nat) : State :=
  if decide (2 ≤ reason) && decide (reason ≤ 5) then
    { s with fabric := { s.fabric with failed := (folio :: s.fabric.failed).eraseDups } }
  else s

/-- An entry fails with a reason in a folio: ready cleared, its semaphore marked, the folio failed (20 R417, R418). -/
def State.failEntryIn (s : State) (t : Tent) (reason folio : Nat) : State :=
  if t.st = 4 then s.failFolio reason folio
  else
    let keep := s.replays t reason
    let r := if t.replay && decide (2 ≤ reason) && decide (reason ≤ 5) then 8 else reason
    let s := s.setTent { t with st := 4, reason := r, ready := false, node := if keep then t.node else none }
    let s := s.updPart t.part fun q => { q with fails := q.fails ++ [s.gc] }
    let s := s.semFail t
    let s := s.failFolio reason folio
    if keep then s else s.collFails t reason folio

/-- An entry fails in the folio it is armed for, or in the one under way where that has passed. -/
def State.failEntry (s : State) (t : Tent) (reason : Nat) : State :=
  s.failEntryIn t reason (max t.folio s.fabric.folio)

/-- An entry is done (20 R414), with its report where the endpoint path supplied a root chunk (21 R442). -/
def State.finishEntry (s : State) (t : Tent) : State :=
  let s := s.setTent { t with st := 3, node := none }
  let s := if t.alts.isEmpty then s
    else s.report { (default : Ev) with
      code := 0x011B, part := some t.part, kind := 9, detail := [t.e, t.folio, t.alts.length] }
  s.collEntry t false

/-- The reason for which a path has failed for a chunk. -/
def Tent.pathBad (t : Tent) (alt : Bool) (c : Nat) : Option Nat :=
  (t.bad.find? fun b => b.1 == alt && (b.2.1 == none || b.2.1 == some c)).map fun b => b.2.2

/-- The reason for which an entry has failed, if it has (21 R442). -/
def Tent.lost (t : Tent) (w : EWord) : Option Nat :=
  let chunks := (List.range w.nslots).filter fun c => !t.written.contains c
  match t.mode with
  | .plain => chunks.findSome? fun c => t.pathBad false c
  | .ends => chunks.findSome? fun c => t.pathBad true c
  | .both => chunks.findSome? fun c => (t.pathBad false c).bind fun _ => t.pathBad true c
  | .alone => chunks.findSome? fun c => (t.pathBad false c).map fun _ => 5

/-- The path from which root chunk `c` is taken now. -/
def Tent.rootAlt (t : Tent) (c : Nat) : Bool :=
  match t.mode with
  | .plain | .alone => false
  | .ends => true
  | .both => (t.pathBad false c).isSome

/-- Root chunk `c`, as it can be taken now, with its flags. -/
def State.rootFrom (s : State) (t : Tent) (w : EWord) (c : Nat) : Option (List Byte × Fl) :=
  s.node t w (t.rootAlt c) c 0 (w.n - 1)

/-- The cluster of the destination, or that of the semaphore, is stalled as a unit (19 R355, 20 R414). -/
def State.destStalled (s : State) (p : Nat) (w : EWord) : Bool :=
  let stalled := fun k => match s.physCluster p k with
    | some c => (s.cluster c).frozen
    | none => false
  (w.dspace == 1 && stalled w.dloc) || (w.semen && stalled w.semcl)

/-- Semaphore of a root chunk (20 R415). -/
def State.semAdd (s : State) (p : Nat) (w : EWord) : State :=
  if w.semen then
    match s.physCluster p w.semcl with
    | some k => if s.owns k w.sem p then s.updSem k w.sem fun m => m.add 256 else s
    | none => s
  else s

/-- A root chunk waits for the granule that a sweep is moving: that of its destination, or of the contribution read for it. -/
def State.rootHeld (s : State) (t : Tent) (w : EWord) (c : Nat) : Bool :=
  s.ownHeld t w (t.rootAlt c) c 0 (w.n - 1) || s.chunkHeld t.part w.dspace w.dloc w.dkey w.dst w.bytes c

/-- One root chunk is written, when it can be; a write that may not be made fails the entry with reason 1 (R409). -/
def State.writeRoot (s : State) (p e c : Nat) : State :=
  let t := s.tent p e
  match t.word with
  | none => s
  | some w =>
    if t.st != 2 || t.written.contains c || s.destStalled p w || s.rootHeld t w c then s
    else
      let alt := t.rootAlt c
      match s.ownFails t w alt c 0 (w.n - 1), s.rootFrom t w c with
      | some r, _ => (s.readOwn t w alt c 0 (w.n - 1)).failEntry t r
      | none, none => s
      | none, some (data, fl) =>
        let s := s.readOwn t w alt c 0 (w.n - 1)
        match s.regionPlace p w.dspace w.dloc w.dkey w.dst w.bytes with
        | none => s.failEntry t 1
        | some l =>
          let at' := l.add (256 * c)
          let s := s.meets p at' 256 true
          let barred := match at' with | .pad k => s.liveBar k 256 | .main pa _ => decide (s.mem.cap < pa + 256)
          let t := s.tent p e
          if !s.regionHere p w.dspace w.dloc w.dst w.bytes || barred then s.failEntry t 1
          else
            let t := { t with
              written := c :: t.written, flags := t.flags ||| fl
              alts := if alt && t.mode == .both then c :: t.alts else t.alts }
            let s := (s.writeBytes at' data).setTent t
            (if t.written.length = w.nslots then s.finishEntry t else s).semAdd p w

/-- What follows every change of what an entry holds: root chunks written in ascending order, then the failure of both
paths. -/
def State.settleEntry (s : State) (p e : Nat) : State :=
  match (s.tent p e).word with
  | none => s
  | some w =>
    let s := if w.recv && (s.tent p e).st == 2 then (List.range w.nslots).foldl (fun s c => s.writeRoot p e c) s else s
    let t := s.tent p e
    if t.st = 1 ∨ t.st = 2 then
      match t.lost w with
      | some r => s.failEntry t r
      | none => s
    else s

/-- A path of an entry fails, for a chunk or for all. -/
def State.pathFails (s : State) (p e : Nat) (alt : Bool) (c : Option Nat) (reason : Nat) : State :=
  if (s.tent p e).st = 1 ∨ (s.tent p e).st = 2 then
    (s.updTent p e fun t => { t with bad := t.bad ++ [(alt, c, reason)] }).settleEntry p e
  else s

/-- Slots of a kind that the entry's mode leaves out (21 R441). -/
def Tent.leavesOut (t : Tent) (ts : TSlot) : Bool := (t.mode == .ends && !ts.alt) || (t.mode == .alone && ts.alt)

/-! ## Consuming a slot (20 R411, R414, R416) -/

/-- Flag and marker fields of a trailer, when folio, entry and node are those of the template. -/
def trailerOk (t : TSlot) (folio : Nat) (data : List Byte) : Option (Nat × Fl) :=
  let v := ofBytes data
  if fld v 112 16 = folio % 65536 ∧ fld v 100 12 = t.e ∧ fld v 86 14 = t.lo ∧ fld v 72 14 = t.hi
  then some (fld v 5 3, BitVec.ofNat 5 (v % 32)) else none

/-- A slot of a firing entry is consumed. A trailer is checked against the folio for which the entry was armed. -/
def State.consume (s : State) (ts : TSlot) (r : RxRec) : State :=
  let t := s.tent ts.part ts.e
  match t.word with
  | none => s
  | some w =>
    if t.leavesOut ts then s
    else if ts.trailer then
      match trailerOk ts t.folio r.data with
      | some (0, fl) => (s.setTent { t with trails := t.trails ++ [⟨ts.alt, ts.lo, ts.hi, fl⟩] }).settleEntry ts.part ts.e
      | some (2, _) =>
        (s.setTent { t with twos := if ts.alt then t.twos else t.twos ++ [(ts.lo, ts.hi)] }).pathFails ts.part ts.e ts.alt
          none 5
      | _ => s.pathFails ts.part ts.e ts.alt none 5
    else if ts.chunk < w.nslots then
      (s.setTent { t with got := t.got ++ [⟨ts.alt, ts.lo, ts.hi, ts.chunk, r.data⟩] }).settleEntry ts.part ts.e
    else s

/-- The template entry of a received slot. -/
def Port.rxAt (q : Port) (frame pos : Nat) : TSlot := tslot (q.rx.get 0 (256 * frame + pos))

/-- The slots of an entry leave every siding once it is firing. -/
def State.drain (s : State) (p e : Nat) : State :=
  (List.range 12).foldl (fun s n =>
    let q := s.port n
    let named := fun (r : RxRec) => (q.rxAt r.frame r.pos).names p e
    let mine := q.siding.filter named
    let s := s.updPort n fun q => { q with siding := q.siding.filter fun r => !named r }
    mine.foldl (fun s r => if (s.tent p e).st = 2 then s.consume (q.rxAt r.frame r.pos) r else s) s) s

/-- One lost slot of an entry that is armed or firing for the folio fails its path (20 R405). -/
def State.lossOf (s : State) (ts : TSlot) (folio : Nat) : State :=
  let t := s.tent ts.part ts.e
  if ts.kind = 0 ∨ t.folio ≠ folio ∨ t.leavesOut ts = true then s
  else s.pathFails ts.part ts.e ts.alt (if ts.trailer then none else some ts.chunk) 3

/-- Slots lost before the entry was armed for their folio. -/
def State.losses (s : State) (p e : Nat) : State :=
  (List.range 12).foldl (fun s n =>
    let q := s.port n
    (q.losses.filter fun x => (q.rxAt x.2.1 x.2.2).names p e).foldl (fun s x => s.lossOf (q.rxAt x.2.1 x.2.2) x.1) s) s

/-- The device is in hold in a folio, or will be as it begins, and the announced resume is not yet: no data slot is sent
(19 R385). -/
def State.inHold (s : State) (folio : Nat) : Bool :=
  let resumed := match s.fabric.resume with | some b => decide (b ≤ folio) | none => false
  match s.fabric.hold with
  | some h => decide (h ≤ folio) && !resumed
  | none => s.fabric.marks.any fun m => m.2 + 1 == s.fabric.folio && folio == m.2 + 2

/-! ## Arming and firing (20 R412, R413) -/

/-- The folio for which a step arms: in a hold, one before the announced resume moves to it (19 R385). -/
def State.armFolio (s : State) (pl : Plan) (p step : Nat) : Nat :=
  let n := pl.target (s.part p).epoch.toNat step
  match s.fabric.hold, s.fabric.resume with
  | some _, some b => max n b
  | _, _ => n

/-- An entry armed for a folio by a node of the marshal. -/
def State.armEntry (s : State) (p e step node : Nat) : State :=
  let t := s.tent p e
  if t.st = 1 ∨ t.st = 2 then s.collFails { t with node := some node } 6 t.folio
  else
    let w := s.tableEntry p e
    let t := { t with
      node := some node, got := [], trails := [], bad := [], twos := [], written := [], alts := [], flags := 0, reason := 0
      replay := false, own := [], unsent := [], word := some w }
    match s.fabric.plan with
    | none => s.failEntry { t with st := 1 } 1
    | some pl =>
      let n := s.armFolio pl p step
      match (if s.entryOk p e w then s.chooseMode p e w n else none) with
      | none => s.failEntry { t with st := 1, folio := n } 1
      | some m =>
        let t := { t with st := if w.contrib then 1 else 2, folio := n, mode := m }
        let s := s.setTent t
        if !w.contrib then ((s.drain p e).losses p e).settleEntry p e
        else if !(s.txSlots p e).isEmpty && !s.inHold n && decide (s.firstRead pl n p e < s.gc) then s.failEntry t 2
        else s.losses p e

/-- The first read point of an armed entry: it fires, or is missed. -/
def State.fire (s : State) (p e : Nat) : State :=
  let t := s.tent p e
  if t.st != 1 then s
  else if t.ready || t.replay then
    ((s.setTent { t with ready := false, st := 2 }).drain p e).settleEntry p e
  else s.failEntry t 2

def execEntryFire (part e : Nat) (s : State) : Out State Fault Refusal := .next (s.fire part e)

end Sys2Proof.Machine
end

