-- ==== Sys2Proof/Machine/Graph.lean ====
section
/-! DEFINITION. Graph code (18 R335 to R349): each node of a graph, as the marshal of the current partition issues it. -/

namespace Sys2Proof.Machine

/-! ## Issuing a node (18 R335, R336) -/

/-- The guard or branch test of a node; none where its condition word cannot be read. -/
def State.guard (s : State) (p : Nat) : Guard → Option Bool
  | .always => some true
  | .nz n => (s.cw p n).map fun v => v != 0
  | .z n => (s.cw p n).map fun v => v == 0

/-- Nodes of the graph have not yet committed. -/
def State.outstanding (s : State) (p : Nat) : Bool :=
  (s.part p).nodes.any fun n => decide ((s.part p).first ≤ n.phase)

/-- The next graph word is the one after this. -/
def State.gnext (s : State) (p : Nat) : State := s.updPart p fun q => { q with gpc := q.gpc + 8 }

/-- The word `off` words from this one. -/
def State.gto (s : State) (p : Nat) (off : BitVec 24) : State :=
  s.updPart p fun q => { q with gpc := q.gpc + (off.signExtend 64 <<< 3) }

/-- A node issues in this GC tick; a boundary opens a new phase. -/
def State.nodeIssues (s : State) (p : Nat) (boundary : Bool) : State :=
  s.updPart p fun q =>
    { q with
      lastIssue := some s.gc
      phase := if boundary then q.phase + 1 else q.phase
      deadline := if boundary then none else q.deadline }

/-- A node of the current partition: a boundary waits for the nodes before it; then the reserved-field fault (of the word,
or of what the partition bounds, 18 R337), the guard with its protection fault, and the act. -/
def gnodeIf (i : Instr) (g : Guard) (boundary : Bool) (ok : Nat → State → Bool) (act : Nat → State → State) (s : State) :
    Out State Fault Refusal :=
  let p := s.curPart.val
  .next (
    if boundary && s.outstanding p then s
    else if !(i.fieldsOk && ok p s) then s.gstop p 0x03 []
    else match s.guard p g with
      | none => s.gstop p 0x04 []
      | some b => if b then act p (s.nodeIssues p boundary) else (s.nodeIssues p boundary).gnext p)

/-- A node whose fields the partition does not bound. -/
def gnode (i : Instr) (g : Guard) (boundary : Bool) (act : Nat → State → State) (s : State) :
    Out State Fault Refusal :=
  gnodeIf i g boundary (fun _ _ => true) act s

/-- A branch: the test chooses, and skips nothing. -/
def gbranch (i : Instr) (g : Guard) (act : Nat → Bool → State → State) (s : State) : Out State Fault Refusal :=
  let p := s.curPart.val
  .next (
    if s.outstanding p then s
    else if !i.fieldsOk then s.gstop p 0x03 []
    else match s.guard p g with
      | none => s.gstop p 0x04 []
      | some b => act p b (s.nodeIssues p true))

/-- A node that has issued and not committed. -/
def State.addNode (s : State) (p : Nat) (kind : NodeKind) (sten : Bool) (cw : Fin 64) : State :=
  s.updPart p fun q =>
    { q with nodes := q.nodes ++ [⟨q.nextNode, kind, sten, cw, q.phase⟩], nextNode := q.nextNode + 1 }

/-! ## GLAUNCH (18 R338; 07 R154) -/

/-- The fields of a launch record. -/
def launchOf (x : Nat) : Launch :=
  { code := BitVec.ofNat 64 (fld x 0 64), startgc := BitVec.ofNat 64 (fld x 64 64)
    param := BitVec.ofNat 64 (fld x 128 64), handler := BitVec.ofNat 64 (fld x 192 64)
    bbudget := BitVec.ofNat 64 (fld x 256 64), gbudget := BitVec.ofNat 64 (fld x 320 64)
    gx := fld x 384 16, gy := fld x 400 16, gz := fld x 416 16, spill := fld x 432 16, entry := fld x 448 32
    waves := fld x 480 6, regs := fld x 486 9, barriers := fld x 495 6, tiles := fld x 501 5, pace := fld x 506 3
    team := fld x 509 3 + 1, spad := fld x 512 32, cpad := fld x 544 32, dpad := fld x 576 32
    winset := fld x 608 12, asid := fld x 620 13, part := fld x 633 3, ordered := odd (fld x 636 1)
    nparam := fld x 640 7 }

/-- The start GC: E is EPOCH as the node issues. -/
def startOf (rel : Bool) (epoch startgc : W64) : Nat := (if rel then epoch + startgc else startgc).toNat

/-- The grid of a GLAUNCH whose check has not run. -/
def State.newGrid (s : State) (p a : Nat) (rel : Bool) : Grid :=
  let l := launchOf (s.mem.word a 128)
  { gid := s.nextUid, part := p, node := (s.part p).nextNode, recAddr := a, rel := rel, phase := .check
    l := l, entry := 0, windows := [], params := [], pace := 1, budget := 0
    start := startOf rel (s.part p).epoch l.startgc, pkr := 0, mapgen := 0, next := 0
    blocks := l.gx * l.gy * l.gz, retired := 0, blockFault := none, closed := 0, saved := none, out := [], began := none }

def execGlaunch (g : Guard) (rel : Bool) (addr : BitVec 40) (sten : Bool) (cw : Fin 64) (s : State) :
    Out State Fault Refusal :=
  gnode (.glaunch g rel addr sten cw) g false (fun p s =>
    if s.inRegion p (128 * addr.toNat) 128 then
      let gr := s.newGrid p (128 * addr.toNat) rel
      (({ s with nextUid := s.nextUid + 1, grids := s.grids ++ [gr] }).addNode p (.launch gr.gid) sten cw).gnext p
    else s.gstop p 0x04 []) s

/-! ## GCOLL (18 R341) -/

def execGcoll (g : Guard) (first cntm1 : BitVec 12) (step : BitVec 16) (sten : Bool) (cw : Fin 64) (s : State) :
    Out State Fault Refusal :=
  gnodeIf (.gcoll g first cntm1 step sten cw) g false
    (fun p s => decide (first.toNat + cntm1.toNat + 1 ≤ (s.part p).ttsize)) (fun p s =>
    let es := (List.range (cntm1.toNat + 1)).map fun k => first.toNat + k
    let n := (s.part p).nextNode
    es.foldl (fun s e => s.armEntry p e step.toNat n) ((s.addNode p (.coll es false) sten cw).gnext p)) s

/-! ## Phases, branches and loops (18 R342 to R344) -/

def execGphase (g : Guard) (budget : BitVec 48) (s : State) : Out State Fault Refusal :=
  gnode (.gphase g budget) g true (fun p s =>
    (s.updPart p fun q =>
      { q with deadline := if budget = 0 then none else some (s.gc + budget.toNat) }).gnext p) s

def execGif (g : Guard) (t f : BitVec 24) (s : State) : Out State Fault Refusal :=
  gbranch (.gif g t f) g (fun p b s => s.gto p (if b then t else f)) s

/-- One pass of a loop: its counter counts on, within the bound and the 16 counters. -/
def State.loopPass (s : State) (p : Nat) (off bound : BitVec 24) : State :=
  let q := s.part p
  let c := ((q.loops.find? fun l => l.1 == q.gpc).map Prod.snd).getD 0
  let rest := q.loops.filter fun l => l.1 != q.gpc
  if 16 ≤ rest.length then s.gstop p 0x06 []
  else if bound.toNat < c + 1 then
    (s.updPart p fun q => { q with loops := rest ++ [(q.gpc, c + 1)] }).gstop p 0x06 []
  else (s.updPart p fun q => { q with loops := rest ++ [(q.gpc, c + 1)] }).gto p off

def execGwhile (g : Guard) (off bound : BitVec 24) (s : State) : Out State Fault Refusal :=
  gbranch (.gwhile g off bound) g (fun p b s =>
    if b then s.loopPass p off bound
    else (s.updPart p fun q => { q with loops := q.loops.filter fun l => l.1 != q.gpc }).gnext p) s

def execGjmp (g : Guard) (off : BitVec 24) (s : State) : Out State Fault Refusal :=
  gnode (.gjmp g off) g true (fun p s => s.gto p off) s

/-! ## Time and semaphores (18 R345 to R347) -/

/-- EPOCH takes the target, and the marshal waits for it unless it has passed. -/
def State.waitGc (s : State) (p : Nat) (target : W64) : State :=
  (s.updPart p fun q =>
    { q with epoch := target, waitgc := if target.toNat ≤ s.gc then none else some target.toNat }).gnext p

def execGwaitgc (g : Guard) (mode : GcMode) (s : State) : Out State Fault Refusal :=
  gnode (.gwaitgc g mode) g true (fun p s =>
    match mode with
    | .rel ticks => s.waitGc p ((s.part p).epoch + ticks.setWidth 64)
    | .cw n => match s.cw p n with
      | some v => s.waitGc p (BitVec.ofNat 64 v)
      | none => s.gstop p 0x04 []) s

def execGwaitsem (g : Guard) (threshold : W32) (cl : BitVec 5) (k : Fin 64) (s : State) : Out State Fault Refusal :=
  gnodeIf (.gwaitsem g threshold cl k) g false (fun p s => (s.physCluster p cl.toNat).isSome) (fun p s =>
    match s.physCluster p cl.toNat with
    | none => s
    | some c =>
      if s.owns c k.val p then (s.addNode p (.sem c k.val threshold) false 0).gnext p else s.gstop p 0x08 []) s

def execGsetc (g : Guard) (cw : Fin 64) (add : Bool) (value : W32) (s : State) : Out State Fault Refusal :=
  gnode (.gsetc g cw add value) g false (fun p s =>
    match (if add then s.cw p cw else some 0) with
    | none => s.gstop p 0x04 []
    | some old =>
      if s.inRegion p (s.cwAddr p cw) 8 then
        (s.setCw p cw (BitVec.ofNat 64 old + value.signExtend 64).toNat).gnext p
      else s.gstop p 0x04 []) s

/-! ## GSIG and GHALT (18 R348, R349) -/

def execGsig (g : Guard) (wait : Bool) (value : W32) (s : State) : Out State Fault Refusal :=
  gnode (.gsig g wait value) g false (fun p s =>
    let a := (s.part p).gpc
    let s := s.report (marshalEv 0x0111 p [p, a.toNat, value.toNat])
    (if wait then s.addNode p (.sig a none) false 0 else s).gnext p) s

def execGhalt (g : Guard) (code : W32) (s : State) : Out State Fault Refusal :=
  gnode (.ghalt g code) g true (fun p s =>
    ((s.updPart p fun q => { q with mstate := .idle }).gnext p).report
      (marshalEv 0x0112 p [((s.part p).tag).toNat, code.toNat])) s

/-! ## Words with no instruction (18 R334; 03 R65) -/

/-- Opcodes of boundary nodes. -/
def isBoundaryOp (op : Nat) : Bool := decide (0xC2 ≤ op) && decide (op ≤ 0xC6) || op == 0xCA

/-- Runs of opcodes that 03 R64 assigns to wave instructions, first and last. -/
def waveRuns : List (Nat × Nat) :=
  [(0x00, 0x3E), (0x40, 0x4C), (0x50, 0x5C), (0x60, 0x66), (0x70, 0x7A), (0x90, 0x99), (0xA0, 0xA4), (0xB0, 0xB7)]

/-- An opcode of a wave instruction. -/
def isWaveOp (op : Nat) : Bool := waveRuns.any fun r => decide (r.1 ≤ op) && decide (op ≤ r.2)

/-- The graph fault of a word that is no node, by the table of 03 R65 to which 18 R334 refers: wrong stream for a wave
instruction's opcode, illegal for one that is assigned to nothing (log 67), or a reserved field. -/
def graphFate (w : W64) : Nat :=
  let op := fld w.toNat 56 8
  if isWaveOp op then 0x02 else if op < 0xC0 || 0xCA < op then 0x01 else 0x03

def execIllegalGraphWord (w : W64) (s : State) : Out State Fault Refusal :=
  .next (
    let p := s.curPart.val
    if isBoundaryOp (fld w.toNat 56 8) && s.outstanding p then s else s.gstop p (graphFate w) [])

end Sys2Proof.Machine
end

