-- ==== Sys2Proof/Machine/Launch.lean ====
section
/-! DEFINITION. The launch check (03 R74 to R78, R473; 07 R154, R155; 11 R213 to R215; 18 R338, R339). -/

namespace Sys2Proof.Machine

/-! ## Window sets (11 R213 to R215) -/

/-- A window descriptor. -/
def windowOf (x : Nat) : Window :=
  { kind := fld x 176 2, x := odd (fld x 175 1), w := odd (fld x 174 1), r := odd (fld x 173 1), pkey := fld x 168 5
    enc := odd (fld x 167 1), keyidx := ⟨fld x 160 7 % 128, Nat.mod_lt _ (by decide)⟩, size := fld x 128 32
    ibase := fld x 64 64, vbase := fld x 0 64 }

/-- Reserved bits of a descriptor, with the low bits of its bases. -/
def windowReserved (x : Nat) : Bool := fld x 178 78 != 0 || fld x 64 16 != 0 || fld x 0 16 != 0

def Window.bytes (w : Window) : Nat := 65536 * w.size
def Window.enabled (w : Window) : Bool := w.size != 0

/-- Address of a window-set record. -/
def State.winsetAddr (s : State) (p winset : Nat) : Nat := (s.part p).wstbase.toNat + 512 * winset

/-- The 16 descriptors of a window set. -/
def State.winset (s : State) (p winset : Nat) : List Nat :=
  (List.range 16).map fun i => s.mem.word (s.winsetAddr p winset + 32 * i) 32

/-- A memory key slot is loaded. -/
def Mem.keyLoaded (m : Mem) (k : Fin 128) : Bool := (m.keys.get none k.val).isSome

/-- The tests of an enabled window on its own. -/
def Mem.windowOk (m : Mem) (w : Window) : Bool :=
  decide (w.vbase + w.bytes ≤ 2 ^ 64) && decide (w.ibase + w.bytes ≤ if w.kind = 1 then 2 ^ 43 else m.cap)
    && (!w.enc || m.keyLoaded w.keyidx)

def Window.overlaps (a b : Window) : Bool :=
  decide (a.vbase < b.vbase + b.bytes) && decide (b.vbase < a.vbase + a.bytes)

/-- No two of a list overlap. -/
def noneOverlap : List Window → Bool
  | [] => true
  | w :: ws => !(ws.any fun u => w.overlaps u) && noneOverlap ws

/-- Code 0x0A without its first part. -/
def State.windowsBad (s : State) (xs : List Nat) : Bool :=
  let ws := (xs.map windowOf).filter Window.enabled
  xs.any windowReserved || !noneOverlap ws || !ws.all s.mem.windowOk

/-! ## The code object (03 R74 to R77, R473) -/

/-- A byte of the object as the check reads it, through the lowest-numbered window that holds it (log 83). At or above CAP it is
what the store reads there, and in a poisoned atom the byte stored (log 115). -/
def State.objByte (s : State) (ws : List Window) (va : Nat) : Byte :=
  match ws.find? fun w => w.enabled && (w.kind == 0 || w.kind == 3) && w.r && w.holds va with
  | none => 0
  | some w =>
    if w.enc && !s.mem.keyLoaded w.keyidx then 0
    else (s.mem.readLoc (.main (w.ia va) w.slot) 1).headD 0

/-- A little-endian number of the object; addresses wrap. -/
def State.obj (s : State) (ws : List Window) (va n : Nat) : Nat :=
  ofBytes ((List.range n).map fun k => s.objByte ws ((va + k) % 2 ^ 64))

/-- A section: kind, align, offset and size. -/
structure Section where
  kind : Nat
  align : Nat
  off : Nat
  size : Nat
  deriving DecidableEq, Repr, Inhabited

/-- The object's header and sections. -/
structure Obj where
  base : Nat
  magic : Nat
  cver : Nat
  nsect : Nat
  secoff : Nat
  size : Nat
  secs : List Section
  deriving DecidableEq, Repr

def State.object (s : State) (ws : List Window) (a : Nat) : Obj :=
  let h := s.obj ws a 32
  let n := fld h 48 16
  { base := a, magic := fld h 0 32, cver := fld h 32 16, nsect := n, secoff := fld h 64 64, size := fld h 128 64
    secs := (List.range (min n 16)).map fun i =>
      let x := s.obj ws (a + fld h 64 64 + 32 * i) 32
      ⟨fld x 0 8, fld x 8 8, fld x 64 64, fld x 128 64⟩ }

/-- Two runs of bytes share one. -/
def runsMeet (a an b bn : Nat) : Bool := decide (a < b + bn) && decide (b < a + an) && an != 0 && bn != 0

/-- No two sections of a list overlap. -/
def secsApart : List Section → Bool
  | [] => true
  | x :: xs => !(xs.any fun y => runsMeet x.off x.size y.off y.size) && secsApart xs

/-- The first section of a kind, and how many there are. -/
def Obj.sec (o : Obj) (k : Nat) : Section := (o.secs.find? fun x => x.kind == k).getD default
def Obj.count (o : Obj) (k : Nat) : Nat := (o.secs.filter fun x => x.kind == k).length

/-- Condition 2 of R77. -/
def Obj.wellFormed (o : Obj) : Bool :=
  decide (2 ≤ o.nsect) && decide (o.nsect ≤ 16) && decide (o.secoff + 32 * o.nsect ≤ o.size) && o.secoff % 8 == 0
    && (o.secs.all fun x => x.off % 8 == 0 && decide (3 ≤ x.align) && decide (x.align ≤ 16) && decide (x.off + x.size ≤ o.size))
    && secsApart o.secs
    && (o.secs.all fun x => !runsMeet x.off x.size 0 32 && !runsMeet x.off x.size o.secoff (32 * o.nsect))
    && o.count 4 == 1 && (o.sec 4).size == 16 && o.count 5 == 1 && (o.sec 5).size == 32

/-- The resource note (03 R76). -/
structure Note where
  entry : Nat
  regs : Nat
  barriers : Nat
  tiles : Nat
  pace : Nat
  spill : Nat
  spad : Nat
  cpad : Nat
  dpad : Nat
  budget : Nat
  deriving DecidableEq, Repr

def noteOf (x : Nat) : Note :=
  ⟨fld x 0 32, fld x 32 16, fld x 48 8, fld x 56 5, fld x 61 3, fld x 64 32, fld x 96 32, fld x 128 32, fld x 160 32,
    fld x 192 64⟩

def State.noteAt (s : State) (ws : List Window) (o : Obj) : Note := noteOf (s.obj ws (o.base + (o.sec 5).off) 32)

/-- Ranges of R72 and R76. -/
def Note.inRange (n : Note) : Bool :=
  (n.pace == 1 || n.pace == 2 || n.pace == 4) && decide (n.tiles ≤ 16) && decide (1 ≤ n.barriers) && decide (n.barriers ≤ 32)
    && decide (16 ≤ n.regs) && decide (n.regs ≤ 256) && n.regs % 16 == 0 && decide (n.spill ≤ 1976) && n.spill % 8 == 0

/-- Entry offset in the first code section. -/
def entryOff (l : Launch) (n : Note) : Nat := if l.entry = 0 then n.entry else l.entry

/-- Condition 6 of R77. -/
def State.entryOk6 (s : State) (ws : List Window) (o : Obj) (e : Nat) : Bool :=
  decide (0 < o.count 1) && e % 8 == 0 && decide (e + 8 ≤ (o.sec 1).size)
    && fld (s.obj ws (o.base + (o.sec 1).off + e) 8) 58 6 == 63

/-- Conditions 1 to 7 of R77: the code of the first that fails. -/
def State.objectCode (s : State) (ws : List Window) (l : Launch) : Option Nat :=
  let o := s.object ws l.code.toNat
  let v := s.obj ws (o.base + (o.sec 4).off) 16
  let gen := fld v 0 8
  let req := fld v 8 8
  let floor := fld v 16 8
  let n := s.noteAt ws o
  if o.magic ≠ 0x4F344B49 ∨ o.cver ≠ 1 then some 0x01
  else if !o.wellFormed then some 0x02
  else if gen ≠ 1 then some 0x03
  else if ¬ (req ≤ 2 ∨ (floor ≠ 0 ∧ floor ≤ 2)) then some 0x04
  else if req = 0 ∨ req < floor ∨ n.inRange = false then some 0x05
  else if !s.entryOk6 ws o (entryOff l n) then some 0x06
  else if l.regs < n.regs ∨ l.spill < n.spill ∨ l.spad < n.spad ∨ l.cpad < n.cpad ∨ l.dpad < n.dpad
      ∨ l.barriers < n.barriers ∨ l.tiles < n.tiles then some 0x07
  else none

/-! ## The launch record (07 R154, R155) -/

/-- Ranges of R154, with the record's reserved bits. -/
def Launch.inRange (l : Launch) (x : Nat) : Bool :=
  fld x 647 377 == 0 && fld x 637 3 == 0 && decide (l.nparam ≤ 64) && l.dpad % 512 == 0 && decide (l.dpad ≤ 67108864)
    && l.cpad % 512 == 0 && l.spad % 256 == 0 && (l.pace == 0 || l.pace == 1 || l.pace == 2 || l.pace == 4)
    && decide (l.tiles ≤ 16) && decide (1 ≤ l.barriers) && decide (l.barriers ≤ 32) && decide (16 ≤ l.regs)
    && decide (l.regs ≤ 256) && l.regs % 16 == 0 && decide (1 ≤ l.waves) && decide (l.waves ≤ 36)
    && decide (l.spill ≤ 1976) && l.spill % 8 == 0 && l.gx != 0 && l.gy != 0 && l.gz != 0
    && l.param.toNat % 4 == 0 && l.handler.toNat % 8 == 0

/-- Code 0x09: one block fits an empty cluster, and T clusters of the partition lie on one die. -/
def State.blockFits (s : State) (p : Nat) (l : Launch) : Bool :=
  decide (l.cpad + 16 * l.barriers ≤ 8388608) && decide (l.spad + 32 * l.spill * ((l.waves + 5) / 6) ≤ 262144)
    && (List.range 4).any fun d => decide (l.team ≤ ((s.part p).clusters.filter fun c => c / 8 == d).length)

/-- Code 0x0C: the window of the parameter block. -/
def paramWindow (ws : List Window) (l : Launch) : Option Window :=
  ws.find? fun w => w.enabled && (w.kind == 0 || w.kind == 3) && w.r && w.holds l.param.toNat
    && decide (l.param.toNat + 4 * l.nparam ≤ w.vbase + w.bytes)

/-- The launch check of a grid: the code of a refusal (R473 puts the first part of 0x0A ahead). -/
def State.launchCode (s : State) (g : Grid) : Option Nat :=
  let l := g.l
  let xs := s.winset g.part l.winset
  let ws := xs.map windowOf
  if s.mem.cap < s.winsetAddr g.part l.winset + 512 then some 0x0A
  else match s.objectCode ws l with
    | some c => some c
    | none =>
      if !l.inRange (s.mem.word g.recAddr 128) then some 0x08
      else if !s.blockFits g.part l then some 0x09
      else if s.windowsBad xs then some 0x0A
      else if l.part ≠ g.part ∨ (match s.asid l.asid with | some a => a.part.val == g.part | none => false) = false then some 0x0B
      else if l.nparam ≠ 0 ∧ (paramWindow ws l).isNone then some 0x0C
      else if s.fabric.agreed = false ∧ g.start ≠ 0 then some 0x0D
      else none

/-- The parameter words, copied once (07 R156). -/
def State.paramWords (s : State) (ws : List Window) (l : Launch) : List W32 :=
  match paramWindow ws l with
  | some w => (List.range l.nparam).map fun k =>
      BitVec.ofNat 32 (s.readLoc (.main (w.ia (l.param.toNat + 4 * k)) w.slot) 4)
  | none => []

/-- A grid that passes its check: its context is created. -/
def State.context (s : State) (g : Grid) : Grid :=
  let ws := (s.winset g.part g.l.winset).map windowOf
  let o := s.object ws g.l.code.toNat
  let n := s.noteAt ws o
  { g with
    phase := .run, mapgen := 0, windows := ws, params := s.paramWords ws g.l
    entry := BitVec.ofNat 64 (o.base + (o.sec 1).off + entryOff g.l n), pace := max n.pace g.l.pace
    budget := if g.l.bbudget = 0 then n.budget else g.l.bbudget.toNat }

/-- The launch check of a partition's first grid that waits for it. -/
def State.launchCheck (s : State) (p : Nat) : State :=
  match s.grids.find? fun g => g.part == p && g.phase == .check with
  | none => s
  | some g =>
    match s.launchCode g with
    | some c => (s.updGrid g.gid fun g => { g with phase := .refused c }).settleGrid g.gid
    | none => s.updGrid g.gid fun _ => s.context g

def execLaunchCheck (part : Nat) (s : State) : Out State Fault Refusal := .next (s.launchCheck part)

end Sys2Proof.Machine
end

