-- ==== Sys2Proof/Machine/Ptp.lean ====
section
/-! DEFINITION. The discipline of the GC by IEEE 1588 (20 R396 to R398): the messages of a port, and what a received one does.
Message layouts are those of IEEE 1588-2019 (log 101). -/

namespace Sys2Proof.Machine

/-! ## Ports -/

/-- PTP port `n`: a fabric port, or the management port. -/
def State.ptpPort (s : State) (n : Nat) : PtpPort := if n < 12 then (s.port n).ptp else s.fabric.mgmt

def State.updPtp (s : State) (n : Nat) (f : PtpPort → PtpPort) : State :=
  if n < 12 then s.updPort n fun q => { q with ptp := f q.ptp }
  else { s with fabric := { s.fabric with mgmt := f s.fabric.mgmt } }

/-- The device is the pod's time master: its configured grandmaster, with no port in the slave state (R397). -/
def Fabric.isMaster (f : Fabric) : Bool :=
  f.master && f.mgmt.role != .slave && f.ports.toList.all fun q => q.ptp.role != .slave

/-! ## Messages -/

/-- Source port identity: the clock identity, which is the device identifier (R398), and the port number from 1 on. -/
def State.portIdentity (s : State) (n : Nat) : Nat := s.flash.devid.toNat * 2 ^ 16 + min n 12 + 1

/-- A message: header and body, each byte in its place, zero-padded. -/
def ptpBytes (kind len domain corr identity seq : Nat) (body : List Nat) : BitVec 512 :=
  BitVec.ofNat 512 (leNat ([kind, 0x12] ++ beBytes 2 len ++ [domain, 0, 0, 0] ++ beBytes 8 corr ++ [0, 0, 0, 0]
    ++ beBytes 10 identity ++ beBytes 2 seq ++ [if kind = 0 then 0 else 5, 0x7F] ++ body))

/-- A PTP timestamp of a GC value: seconds and nanoseconds (R395: the GC counts nanoseconds). -/
def stampBytes (g : Nat) : List Nat := beBytes 6 (g / 1000000000) ++ beBytes 4 (g % 1000000000)

def State.syncMsg (s : State) (n : Nat) : BitVec 512 :=
  ptpBytes 0 44 s.flash.domain 0 (s.portIdentity n) (s.ptpPort n).seq (stampBytes s.gc)

def State.delayReq (s : State) (n : Nat) : BitVec 512 :=
  ptpBytes 2 54 s.flash.domain 0 (s.portIdentity n) (s.ptpPort n).seq (stampBytes s.gc ++ List.replicate 10 0)

/-- A one-step answer: its correction holds the time between the arrival of the request and now. -/
def State.delayResp (s : State) (n who seq at' : Nat) : BitVec 512 :=
  ptpBytes 3 54 s.flash.domain ((s.gc - at') * 2 ^ 16) (s.portIdentity n) seq (List.replicate 10 0 ++ beBytes 10 who)

/-- What a port sends now: the answer to a request, or, as its turn `k` has it, a Sync of a master port or a request. -/
def State.ptpSend (s : State) (n k : Nat) : State × BitVec 512 :=
  let q := s.ptpPort n
  match q.resp with
  | some (who, seq, at') => (s.updPtp n fun q => { q with resp := none }, s.delayResp n who seq at')
  | none =>
    if k = 0 && q.role == .master && (s.fabric.agreed || s.fabric.isMaster) then
      let t := s.updPtp n fun q => { q with seq := (q.seq + 1) % 65536 }
      (if s.fabric.isMaster then { t with fabric := { t.fabric with synced := some s.gc } } else t, s.syncMsg n)
    else if k = 1 then
      (s.updPtp n fun q => { q with req := some (q.seq, s.gc), seq := (q.seq + 1) % 65536 }, s.delayReq n)
    else (s, 0)

/-! ## Arrivals -/

/-- Bytes `at'` to `at' + n - 1` of a message as a big-endian number. -/
def ptpField (m : BitVec 512) (at' n : Nat) : Nat := beNat ((leBytes 64 m.toNat).drop at' |>.take n)

/-- Nanoseconds of a timestamp at byte 34, and of the correction field, which counts 2^-16 ns, signed. -/
def ptpStamp (m : BitVec 512) : Nat := ptpField m 34 6 * 1000000000 + ptpField m 40 4
def ptpCorr (m : BitVec 512) : Int := (BitVec.ofNat 64 (ptpField m 8 8)).toInt / 65536

/-- The counter goes on from its present value at a rate. -/
def State.slew (s : State) (ppm : Int) : State := { s with gcVal := s.gc, gcAt := s.now, gcRate := ppm }

/-- An estimate of the master's time less the GC: the one forward step at first agreement, and afterwards a rate
correction of at most 200 ppm toward the master (R397; log 24). -/
def State.discipline (s : State) (offset : Int) : State :=
  if s.fabric.agreed then
    ({ s with fabric := { s.fabric with offset := offset } }).slew (max (-200) (min 200 offset))
  else
    let s := s.slew 0
    { s with gcVal := s.gcVal + offset.toNat, fabric := { s.fabric with agreed := true, offset := min offset 0 } }

/-- A Sync at a slave port: it has arrived, and with the delay of its link known it gives an estimate. -/
def State.syncIn (s : State) (n : Nat) (m : BitVec 512) : State :=
  if (s.ptpPort n).role != .slave then s
  else
    let s := { s with fabric := { s.fabric with synced := some s.gc } }
    match (s.ptpPort n).delay with
    | some d =>
      let u := s.discipline (ptpStamp m + ptpCorr m + d - s.gc)
      { u with fabric := { u.fabric with synced := some u.gc } }
    | none => s

/-- A PTP message at a port; one of another version or domain is ignored. -/
def State.ptpIn (s : State) (n : Nat) (m : BitVec 512) : State :=
  if ptpField m 1 1 % 16 ≠ 2 ∨ ptpField m 4 1 ≠ s.flash.domain then s
  else match ptpField m 0 1 % 16 with
    | 0 => s.syncIn n m
    | 2 => s.updPtp n fun q => { q with resp := some (ptpField m 20 10, ptpField m 30 2, s.gc) }
    | 3 => match (s.ptpPort n).req with
      | some (seq, at') =>
        if ptpField m 30 2 = seq ∧ ptpField m 44 10 = s.portIdentity n then
          s.updPtp n fun q => { q with req := none, delay := some (((s.gc - at' : Int) - ptpCorr m) / 2) }
        else s
      | none => s
    | _ => s

/-- The management port sends as its turn has it: at each boundary of a folio (log 101). -/
def State.mgmtSend (s : State) (k : Nat) : State :=
  let (s, m) := s.ptpSend 12 k
  if m = 0 then s else { s with fabric := { s.fabric with mgmtSent := some m } }

/-- A message at a port, the management port among them, whose answers go at once; or a configuration by host software. -/
def execPtpMessage (port : Nat) (msg : PtpMsg) (s : State) : Out State Fault Refusal :=
  .next (match msg with
    | .frame m => if port < 12 then s.ptpIn port m else (s.ptpIn port m).mgmtSend 2
    | .role r => s.updPtp port fun q => { q with role := r }
    | .grandmaster b => { s with fabric := { s.fabric with master := b } })

end Sys2Proof.Machine
end

