-- ==== Sys2Proof/Machine/Link.lean ====
section
/-! DEFINITION. Slots on a fabric port: transmit reads, sync, tag and retry slots, their checks and arrivals (20 R399 to
R407, R413, R414, R416; 21 R435 to R438, R443). -/

namespace Sys2Proof.Machine

/-! ## Checks (20 R403, R404) -/

/-- One step of CRC-64/ECMA-182: one bit. -/
def crcBit (c : Nat) : Nat := if 2 ^ 63 ≤ c then (2 * c) % 2 ^ 64 ^^^ 0x42F0E1EBA9EA3693 else 2 * c

/-- CRC-64/ECMA-182 of bytes in ascending order. -/
def crc64 (bs : List Nat) : Nat :=
  bs.foldl (fun c b => (List.range 8).foldl (fun c _ => crcBit c) (c ^^^ (b * 2 ^ 56))) 0

/-- Data positions of a check group. -/
def groupPos (g : Nat) : List Nat := (List.range 17).map fun j => 17 * g + 1 + j

/-- A slot as sent, zeros where nothing was. -/
def Port.sent (q : Port) (folio frame pos : Nat) : List Byte :=
  ((q.out.find? fun x => x.folio == folio && x.frame == frame && x.pos == pos).map TxSlot.data).getD zeroSlot

def Port.send (q : Port) (folio frame pos : Nat) (data : List Byte) : Port :=
  { q with out := ⟨folio, frame, pos, data⟩ :: q.out.filter fun x => !(x.folio == folio && x.frame == frame && x.pos == pos) }

/-- The job key slot under which a group's slots stand (21 R435). -/
def State.groupKey (s : State) (tm : Cells W64) (frame g : Nat) : Option Nat :=
  (groupPos g).findSome? fun i =>
    let t := tslot (tm.get 0 (256 * frame + i))
    if t.kind != 0 && (s.entryWord t.part t.e).isSealed then some ((s.entryWord t.part t.e).lkey % 128) else none

/-- Origin word and IV of a sealed group (21 R436). -/
def originOf (unit port g frame : Nat) : Nat := unit * 2 ^ 16 + port % 16 * 2 ^ 12 + g * 2 ^ 8 + frame
def ivOf (origin span : Nat) : Nat :=
  beNat (beBytes 2 (fld origin 16 16) ++ [fld origin 12 4 * 16 + fld origin 8 4, fld origin 0 8] ++ beBytes 8 span)

def State.jkey (s : State) (k : Nat) : Option (List Nat) :=
  (s.fabric.jkeys.get none k).map fun x => leBytes 32 x.1.toNat

/-- Check group of plaintext: the CRC, and zeros. -/
def plainCheck (bs : List Byte) : List Byte := toBytes 16 (crc64 (bytesNat bs))

/-! ## Sending -/

/-- The 256 bytes of a trailer slot (20 R411). -/
def trailerBytes (folio e lo hi marker : Nat) (fl : Fl) : List Byte :=
  toBytes 256 (folio % 65536 * 2 ^ 112 + e * 2 ^ 100 + lo * 2 ^ 86 + hi * 2 ^ 72 + marker * 2 ^ 5 + fl.toNat)

/-- Flags of a whole node, when every chunk of it is held. -/
def State.nodeFlags (s : State) (t : Tent) (w : EWord) (alt : Bool) (lo hi : Nat) : Option Fl :=
  ((List.range w.nslots).map fun c => s.node t w alt c lo hi).foldl
    (fun f x => match f, x with | some f, some y => some (f ||| y.2) | _, _ => none) (some 0)

/-- Marker of a trailer whose node is not held: 2 where a child of the in-switch path carried it (21 R443), else 1. -/
def Tent.marker (t : Tent) (ts : TSlot) : Nat :=
  if !ts.alt && t.twos.any fun r => decide (ts.lo ≤ r.1) && decide (r.2 ≤ ts.hi) then 2 else 1

/-- A transmit slot of a folio is read. A slot that carries the device's own contribution reads it each time; another node is made
from what is held (20 R410, R413). A read of the granule that a sweep is moving waits (12 R251). -/
def State.txSlot (s : State) (n folio frame pos : Nat) : State :=
  let q := s.port n
  let ts := tslot (q.tx.get 0 (256 * frame + pos))
  let t := s.tent ts.part ts.e
  let t := if ts.lo = ts.hi ∧ ts.trailer = false then
      { t with own := t.own.filter fun x => !(x.1 == ts.alt && x.2.1 == ts.chunk) } else t
  match t.word with
  | none => s
  | some w =>
    if !q.trained || s.inHold folio || ts.kind == 0 || t.folio != folio || t.st ≤ 1 || t.leavesOut ts then s
    else
      let put := fun (s : State) (d : List Byte) => s.updPort n fun q => q.send folio frame pos d
      let failed := fun (s : State) =>
        if ts.trailer then put s (trailerBytes folio ts.e ts.lo ts.hi (t.marker ts) 0) else s
      let lost := fun (s : State) (c : Nat) =>
        let s := s.updTent ts.part ts.e fun t => { t with unsent := (ts.alt, ts.lo, ts.hi) :: t.unsent }
        match s.ownFails t w ts.alt c ts.lo ts.hi with
        | some 1 => s.failEntry (s.tent ts.part ts.e) 1
        | _ => s.pathFails ts.part ts.e ts.alt none 5
      if t.st = 4 ∨ (ts.trailer = true ∧ t.unsent.contains (ts.alt, ts.lo, ts.hi) = true) then failed s
      else if ts.trailer then
        match s.nodeFlags t w ts.alt ts.lo ts.hi with
        | some fl =>
          put (s.setTent { t with flags := if w.recv then t.flags else t.flags ||| fl })
            (trailerBytes folio ts.e ts.lo ts.hi 0 fl)
        | none => failed (lost s 0)
      else if s.ownHeld t w ts.alt ts.chunk ts.lo ts.hi then
        s.updPort n fun q => { q with held := q.held ++ [(folio, 256 * frame + pos)] }
      else
        let s := (s.setTent t).readOwn t w ts.alt ts.chunk ts.lo ts.hi
        match s.node t w ts.alt ts.chunk ts.lo ts.hi with
        | some x => put s x.1
        | none => failed (lost s ts.chunk)

/-- A transmit slot at its read point. -/
def State.txRead (s : State) (n frame pos : Nat) : State :=
  let folio := (s.port n).dataAt.1
  (s.updPort n fun q => { q with dataAt := (folio, 256 * frame + pos + 1) }).txSlot n folio frame pos

/-- A transmit read that has waited for a sweep is made, unless it has to wait again. -/
def State.heldRead (s : State) (n : Nat) : State :=
  match (s.port n).held with
  | (folio, k) :: rest => (s.updPort n fun q => { q with held := rest }).txSlot n folio (k / 256) (k % 256)
  | [] => s

def execTransmitSlotRead (port frame pos : Nat) (s : State) : Out State Fault Refusal := .next (s.txRead port frame pos)

/-- One data group closed for its tag slot: sealed in place under its key, or left plain; its check. -/
def State.closeGroup (s : State) (n folio frame g : Nat) : State × List Byte :=
  let q := s.port n
  let text := (groupPos g).flatMap fun i => q.sent folio frame i
  match (s.groupKey q.tx frame g).bind s.jkey with
  | none => (s, plainCheck text)
  | some key =>
    let o := originOf s.flash.devid.toNat n g frame
    let iv := ivOf o folio
    let c := gcmCrypt key iv (bytesNat text)
    let tag := gcmTag key iv (leBytes 4 o) c
    let q := (groupPos g).zipIdx.foldl (fun q x =>
      q.send folio frame x.1 (natBytes ((c.drop (256 * x.2)).take 256))) q
    (s.updPort n fun _ => q, natBytes (leBytes 4 o ++ tag.take 12))

def State.closeGroups (s : State) (n folio frame : Nat) : List Nat → State × List Byte
  | [] => (s, [])
  | g :: gs =>
    let (s, c) := s.closeGroup n folio frame g
    let (s, cs) := s.closeGroups n folio frame gs
    (s, c ++ cs)

/-- Retry positions that a check group covers: of a frame, or in the closing sequence. -/
def retryPos (j : Nat) : List Nat := [257 + 3 * j, 258 + 3 * j, 259 + 3 * j]

def Port.retryBytes (q : Port) (folio frame j : Nat) : List Byte := (retryPos j).flatMap fun i => q.sent folio frame i

/-- A data slot is lost: its path fails at the receiver with reason 3 (20 R405), at once or when its entry is armed for the
folio. -/
def State.slotLost (s : State) (n folio frame pos : Nat) : State :=
  (s.updPort n fun q => { q with losses := (folio, frame, pos) :: q.losses }).lossOf ((s.port n).rxAt frame pos) folio

/-- A port that has failed training carries nothing: what it was to receive in a frame is lost (20 R399; log 98). -/
def State.frameLost (s : State) (n folio frame : Nat) : State :=
  if (s.port n).trained then s
  else (((s.port n).rx.filter fun x => x.1 / 256 == frame && x.1 % 256 != 0 && (tslot x.2).kind != 0).map fun x => x.1 % 256).foldl
    (fun s pos => s.slotLost n folio frame pos) s

/-- A port sends a slot, unless it has failed training: it then carries nothing (20 R399). -/
def Port.put (q : Port) (folio frame pos : Nat) (data : List Byte) : Port :=
  if q.trained then q.send folio frame pos data else q

/-- The tag slot of a frame, or the closing tag (20 R404). The frames of a held folio carry sync slots alone (19 R385). -/
def State.tagSend (s : State) (n frame : Nat) : State :=
  match s.fabric.plan with
  | none => s
  | some pl =>
    let folio := (s.port n).ctlAt.1
    if frame < pl.f ∧ s.inHold folio = true then s.updPort n fun q => { q with ctlAt := (folio, 3 * frame + 2) }
    else if frame < pl.f then
      let (s, cs) := s.closeGroups n folio frame (List.range 15)
      let r := if frame = 0 then plainCheck (List.replicate 768 0) else plainCheck ((s.port n).retryBytes folio (frame - 1) 0)
      (s.updPort n fun q => { (q.put folio frame 256 (cs ++ r)) with ctlAt := (folio, 3 * frame + 2) }).frameLost n folio frame
    else
      let q := s.port n
      let cs := List.replicate 208 0 ++ plainCheck (q.retryBytes folio pl.f 1) ++ plainCheck (q.retryBytes folio pl.f 2)
        ++ plainCheck (q.retryBytes folio (pl.f - 1) 0)
      s.updPort n fun q => { (q.put folio pl.f 256 cs) with
        ctlAt := (folio + 1, 0), out := q.out.filter fun x => decide (folio < x.folio) }

def execTagSlotSend (port frame : Nat) (s : State) : Out State Fault Refusal := .next (s.tagSend port frame)

/-- The frame whose requests a sync slot carries and whose resends a set of retry slots carries: two before, with the
closing slots F and F + 1 for F - 2 and F - 1 (20 R405). -/
def askFrame (frame : Nat) : Option Nat := if 2 ≤ frame then some (frame - 2) else none

def asksOf (l : List (Nat × List Nat)) (frame : Nat) : List Nat :=
  match askFrame frame with
  | some k => ((l.find? fun x => x.1 == k).map Prod.snd).getD []
  | none => []

/-- The sync slot (20 R403). -/
def syncBytes (rpos : List Nat) (mark : Option (Nat × Nat)) (ptp : BitVec 512) : List Byte :=
  let r := (rpos.take 3).zipIdx.foldl (fun v x => v + x.1 % 256 * 2 ^ (528 - 8 * x.2)) 0
  let m := match mark with
    | some (d, f) => d * 2 ^ 640 + 2 ^ 639 + f % 2 ^ 63 * 2 ^ 576
    | none => 0
  let body := toBytes 248 (m + min rpos.length 3 * 2 ^ 536 + r + ptp.toNat)
  body ++ toBytes 8 (crc64 (bytesNat body))

/-- The PTP message of a sync slot: one that the environment gives the instance to send, or what the port has to send. A
Sync of the time master counts for 20 R397. -/
def State.ptpOut (s : State) (n frame : Nat) (ptp : BitVec 512) : State × BitVec 512 :=
  if !(s.port n).trained then (s, 0)
  else if ptp = 0 then s.ptpSend n frame
  else (if s.fabric.isMaster && ptpField ptp 0 1 % 16 == 0 then { s with fabric := { s.fabric with synced := some s.gc } } else s, ptp)

/-- The marker of a sync slot: one to forward, or that of a fault which the device has raised for the folio before (19 R384; log
122). -/
def State.markOut (s : State) (q : Port) (folio : Nat) : Option (Nat × Nat) :=
  q.mark.head?.orElse fun _ => s.fabric.marks.find? fun m => m.1 == s.flash.devid.toNat && m.2 + 1 == folio

/-- A sync slot goes out: of a frame below F, or closing slot F or F + 1 (20 R396, R403). -/
def State.syncSend (s : State) (n frame : Nat) (ptp : BitVec 512) : State :=
  match s.fabric.plan with
  | none => s
  | some pl =>
    let (s, ptp) := s.ptpOut n frame ptp
    let q := s.port n
    let folio := q.ctlAt.1
    let next := if frame < pl.f then 3 * frame + 1 else 3 * pl.f + 1 + (frame - pl.f)
    s.updPort n fun q =>
      { (q.put folio (min frame pl.f) (if frame = pl.f + 1 then 266 else 0)
          (syncBytes (asksOf q.asks frame) (s.markOut q folio) ptp)) with
        mark := if q.trained then q.mark.tail else q.mark, ctlAt := (folio, next) }

def execSyncSlotSend (port frame : Nat) (ptp : BitVec 512) (s : State) : Out State Fault Refusal :=
  .next (s.syncSend port frame ptp)

/-- The last frame in which an entry sends on a port. -/
def lastFrame (tm : Cells W64) (p e : Nat) : Nat := (slotsOf tm p e).foldl (fun m x => max m (x.1 + 1)) 0

/-- Entries that only send are done once their last slots, with any retry of them, have gone (20 R414). -/
def State.sentDone (s : State) (folio : Nat) : State :=
  s.fabric.ents.foldl (fun s t =>
    let t := s.tent t.part t.e
    match t.word with
    | some w =>
      let ovr := (List.range 12).all fun n =>
        let q := s.port n
        let k := lastFrame q.tx t.part t.e
        k == 0 || !q.trained || decide (folio < q.ctlAt.1) || (q.ctlAt.1 == folio && match s.fabric.plan with
          | some pl => decide ((if k + 1 < pl.f then 3 * (k + 2) else 3 * pl.f + 3 + (k + 1 - pl.f)) ≤ q.ctlAt.2)
          | none => true)
      if t.st == 2 && !w.recv && t.folio == folio && ovr then s.finishEntry t else s
    | none => s) s

/-- The retry slots of a frame, or of the closing slots F and F + 1, resend what was asked for (20 R405). -/
def State.retrySend (s : State) (n frame : Nat) : State :=
  match s.fabric.plan with
  | none => s
  | some pl =>
    let folio := (s.port n).ctlAt.1
    let j := if frame < pl.f then 0 else 1 + (frame - pl.f)
    let next := if frame < pl.f then 3 * (frame + 1) else 3 * pl.f + 3 + (frame - pl.f)
    let s := s.updPort n fun q =>
      let asked := if s.inHold folio then [] else (asksOf q.asked frame).take 3
      let q := asked.zipIdx.foldl (fun q x =>
        q.put folio (min frame pl.f) (257 + 3 * j + x.2) (q.sent folio (frame - 2) x.1)) q
      { q with ctlAt := (folio, next) }
    s.sentDone folio

def execRetrySlotSend (port frame : Nat) (s : State) : Out State Fault Refusal := .next (s.retrySend port frame)

/-! ## Arrivals -/

/-- A data slot has passed its check: it is handled in the next GC tick (20 R414). -/
def State.slotPass (s : State) (n folio frame pos : Nat) (data : List Byte) : State :=
  if ((s.port n).rxAt frame pos).kind = 0 then s
  else s.updPort n fun q => { q with arrived := q.arrived ++ [(s.gcTime (s.gc + 1), ⟨folio, frame, pos, data⟩)] }

/-- What a sealed group holds in plain, when its check passes: opened under its key, or the trailers of a group whose sealer
has not joined (21 R436, R443). -/
def State.openGroup (s : State) (n folio frame g key : Nat) (check : List Byte) (slots : List (Nat × List Byte)) :
    Option (List (Nat × List Byte)) :=
  let text := (groupPos g).flatMap fun i => ((slots.find? fun x => x.1 == i).map Prod.snd).getD zeroSlot
  let o := ofBytes (check.take 4)
  let notJoined := check == plainCheck text && slots.all fun x =>
    let ts := (s.port n).rxAt frame x.1
    if ts.trailer then fld (ofBytes x.2) 5 3 == 2 else x.2.all fun b => b == 0
  if notJoined then some (slots.filter fun x => ((s.port n).rxAt frame x.1).trailer)
  else match s.jkey key with
    | none => none
    | some k =>
      let iv := ivOf o folio
      if natBytes ((gcmTag k iv (leBytes 4 o) (bytesNat text)).take 12) == check.drop 4 then
        let plain := natBytes (gcmCrypt k iv (bytesNat text))
        some ((groupPos g).zipIdx.map fun x => (x.1, (plain.drop (256 * x.2)).take 256))
      else none

/-- One group of a frame: slots that pass, positions that fail, and a sealed group kept for its retries. Under an uncorrectable tag
slot it is kept without a check that it could pass (21 R437). -/
def State.checkGroup (s : State) (n folio frame g : Nat) (tagBad : Bool) (tag : List Byte) (slots : List RxSlot) :
    List (Nat × List Byte) × List Nat × Option RxGroup :=
  let q := s.port n
  let here := (groupPos g).map fun i => (slots.find? fun x => x.pos == i).getD ⟨i, true, zeroSlot⟩
  let named := fun i => (q.rxAt frame i).kind != 0
  let check := (tag.drop (16 * g)).take 16
  let bads := (here.filter fun x => x.bad && named x.pos).map RxSlot.pos
  let all := (here.filter fun x => named x.pos).map RxSlot.pos
  let data := here.map fun x => (x.pos, x.bytes)
  match s.groupKey q.rx frame g with
    | none =>
      if tagBad then ([], all, none)
      else if check == plainCheck (here.flatMap RxSlot.bytes) then (data.filter fun x => !bads.contains x.1, bads, none)
      else ([], all, none)
    | some key =>
      if tagBad then ([], all, some ⟨frame, g, [], data, all, true⟩)
      else if bads.isEmpty then
        match s.openGroup n folio frame g key check data with
        | some d => (d, [], none)
        | none => ([], all, some ⟨frame, g, check, data, all, true⟩)
      else ([], all, some ⟨frame, g, check, data, all, true⟩)

/-- A sealed group whose slots are all back is checked again (21 R437). -/
def State.recheck (s : State) (n folio : Nat) (g : RxGroup) : State :=
  let s := s.updPort n fun q => { q with waiting := q.waiting.filter fun h => h != g }
  match (s.groupKey (s.port n).rx g.frame g.group).bind fun k =>
      s.openGroup n folio g.frame g.group k g.check g.slots with
  | some d => d.foldl (fun s x => s.slotPass n folio g.frame x.1 x.2) s
  | none => (groupPos g.group).foldl (fun s i => s.slotLost n folio g.frame i) s

/-- A resent slot in its place, or lost when its retry has failed, or when its sealed group has been lost (21 R437). -/
def State.resent (s : State) (n folio frame pos : Nat) (data : Option (List Byte)) : State :=
  match (s.port n).waiting.find? fun g => g.frame == frame && g.missing.contains pos with
  | none =>
    if (s.groupKey (s.port n).rx frame (groupOf pos)).isSome then s
    else match data with
      | some d => s.slotPass n folio frame pos d
      | none => s.slotLost n folio frame pos
  | some g =>
    match data with
    | none => (groupPos g.group).foldl (fun s i => s.slotLost n folio frame i)
        (s.updPort n fun q => { q with waiting := q.waiting.filter fun h => h != g })
    | some d =>
      let h := { g with
        slots := g.slots.map fun x => if x.1 = pos then (pos, d) else x
        missing := g.missing.filter fun i => i != pos }
      let s := s.updPort n fun q => { q with waiting := modifyFirst (fun x => x == g) (fun _ => h) q.waiting }
      if h.missing.isEmpty then s.recheck n folio h else s

/-- The retries of a frame's requests, as the tag that covers them finds them. A retry slot that carries no resend is none
of `slots` (log 43). -/
def State.retries (s : State) (n folio frame j : Nat) (tagBad : Bool) (check : List Byte) (slots : List RxSlot) : State :=
  let here := (retryPos j).map fun i => (slots.find? fun x => x.pos == i).getD ⟨i, true, zeroSlot⟩
  let ok := !tagBad && check == plainCheck (here.flatMap RxSlot.bytes)
  let asked := (((s.port n).asks.find? fun x => x.1 == frame).map Prod.snd).getD []
  let s := s.updPort n fun q => { q with asks := q.asks.filter fun x => x.1 != frame }
  (asked.zipIdx).foldl (fun s x =>
    let r := here.getD x.2 ⟨0, true, zeroSlot⟩
    s.resent n folio frame x.1 (if ok && !r.bad then some r.bytes else none)) s

/-- A tag slot arrives with the slots it covers (20 R404, R405). -/
def State.tagArrives (s : State) (n frame : Nat) (tagBad : Bool) (tag : List Byte) (slots : List RxSlot) : State :=
  match s.fabric.plan with
  | none => s
  | some pl =>
    let folio := s.fabric.folio
    let check := fun g => (tag.drop (16 * g)).take 16
    if !(s.port n).trained then s
    else if frame < pl.f then
      let s := s.updPort n fun q => { q with tagged := (folio, frame + 1) }
      let gs := (List.range 15).map fun g => s.checkGroup n folio frame g tagBad tag slots
      let s := gs.foldl (fun s g => g.1.foldl (fun s x => s.slotPass n folio frame x.1 x.2) s) s
      let fails := gs.flatMap fun g => g.2.1
      let s := s.updPort n fun q => { q with
        waiting := q.waiting ++ gs.filterMap fun g => g.2.2
        asks := q.asks ++ (if fails.isEmpty then [] else [(frame, fails.take 3)]) }
      let s := (fails.drop 3).foldl (fun s i => s.resent n folio frame i none) s
      if 3 ≤ frame then s.retries n folio (frame - 3) 0 tagBad (check 15) slots else s
    else
      let s := s.retries n folio (pl.f - 2) 1 tagBad (check 13) slots
      let s := s.retries n folio (pl.f - 1) 2 tagBad (check 14) slots
      s.retries n folio (pl.f - 3) 0 tagBad (check 15) slots

def execTagSlotArrival (port frame : Nat) (tagBad : Bool) (tag : List Byte) (slots : List RxSlot) (s : State) :
    Out State Fault Refusal := .next (s.tagArrives port frame tagBad tag slots)

/-- A fault marker is noted. One that has arrived goes out once on every port (19 R384, 20 R403). -/
def State.raiseMark (s : State) (dev folio : Nat) : State :=
  if s.fabric.marks.contains (dev, folio) then s
  else { s with fabric := { s.fabric with
    marks := (dev, folio) :: s.fabric.marks
    ports := if dev = s.flash.devid.toNat then s.fabric.ports
      else s.fabric.ports.mapIdx fun _ q => { q with mark := q.mark ++ [(dev, folio)] } } }

/-- A sync slot arrives: retry requests for this port, a fault marker, and a PTP message; one that fails its CRC is discarded whole. -/
def State.syncArrives (s : State) (n frame : Nat) (y : SyncSlot) : State :=
  if !y.crcOk || !(s.port n).trained then s
  else
    let s := match askFrame frame with
      | some k => if y.rpos.isEmpty then s
          else s.updPort n fun q => { q with
            asked := (k, (y.rpos.take 3).map BitVec.toNat) :: q.asked.filter fun x => x.1 != k }
      | none => s
    let s := if y.fmark then s.raiseMark y.fdev.toNat y.ffolio.toNat else s
    if y.ptp = 0 then s else s.ptpIn n y.ptp

def execSyncSlotArrival (port frame : Nat) (sync : SyncSlot) (s : State) : Out State Fault Refusal :=
  .next (s.syncArrives port frame sync)

/-- A slot that an entry is sent: consumed while it is firing, discarded where it has no more use for it (21 R442), or put
into the siding (20 R414, R416). -/
def State.letIn (s : State) (n : Nat) (ts : TSlot) (r : RxRec) : State :=
  let t := s.tent ts.part ts.e
  if t.st = 2 then s.consume ts r
  else if t.folio = r.folio ∧ t.mode ≠ .plain ∧ (t.st = 3 ∨ (t.st = 1 ∧ t.leavesOut ts = true)) then s
  else if 256 ≤ (s.port n).siding.length then s.failEntryIn t 4 r.folio
  else s.updPort n fun q => { q with siding := q.siding ++ [r] }

/-- A checked slot is handled. A trailer of zeros for an entry that is not firing in its folio shows that nothing was sent: the slots
of zeros of its node leave the siding with it (log 23). -/
def State.slotArrives (s : State) (n i : Nat) : State :=
  match (s.port n).arrived[i]? with
  | none => s
  | some (due, r) =>
    if s.now < due then s
    else
      let s := s.updPort n fun q => { q with arrived := q.arrived.eraseIdx i }
      let ts := (s.port n).rxAt r.frame r.pos
      let t := s.tent ts.part ts.e
      let node := fun (x : RxRec) =>
        let u := (s.port n).rxAt x.frame x.pos
        u.part == ts.part && u.e == ts.e && u.alt == ts.alt && u.lo == ts.lo && u.hi == ts.hi
      let own := t.st = 2 ∧ t.folio = r.folio
      if ts.kind = 0 then s
      else if own then s.consume ts r
      else if ts.trailer && r.data == zeroSlot then
        s.updPort n fun q => { q with siding := q.siding.filter fun x => !(node x && x.data == zeroSlot) }
      else s.letIn n ts r

def execSlotArrival (port i : Nat) (s : State) : Out State Fault Refusal := .next (s.slotArrives port i)

end Sys2Proof.Machine
end

