-- ==== Sys2Proof/Machine/Spdm.lean ====
section
/-! DEFINITION. The control channel of a fabric port (21 R426, R427) and the SPDM messages on it (R428 to R434). Message
layouts are those of SPDM 1.4 (DSP0274) and of its secured messages (DSP0277); what they do not fix is in log 102. -/

namespace Sys2Proof.Machine

/-! ## Control flits (21 R426) -/

structure Flit where
  dst : Nat
  src : Nat
  msg : Nat
  frag : Nat
  len : Nat
  last : Bool
  first : Bool
  payload : List Byte
  deriving DecidableEq, Repr

/-- Bits 447:0. -/
def Flit.body (f : Flit) : Nat :=
  f.dst % 2 ^ 16 * 2 ^ 432 + f.src % 2 ^ 16 * 2 ^ 416 + f.msg % 256 * 2 ^ 408 + f.frag % 256 * 2 ^ 400 + f.len % 256 * 2 ^ 392
    + bit f.last * 2 ^ 385 + bit f.first * 2 ^ 384 + ofBytes f.payload % 2 ^ 384

def flitCrc (body : Nat) : Nat := crc64 (leBytes 56 body)

def Flit.word (f : Flit) : BitVec 512 := BitVec.ofNat 512 (flitCrc f.body * 2 ^ 448 + f.body)

/-- A flit as received; none where its CRC fails. -/
def readFlit (w : BitVec 512) : Option Flit :=
  let x := w.toNat
  if fld x 448 64 = flitCrc (x % 2 ^ 448) then
    some ⟨fld x 432 16, fld x 416 16, fld x 408 8, fld x 400 8, fld x 392 8, odd (fld x 385 1), odd (fld x 384 1),
      toBytes (min 48 (fld x 392 8)) (fld x 0 384)⟩
  else none

/-- Fragments of a message: 48 bytes each, the first and the last marked. -/
def fragments (dst src msg : Nat) (m : List Byte) : List (BitVec 512) :=
  let ps := pieces 48 (m.length / 48 + 1) m |>.filter fun p => !p.isEmpty
  ps.zipIdx.map fun x => (Flit.mk dst src msg x.2 x.1.length (x.2 + 1 == ps.length) (x.2 == 0) x.1).word

/-- The flit with which a port fills its channel. -/
def idleFlit (dst src : Nat) : BitVec 512 := (Flit.mk dst src 0 0 0 false false []).word

def State.unitOf (s : State) : Nat := s.flash.devid.toNat

/-- Flit 656 + j of a port's latest gutter. -/
def State.controlFlit (s : State) (n j : Nat) : BitVec 512 :=
  (s.port n).flits.getD j (idleFlit (((s.port n).session.map Session.unit).getD 0) s.unitOf)

/-- The control channel of a gutter: the first 128 flits that wait. -/
def State.controlSend (s : State) (n : Nat) : State :=
  s.updPort n fun q => { q with flits := q.queue.take 128, queue := q.queue.drop 128, ctlFolio := some s.fabric.folio }

/-- One received flit: the message under way goes on, is complete, or is discarded whole by a gap, a bad CRC or a foreign
unit (R427). -/
def takeFlit (own : Nat) (z : Option (Nat × Nat × List Byte) × List (List Byte)) (w : BitVec 512) :
    Option (Nat × Nat × List Byte) × List (List Byte) :=
  match readFlit w with
  | none => (none, z.2)
  | some f =>
    if f.dst ≠ own then (none, z.2)
    else if f.len = 0 then z
    else
      let sofar : Option (List Byte) :=
        if f.first then (if f.frag = 0 then some [] else none)
        else match z.1 with
          | some (m, k, bs) => if m = f.msg ∧ k = f.frag then some bs else none
          | none => none
      match sofar with
      | none => (none, z.2)
      | some bs => if f.last then (none, z.2 ++ [bs ++ f.payload]) else (some (f.msg, f.frag + 1, bs ++ f.payload), z.2)

/-- The messages that a gutter's flits complete, and the one that they leave under way. -/
def State.received (s : State) (n : Nat) (flits : List (BitVec 512)) : Option (Nat × Nat × List Byte) × List (List Byte) :=
  flits.foldl (takeFlit s.unitOf) ((s.port n).inMsg, [])

/-! ## Requests (21 R429, R430, R434) -/

/-- Free bytes, eight to a free value. -/
def freeBytes (k n : Nat) : List Nat := (List.range n).flatMap fun i => leBytes 8 (Config.freeWord (k + i)).toNat

/-- Capabilities that the K4 names: encryption, message authentication, key exchange, heartbeat, and the handshake in the
clear. -/
def ownFlags : Nat := 2 ^ 6 + 2 ^ 7 + 2 ^ 9 + 2 ^ 13 + 2 ^ 15

/-- The largest message: 256 fragments. -/
def maxMessage : Nat := 12288

/-- AEAD AES-256-GCM, the SPDM key schedule, ML-KEM-1024. -/
def algStructs : List Nat := [3, 0x20, 2, 0, 5, 0x20, 1, 0, 7, 0x20, 4, 0]

/-- The payload of R434 for a key slot. -/
def State.keyMessage (s : State) (k op : Nat) : BitVec 512 :=
  match s.fabric.jkeys.get none k with
  | some (key, keyid) => BitVec.ofNat 512 ((if op = 1 then key.toNat * 2 ^ 256 else 0) + keyid.toNat * 2 ^ 224
      + k * 2 ^ 216 + op * 2 ^ 208)
  | none => BitVec.ofNat 512 (k * 2 ^ 216 + op * 2 ^ 208)

/-- A vendor-defined request: the IANA registry, the vendor ID of the configuration record, and the payload. -/
def State.vendorRequest (s : State) (k op : Nat) : List Nat :=
  [0x14, 0xFE, 0, 0] ++ leBytes 2 4 ++ [4] ++ leBytes 4 s.flash.vendor ++ leBytes 2 64 ++ leBytes 64 (s.keyMessage k op).toNat

/-! ### The key schedule (21 R429; DSP0274) -/

def ascii (t : String) : List Nat := t.toList.map Char.toNat

/-- A value derived from a secret under a label and a context: HKDF-Expand to at most one hash. -/
def derive (secret : List Nat) (label : String) (context : List Nat) (n : Nat) : List Nat :=
  (hmac secret (leBytes 2 n ++ ascii "spdm1.4 " ++ ascii label ++ context ++ [1])).take n

/-- The transcript hash up to some bytes after the messages of step 5. -/
def Session.th (x : Session) (more : List Nat) : List Nat :=
  sha3_384 (bytesNat x.vca ++ sha3_384 (bytesNat x.chain) ++ bytesNat x.kex ++ more)

/-- The handshake secret of a direction, "req" or "rsp". -/
def Session.handshake (x : Session) (dir : String) : List Nat :=
  derive (leBytes 48 x.hs.toNat) (dir ++ " hs data") (x.th []) 48

/-- Verify data of a direction over the transcript up to some bytes. -/
def Session.verify (x : Session) (dir : String) (more : List Nat) : List Nat :=
  hmac (derive (x.handshake dir) "finished" [] 48) (x.th more)

/-- Key and IV of the records of a direction, once the last bytes of the transcript are known. -/
def Session.recordKey (x : Session) (dir : String) (more : List Nat) : BitVec 256 × BitVec 96 :=
  let master := hmac (derive (leBytes 48 x.hs.toNat) "derived" [] 48) (List.replicate 48 0)
  let secret := derive master (dir ++ " app data") (x.th more) 48
  (BitVec.ofNat 256 (leNat (derive secret "key" [] 32)), BitVec.ofNat 96 (leNat (derive secret "iv" [] 12)))

/-- What FINISH adds to the transcript ahead of its own bytes: the hash of the K4's chain, where its signature is asked for. -/
def State.ownChain (s : State) (x : Session) : List Nat := if x.mutualAuth then sha3_384 (bytesNat s.flash.chain) else []

/-- KEY_EXCHANGE, with the signature of the identity key as its opaque data (23 R469). -/
def State.keyExchange (s : State) (n : Nat) : List Nat :=
  let m := [0x14, 0xE4, 0, 0] ++ leBytes 2 (n + 1) ++ [0, 0] ++ freeBytes s.free 4 ++ freeBytes (s.free + 4) 196
  let sig := bytesNat (Config.sign s.flash.idKey (natBytes m))
  m ++ leBytes 2 sig.length ++ sig

/-- FINISH: signed where the responder asked for it, with the requester's verify data. -/
def State.finish (s : State) (x : Session) : List Nat :=
  let own := s.ownChain x
  let m := if x.mutualAuth then
      let head := [0x14, 0xE5, 1, 0]
      head ++ bytesNat (Config.sign s.flash.idKey (natBytes (x.th (own ++ head))))
    else [0x14, 0xE5, 0, 0]
  m ++ x.verify "req" (own ++ m)

/-- The request of a step. -/
def State.request (s : State) (n : Nat) (x : Session) (step : Nat) : List Nat :=
  match step with
  | 1 => [0x10, 0x84, 0, 0]
  | 2 => [0x14, 0xE1, 0, 0, 0, 0, 0, 0] ++ leBytes 4 ownFlags ++ leBytes 4 maxMessage ++ leBytes 4 maxMessage
  | 3 => [0x14, 0xE3, 3, 0] ++ leBytes 2 44 ++ [1, 0] ++ leBytes 4 0 ++ leBytes 4 0x10 ++ leBytes 4 2
      ++ List.replicate 8 0 ++ [0, 0, 0, 0] ++ algStructs
  | 4 => [0x14, 0x81, 0, 0]
  | 5 => s.keyExchange n
  | 6 => s.finish x
  | 7 => [0x14, 0xE0, 1, 0xFF] ++ freeBytes s.free 4 ++ [0] ++ List.replicate 8 0
  | _ => s.vendorRequest x.jslot 1

/-- Free values that the request of a step takes. -/
def requestDraws : Nat → Nat | 5 => 200 | 7 => 4 | _ => 0

/-- GET_CERTIFICATE of slot 0 from an offset on. -/
def certRequest (off : Nat) : List Nat := [0x14, 0x82, 0, 0] ++ leBytes 2 off ++ leBytes 2 0xFFFF

/-- IV of a record: that of its direction with the number of the record. -/
def recordIv (k : BitVec 256 × BitVec 96) (no : Nat) : Nat := beNat (leBytes 12 k.2.toNat) ^^^ beNat (leBytes 12 no)

/-- The head of a record of a session: both identifiers, and the length of what follows. -/
def Session.head (x : Session) (n len : Nat) : List Nat := leBytes 2 (n + 1) ++ leBytes 2 x.rsp ++ leBytes 2 len

/-- A message of the session as a record (DSP0277). -/
def Session.sealMsg (x : Session) (n : Nat) (m : List Nat) : List Nat :=
  let head := x.head n (m.length + 18)
  let key := leBytes 32 x.outKey.1.toNat
  let c := gcmCrypt key (recordIv x.outKey x.tx) (leBytes 2 m.length ++ m)
  head ++ c ++ gcmTag key (recordIv x.outKey x.tx) head c

/-- What a record of the switch opens to; none where it is not one of this session, or its AEAD check fails. -/
def Session.openMsg (x : Session) (n : Nat) (m : List Nat) : Option (List Nat) :=
  let head := x.head n (m.length - 6)
  let key := leBytes 32 x.inKey.1.toNat
  let c := (m.drop 6).take (m.length - 22)
  if decide (24 ≤ m.length) && m.take 6 == head && m.drop (m.length - 16) == gcmTag key (recordIv x.inKey x.rx) head c then
    let text := gcmCrypt key (recordIv x.inKey x.rx) c
    some ((text.drop 2).take (leNat (text.take 2)))
  else none

/-- A message goes into a port's queue, sealed when the session's keys stand. -/
def State.sendMsg (s : State) (n : Nat) (x : Session) (m : List Nat) : State × Session :=
  let fs := fragments x.unit s.unitOf (s.port n).msgNo (natBytes (if x.live then x.sealMsg n m else m))
  (s.updPort n fun q => { q with queue := q.queue ++ fs, msgNo := (q.msgNo + 1) % 256 },
    { x with last := fs, tx := if x.live then x.tx + 1 else x.tx })

/-- A request of the procedure is sent, and its time begins. -/
def State.ask (s : State) (n : Nat) (x : Session) (step : Nat) (m : List Nat) : State :=
  let (s, x) := s.sendMsg n x m
  s.updPort n fun q => { q with session := some { x with
    step := some step, sent := natBytes m, sentAt := s.fabric.folio, resent := false } }

/-- The next step's request is sent. -/
def State.askSwitch (s : State) (n : Nat) (x : Session) (step : Nat) : State :=
  let m := s.request n x step
  { s with free := s.free + requestDraws step }.ask n x step m

/-! ## Responses (21 R429) -/

def msgAt (m : List Byte) (at' n : Nat) : Nat := ofBytes ((m.drop at').take n)

/-- VERSION: 1.4 is among the versions offered. -/
def versionOk (m : List Byte) : Bool :=
  msgAt m 1 1 == 0x04 && (List.range (msgAt m 5 1)).any fun i => msgAt m (7 + 2 * i) 1 == 0x14

/-- CAPABILITIES: certificates, signed measurements, encryption, message authentication, key exchange, heartbeat. -/
def capabilitiesOk (m : List Byte) : Bool :=
  let f := msgAt m 8 4
  msgAt m 1 1 == 0x61 && [1, 6, 7, 9, 13].all (fun k => f.testBit k) && f / 8 % 4 == 2

/-- A selected algorithm structure. -/
def algSelected (m : List Byte) (kind sel : Nat) : Bool :=
  (List.range (msgAt m 2 1)).any fun i => msgAt m (36 + 4 * i) 1 == kind && msgAt m (38 + 4 * i) 2 == sel

/-- ALGORITHMS: ML-DSA-65, SHA3-384 twice, ML-KEM-1024, AES-256-GCM. -/
def algorithmsOk (m : List Byte) : Bool :=
  msgAt m 1 1 == 0x63 && msgAt m 8 4 == 0x20 && msgAt m 16 4 == 0x10 && msgAt m 20 4 == 2
    && algSelected m 3 2 && algSelected m 7 4

/-- Bytes of the first DER element. -/
def derLen (bs : List Byte) : Nat :=
  let n := msgAt bs 1 1
  if n < 128 then 2 + n else 2 + (n - 128) + beNat (bytesNat ((bs.drop 2).take (n - 128)))

/-- The root certificate of a chain, which opens with its length and its root's hash. -/
def rootCert (chain : List Byte) : List Byte := (chain.drop 52).take (derLen (chain.drop 52))

/-- SHA3-384 as a little-endian number. -/
def hashNat (bs : List Byte) : Nat := leNat (sha3_384 (bytesNat bs))

/-- The chain's root hashes to the policy's root, and the chain says so. -/
def rootOk (chain : List Byte) (root : Nat) : Bool := hashNat (rootCert chain) == root && msgAt chain 4 48 == root

/-- Measurement blocks of a record: index, and the value where it is a digest of 48 bytes rather than a raw bit stream. -/
def blocksOf : Nat → List Byte → List (Nat × Option (BitVec 384))
  | 0, _ => []
  | k + 1, m =>
    if m.length < 4 then []
    else
      let n := msgAt m 2 2
      (msgAt m 0 1, if msgAt m 5 2 = 48 ∧ msgAt m 4 1 < 128 then some (BitVec.ofNat 384 (msgAt m 7 48)) else none) :: blocksOf k (m.drop (4 + n))

/-- The measurement record of MEASUREMENTS. -/
def measRecord (m : List Byte) : List Byte := (m.drop 8).take (msgAt m 5 3)
def measBlocks (m : List Byte) : List (Nat × Option (BitVec 384)) := blocksOf (msgAt m 4 1) (measRecord m)

/-- Status of a vendor-defined response. -/
def vendorStatus (m : List Byte) : Nat := msgAt m 13 1

/-! ## The K4 as responder (23 R448, R469) -/

/-- Capabilities of the K4: those of R429. -/
def respFlags : Nat := ownFlags + 2 ^ 1 + 2 * 2 ^ 3

/-- A measurement block: its index, the DMTF specification, and a digest. -/
def measBlock (i : Nat) (d : List Byte) : List Nat :=
  [i, 1] ++ leBytes 2 (3 + d.length) ++ [i % 2] ++ leBytes 2 d.length ++ bytesNat d

/-- The blocks that a request names: one, or all. -/
def State.measBytes (s : State) (op : Nat) : List Nat × Nat :=
  let bs := s.host.measured.zipIdx.filter fun x => op == 0xFF || op == x.2 + 1
  (bs.flatMap fun x => measBlock (x.2 + 1) x.1, bs.length)

/-- A response signed with the identity key. -/
def State.signed (s : State) (m : List Nat) : List Nat := m ++ bytesNat (Config.sign s.flash.idKey (natBytes m))

/-- The answer to a request over DOE. -/
def State.respond (s : State) (m : List Byte) : List Nat :=
  match msgAt m 1 1 with
  | 0x84 => [0x10, 0x04, 0, 0, 0, 1, 0, 0x14]
  | 0xE1 => [0x14, 0x61, 0, 0, 0, 0, 0, 0] ++ leBytes 4 respFlags ++ leBytes 4 maxMessage ++ leBytes 4 maxMessage
  | 0xE3 => [0x14, 0x63, 3, 0] ++ leBytes 2 48 ++ [1, 0] ++ leBytes 4 0x20 ++ leBytes 4 0 ++ leBytes 4 0x10 ++ leBytes 4 2
      ++ List.replicate 12 0 ++ algStructs
  | 0x81 => [0x14, 0x01, 0, 1] ++ sha3_384 (bytesNat s.flash.chain)
  | 0x82 =>
    if msgAt m 2 1 % 16 ≠ 0 then [0x14, 0x7F, 1, 0]
    else
      let part := (s.flash.chain.drop (msgAt m 4 2)).take (msgAt m 6 2)
      [0x14, 0x02, 0, 0] ++ leBytes 2 part.length ++ leBytes 2 (s.flash.chain.length - msgAt m 4 2 - part.length) ++ bytesNat part
  | 0xE0 =>
    if msgAt m 3 1 = 0 then [0x14, 0x60, s.host.measured.length, 0, 0, 0, 0, 0] ++ freeBytes s.free 4 ++ [0, 0]
    else
      let (bs, k) := s.measBytes (msgAt m 3 1)
      let r := [0x14, 0x60, 0, 0, k] ++ leBytes 3 bs.length ++ bs ++ freeBytes s.free 4 ++ [0, 0]
      if odd (msgAt m 2 1) then s.signed r else r
  | 0xE4 => s.signed ([0x14, 0x64, 0, 0] ++ leBytes 2 1 ++ [0, 0] ++ freeBytes s.free 4 ++ freeBytes (s.free + 4) 196 ++ [0, 0])
  | 0xE5 => [0x14, 0x65, 0, 0] ++ freeBytes s.free 6
  | 0xE8 => [0x14, 0x68, 0, 0]
  | 0xEC => [0x14, 0x6C, 0, 0]
  | _ => [0x14, 0x7F, 1, 0]

/-- Free values that an answer takes. -/
def respDraws (m : List Byte) : Nat := match msgAt m 1 1 with | 0xE0 => 4 | 0xE4 => 200 | 0xE5 => 6 | _ => 0

end Sys2Proof.Machine
end

