-- ==== Sys2Proof/Machine/Pod.lean ====
section
/-! DEFINITION. The pod around the device: folio boundaries, schedule faults and resynchronisation (19 R384, R385; 20
R397, R399, R416, R418), and the trusted switches (21 R426 to R434). -/

namespace Sys2Proof.Machine

/-! ## Folio boundaries -/

/-- Slots that no entry consumed by the end of their folio fail their entries with reason 4 (20 R416). -/
def State.expireSidings (s : State) (n : Nat) : State :=
  (List.range 12).foldl (fun s p =>
    let old := (s.port p).siding.filter fun r => decide (r.folio ≤ n)
    let s := s.updPort p fun q => { q with siding := q.siding.filter fun r => decide (n < r.folio) }
    old.foldl (fun s r =>
      let ts := (s.port p).rxAt r.frame r.pos
      if ts.kind = 0 then s else s.failEntryIn (s.tent ts.part ts.e) 4 r.folio) s) s

/-- What an entry of the folio still lacks at its end is lost (20 R405, 21 R442; log 23). One that a hold has kept from its
folio waits for the resume. -/
def State.expireEntries (s : State) (n : Nat) : State :=
  s.fabric.ents.foldl (fun s t =>
    let t := s.tent t.part t.e
    if t.st = 2 ∧ t.folio ≤ n ∧ ((t.word.map EWord.recv).getD false) = true ∧ s.inHold t.folio = false then
      let s := if t.mode == .ends then s else s.pathFails t.part t.e false none 3
      if t.mode == .plain || t.mode == .alone then s else s.pathFails t.part t.e true none 3
    else s) s

/-- A Sync has been received, or sent by the time master, in the last 8 folios. -/
def State.syncRecent (s : State) (n : Nat) : Bool :=
  match s.fabric.plan, s.fabric.synced with
  | some pl, some g => decide ((pl.g0 : Int) + (n - 7) * pl.p ≤ g)
  | _, _ => false

/-- The agreement test of R397. -/
def State.gcDisagrees (s : State) (n : Nat) : Bool :=
  !s.syncRecent n || (!s.fabric.isMaster && decide (20 < s.fabric.offset.natAbs))

/-- A schedule fault of folio `n` (19 R384); one raised in a hold extends it to the next resume that the master announces
(R385). Its event has no item for the device identifier of 20 R398 (R381, R476; log 123). -/
def State.scheduleFault (s : State) (n : Nat) : State :=
  ({ s with fabric := { s.fabric with resume := none } }.raiseMark s.flash.devid.toNat n).report
    { (default : Ev) with code := 0x0113, kind := 9 }

/-- As the hold begins, entries of the two folios before it that failed and wait for a replay are armed again; those of another folio
that wait are recorded as failed (18 R341, 19 R385). -/
def State.rearm (s : State) (f : Nat) : State :=
  let again := fun (t : Tent) => decide (t.folio = f ∨ t.folio = f + 1)
  let rest := s.fabric.ents.filter fun t => t.st == 4 && t.node.isSome && !again t
  let s := rest.foldl (fun s t => (s.updTent t.part t.e fun u => { u with node := none }).collFails t t.reason f) s
  { s with
    fabric := { s.fabric with
      ents := s.fabric.ents.map fun (t : Tent) =>
        if t.st = 4 ∧ again t = true ∧ t.node.isSome then
          { t with
            st := 1, replay := true, folio := f + 2, got := [], trails := [], bad := [], twos := [], written := []
            alts := [], flags := 0, reason := 0, own := [], unsent := [] }
        else t } }

/-- Entries armed for a held folio before `b` move to it: those that wait to fire, and those that only receive (19
R385). -/
def State.moveHeld (s : State) (b : Nat) : State :=
  match s.fabric.hold with
  | none => s
  | some h =>
    { s with
      fabric := { s.fabric with
        ents := s.fabric.ents.map fun (t : Tent) =>
          if (t.st = 1 ∨ t.st = 2) ∧ h ≤ t.folio ∧ t.folio < b then { t with folio := b } else t } }

/-- The schedule resumes at the boundary that opens the folio announced (19 R385). -/
def State.resumePod (s : State) : State :=
  { s with
    fabric := { s.fabric with hold := none, resume := none } }.report { (default : Ev) with code := 0x0114, kind := 9 }

/-- The boundary that ends the folio under way. -/
def State.endFolio (s : State) : State :=
  let n := s.fabric.folio
  let s := (s.expireSidings n).expireEntries n
  let s := if s.fabric.failed.contains n || s.gcDisagrees n then s.scheduleFault n else s
  let s := { s with
    fabric := { s.fabric with
      folio := n + 1, failed := s.fabric.failed.filter fun f => decide (n < f)
      ports := s.fabric.ports.mapIdx fun _ (q : Port) =>
        { q with asks := [], asked := [], waiting := [], losses := q.losses.filter fun x => decide (n < x.1) } } }.settleColls n
  let s := s.mgmtSend (n % 2)
  if s.fabric.hold.isSome then s
  else match s.fabric.marks.find? fun m => m.2 + 1 == n with
    | some (_, f) => { s with fabric := { s.fabric with hold := some (n + 1) } }.rearm f |>.settleColls n
    | none => s

def execFolioBoundary (s : State) : Out State Fault Refusal :=
  .next (if s.fabric.plan.isSome then s.endFolio else s)

/-- The master announces the boundary at which the schedule resumes: one still to come, once the device agrees with the
master. -/
def State.announce (s : State) (b : Nat) : State :=
  if s.fabric.hold.isSome && decide (s.fabric.folio < b) && (s.fabric.isMaster || decide (s.fabric.offset.natAbs ≤ 20)) then
    { s.moveHeld b with fabric := { (s.moveHeld b).fabric with resume := some b } }
  else s

/-- The announcement of folio `b`, or, at the boundary that opens it, the resume. -/
def execResyncResume (b : Nat) (s : State) : Out State Fault Refusal :=
  .next (if s.fabric.hold.isSome && s.fabric.resume == some b && decide (b ≤ s.fabric.folio) then s.resumePod else s.announce b)

/-! ## Sessions with switches (21 R426 to R434) -/

/-- An admission that fails (21 R429). -/
def State.refuseSwitch (s : State) (n : Nat) (x : Session) (step reason : Nat) : State :=
  (s.updPort n fun q => { q with session := if x.live then some { x with step := none } else none }).report
    { (default : Ev) with code := 0x0119, die := n / 3, kind := 9, unit := n, detail := [x.unit, step, reason] }

/-- A session ends; `cause` is 1 for heartbeats, 2 for an AEAD check, 3 for revocation, 4 for training (log 25). An attestation
under way fails with it, at its step. -/
def State.endSession (s : State) (n cause : Nat) : State :=
  match (s.port n).session with
  | none => s
  | some x =>
    let s := match x.step with
      | some k => s.refuseSwitch n x k k
      | none => s
    let s := s.updPort n fun q => { q with session := none }
    if x.live then s.report
      { (default : Ev) with code := 0x011A, die := n / 3, kind := 9, unit := n, detail := [x.unit, cause] }
    else s

/-- A measurement policy record: none where it is malformed (21 R431). -/
def State.policyOf (s : State) (a : Nat) : Option (Nat × List (Nat × Nat)) :=
  if a % 64 ≠ 0 ∨ s.mem.cap < a + 64 then none
  else
    let h := s.mem.word a 64
    let n := fld h 0 4
    if fld h 4 124 ≠ 0 ∨ s.mem.cap < a + 64 + 64 * n then none
    else
      let es := (List.range n).map fun i => s.mem.word (a + 64 + 64 * i) 64
      if es.any fun e => fld e 16 112 != 0 || fld e 0 8 != 0 || fld e 8 8 == 0 || fld e 8 8 == 255 then none
      else some (fld h 128 384, es.map fun e => (fld e 8 8, fld e 128 384))

/-- A switch's measurements match a policy (21 R432). -/
def policyMatches (es : List (Nat × Nat)) (blocks : List (Nat × Option (BitVec 384))) : Bool :=
  es.all fun e => match blocks.find? fun b => b.1 == e.1 with
    | some (_, some d) => es.any fun f => f.1 == e.1 && f.2 == d.toNat
    | _ => false

/-- Event 0x0118 (19 R476). -/
def State.admitSwitch (s : State) (n : Nat) (x : Session) : State :=
  (s.updPort n fun q => { q with session := some { x with step := none, keys := (x.jslot :: x.keys).eraseDups } }).report
    { (default : Ev) with
      code := 0x0118, die := n / 3, kind := 9, unit := n
      detail := [x.unit + x.jslot * 2 ^ 16, fld x.digest.toNat 0 64, fld x.digest.toNat 64 64, fld x.digest.toNat 128 64] }

/-- The messages of a step of 1 to 3 join the transcript. -/
def Session.talked (x : Session) (m : List Byte) : Session := { x with vca := x.vca ++ x.sent ++ m }

/-- After KEY_EXCHANGE_RSP: the identifier, the transcript, and the handshake secret from the encapsulated key (DSP0274). -/
def Session.exchanged (x : Session) (m : List Byte) : Session :=
  { x with
    rsp := msgAt m 4 2, kex := x.sent ++ m, mutualAuth := msgAt m 6 1 != 0
    hs := BitVec.ofNat 384 (leNat (hmac (List.replicate 48 0)
      (leBytes 32 (Config.decaps ((x.sent.drop 40).take 1568) ((m.drop 40).take 1568)).toNat))) }

/-- The response to the step in progress. Certificates are asked for until the chain is whole. Step 6 checks the responder's verify
data and derives the keys of the session. -/
def State.attestStep (s : State) (n : Nat) (x : Session) (k : Nat) (m : List Byte) (r : AttestResp) : State :=
  match k with
  | 1 => if versionOk m then s.askSwitch n (x.talked m) 2 else s.refuseSwitch n x 1 1
  | 2 => if capabilitiesOk m then s.askSwitch n (x.talked m) 3 else s.refuseSwitch n x 2 2
  | 3 => if algorithmsOk m then s.askSwitch n { x.talked m with chain := [] } 4 else s.refuseSwitch n x 3 3
  | 4 =>
    match s.policyOf x.policy with
    | none => s.refuseSwitch n x 4 0x0D
    | some (root, _) =>
      match msgAt m 1 1 with
      | 0x01 => s.ask n { x with chain := [] } 4 (certRequest 0)
      | 0x02 =>
        let chain := x.chain ++ (m.drop 8).take (msgAt m 4 2)
        if msgAt m 6 2 ≠ 0 then s.ask n { x with chain := chain } 4 (certRequest chain.length)
        else if r.valid && rootOk chain root && r.unit.toNat == x.unit then s.askSwitch n { x with chain := chain } 5
        else s.refuseSwitch n x 4 4
      | _ => s.refuseSwitch n x 4 4
  | 5 => if r.valid && msgAt m 1 1 == 0x64 then s.askSwitch n (x.exchanged m) 6 else s.refuseSwitch n x 5 5
  | 6 =>
    let said := s.ownChain x ++ bytesNat x.sent
    if msgAt m 1 1 == 0x65 && bytesNat ((m.drop 4).take 48) == x.verify "rsp" (said ++ bytesNat (m.take 4)) then
      s.askSwitch n { x with
        live := true, beat := s.fabric.folio, tx := 0, rx := 0
        outKey := x.recordKey "req" (said ++ bytesNat m), inKey := x.recordKey "rsp" (said ++ bytesNat m) } 7
    else s.refuseSwitch n x 6 6
  | 7 =>
    match s.policyOf x.policy with
    | none => s.refuseSwitch n x 7 7
    | some (_, es) =>
      if r.valid && msgAt m 1 1 == 0x60 && policyMatches es (measBlocks m) then
        s.askSwitch n { x with digest := BitVec.ofNat 384 (hashNat (measRecord m)) } 8
      else s.refuseSwitch n x 7 7
  | _ => if msgAt m 1 1 == 0x7E && vendorStatus m == 0 then s.admitSwitch n x else s.refuseSwitch n x 8 8

/-- A message from the switch: a heartbeat's answer, or the response to the step in progress. -/
def State.switchSays (s : State) (n : Nat) (m : List Byte) (r : AttestResp) : State :=
  match (s.port n).session with
  | none => s
  | some x =>
    if msgAt m 1 1 = 0x68 then s.updPort n fun q => { q with session := some { x with awaiting := false, missed := 0 } }
    else match x.step with
      | some k => s.attestStep n x k m r
      | none => s

/-- The flits of a gutter: each message that they complete is taken, a session's once its AEAD check has passed; a failed
check ends the session (R430). -/
def State.control (s : State) (n : Nat) (r : AttestResp) : State :=
  let z := s.received n r.flits
  z.2.foldl (fun s m =>
    match (s.port n).session with
    | none => s
    | some x =>
      if x.live then
        (match x.openMsg n (bytesNat m) with
         | some p => (s.updPort n fun q => { q with session := some { x with rx := x.rx + 1 } }).switchSays n (natBytes p) r
         | none => s.endSession n 2)
      else s.switchSays n m r) (s.updPort n fun q => { q with inMsg := z.1 })

def execAttestResponse (port : Nat) (resp : AttestResp) (s : State) : Out State Fault Refusal :=
  .next (s.control port resp)

/-- A request unanswered for 8 folios: sent once more, or the end of the procedure (21 R427). -/
def execControlRequestTimeout (port : Nat) (s : State) : Out State Fault Refusal :=
  .next (match (s.port port).session with
    | some x =>
      match x.step with
      | some k =>
        if s.fabric.folio < x.sentAt + 8 then s
        else if x.resent then s.refuseSwitch port x k 0x0E
        else s.updPort port fun q => { q with
          queue := q.queue ++ x.last, session := some { x with resent := true, sentAt := s.fabric.folio } }
      | none => s
    | none => s)

/-- A heartbeat is due: the third in a row that stands unanswered ends the session; otherwise another goes (21 R430). The
last one is answered when its answer has come over the channel, or the environment says that it has. -/
def State.heartbeat (s : State) (n : Nat) (answered : Bool) : State :=
  match (s.port n).session with
  | some x =>
    if !x.live then s
    else
      let missed := if x.awaiting && !answered then x.missed + 1 else 0
      if 3 ≤ missed then s.endSession n 1
      else
        let last := x.last
        let (s, x) := s.sendMsg n { x with missed := missed, awaiting := true, beat := s.fabric.folio } [0x14, 0xE8, 0, 0]
        s.updPort n fun q => { q with session := some { x with last := last } }
  | none => s

def execHeartbeat (port : Nat) (answered : Bool) (s : State) : Out State Fault Refusal :=
  .next (s.heartbeat port answered)

/-- Revocation: every key that the session has delivered is removed, then it ends (R430, R434). -/
def State.revoke (s : State) (n : Nat) : State :=
  match (s.port n).session with
  | none => s
  | some x =>
    let (s, _) := (if x.live then x.keys.map (fun k => s.vendorRequest k 2) ++ [[0x14, 0xEC, 0, 0]] else []).foldl
      (fun z m => z.1.sendMsg n z.2 m) (s, x)
    s.endSession n 3

/-- A port fails training: it carries nothing, and its session ends. Lost are the slots that it has asked for again, and those of
frames that have passed without their tag slot (20 R399, 21 R430). -/
def State.trainFail (s : State) (n : Nat) : State :=
  let q := s.port n
  let from' := if q.tagged.1 = s.fabric.folio then q.tagged.2 else 0
  let past := if q.ctlAt.1 = s.fabric.folio then (q.ctlAt.2 + 1) / 3 else 0
  let f := match s.fabric.plan with | some pl => if s.inHold s.fabric.folio then 0 else pl.f | none => 0
  let s := q.asks.foldl (fun s x => x.2.foldl (fun s i => s.resent n s.fabric.folio x.1 i none) s)
    (s.updPort n fun q => { q with trained := false, asks := [] })
  (((List.range (min past f)).drop from').foldl (fun s k => s.frameLost n s.fabric.folio k) s).endSession n 4

def execPortTrainingFailure (port : Nat) (s : State) : Out State Fault Refusal := .next (s.trainFail port)

end Sys2Proof.Machine
end

