-- ==== Sys2Proof/Machine/MemInstr.lean ====
section
/-! DEFINITION. Plain loads and stores (06 R131 to R138), gathers, page requests, fences, atomics and ORDFL (13). The
waits of their ordering (13 R267, R271) are the scheduler's, in Sched.lean. -/

namespace Sys2Proof.Machine

/-- A memory instruction by its kind. -/
def memOp (i : Instr) (s : State) : Out State Fault Refusal :=
  match accKind i with
  | some k => .next (accIssue i k s)
  | none => .next s

/-! ## Plain loads and stores -/

def execLd (sx a64 : Bool) (m : MForm) (s : State) : Out State Fault Refusal := memOp (.ld sx a64 m) s
def execSt (a64 : Bool) (m : MForm) (s : State) : Out State Fault Refusal := memOp (.st a64 m) s
def execLds (sx a64 : Bool) (m : MForm) (s : State) : Out State Fault Refusal := memOp (.lds sx a64 m) s
def execSts (a64 : Bool) (m : MForm) (s : State) : Out State Fault Refusal := memOp (.sts a64 m) s

/-! ## Gathers, scatters and atomics (13 R263, R268 to R274) -/

def execGath (sx rp : Bool) (m : MForm) (s : State) : Out State Fault Refusal := memOp (.gath sx rp m) s
def execScat (rp : Bool) (m : MForm) (s : State) : Out State Fault Refusal := memOp (.scat rp m) s
def execAtom (op : AtomOp) (m : MForm) (s : State) : Out State Fault Refusal := memOp (.atom op m) s
def execCas (m : MForm) (s : State) : Out State Fault Refusal := memOp (.cas m) s
def execRed (op : AtomOp) (m : MForm) (s : State) : Out State Fault Refusal := memOp (.red op m) s
def execRedx (op : AtomOp) (m : MForm) (s : State) : Out State Fault Refusal := memOp (.redx op m) s

/-! ## Pages (13 R264 to R266) -/

/-- Address of a page instruction in a lane: A + 8 × offset, its low three bits ignored (13 R260). -/
def Wave.pageEa (w : Wave) (m : MForm) (l : Nat) : Nat := effAddr .main 8 m.off (w.rd m.a 2 l) / 8 * 8

/-- What each Active lane of a page instruction finds. -/
def State.pageLooks (s : State) (m : MForm) (act : W32) : List (Nat × Seen) :=
  (lanesOf act).map fun l => (s.w.pageEa m l, s.seen s.w (s.w.pageEa m l))

/-- PGREQ and DSCD refuse an address in no window, in a window that is not paged or lacks the permission, and a walk
that meets a malformed entry (13 R264). -/
def pageRefused (wr : Bool) : Seen → Bool
  | .paged wd _ walk => !wd.r || (wr && !wd.w) || (match walk with | .malformed .. => true | _ => false)
  | _ => true

/-- A mapped page that may not be written refuses DSCD (13 R265). -/
def dscdRefused : Seen → Bool
  | .paged wd _ (.leaf _ pte) => !wd.w || !odd (fld pte 9 1)
  | _ => false

/-- The distinct pages of the lanes, in ascending virtual address. -/
def pagesOf (ls : List (Nat × Seen)) : List (Nat × Seen) :=
  (sortNat (ls.map fun x => x.1 / 65536).eraseDups).filterMap fun p =>
    ls.find? fun x => x.1 / 65536 == p

/-- The entry of a page: its address, and whether it is a leaf to discard. -/
def Seen.leafAt : Seen → Option Nat
  | .paged _ _ (.leaf a _) => some a
  | _ => none

def Seen.iaOf : Seen → Nat
  | .paged _ ia _ => ia
  | _ => 0

/-- One lane of the access for each page: the leaf to discard when there is one, the virtual address in `data`, the
intermediate address in `aux`, the window in `got`. -/
def State.pageLane (s : State) (x : Nat × Seen) : LaneAcc :=
  { lane := 0, loc := match x.2.leafAt with | some a => .main a none | none => .pad 0
    withheld := x.2.leafAt.isNone, data := x.1, aux := x.2.iaOf
    got := match s.g.window x.1 with | some (i, _) => i | none => 0, done := false }

/-- A page instruction: its refusal, then its access with the requests of the leaves to write. -/
def pageIssue (i : Instr) (m : MForm) (refused : Seen → Bool) (k : State → Access → State) (s : State) :
    Out State Fault Refusal :=
  .next (s.issue i fun t act =>
    let ls := s.pageLooks m act
    let seen := ls.map Prod.snd
    if seen.any refused then (s.reportBad s.w seen).takeTrap act (trapOf 0x0E)
    else
      let a := { s.newAccess i act true 0 with lanes := (pagesOf ls).map s.pageLane }
      (k (t.reportBad s.w seen) a).advance)

/-- PGREQ: its posting is presented to the event arbiter in the issue cycle (11 R226); code 0 marks it, and its detail
names the access. -/
def execPgreq (wr : Bool) (m : MForm) (s : State) : Out State Fault Refusal :=
  pageIssue (.pgreq wr m) m (pageRefused wr) (fun s a =>
    if a.lanes.isEmpty then s
    else (s.addAccess a false []).report (waveEv 0 s.w s.g [s.nextUid])) s

def execDscd (m : MForm) (s : State) : Out State Fault Refusal :=
  pageIssue (.dscd m) m (fun v => pageRefused false v || dscdRefused v)
    (fun s a => if a.lanes.isEmpty then s else s.addAccess a true (a.runs 8)) s

/-- A fault record of a grid for a page is posted and not served; the latest served one was refused (13 R266). -/
def State.pagePending (s : State) (gid asid vpage : Nat) : Bool :=
  match s.asid asid with
  | some a => a.recs.any fun r => r.gid == gid && r.vpage == vpage && r.posted
  | none => false

def State.pageDenied (s : State) (gid asid vpage : Nat) : Bool :=
  match s.asid asid with
  | some a =>
    match ((a.served.filter fun x => x.1 == gid).take 64).find? fun x => x.2.1 == vpage with
    | some x => x.2.2
    | none => false
  | none => false

/-- Fields of the status word that the last entry read and the window give (13 R266). -/
def pgqryWalk (wd : Window) (walk : Walk) : Nat :=
  match walk with
  | .malformed _ pte level => pte % 4 + 4 * level + 16
  | .absent _ pte level => pte % 4 + 4 * level
  | .discarded _ pte => pte % 4 + 4 * 3
  | .leaf _ pte =>
    pte % 4 + 4 * 3 + 256 * bit (wd.r && odd (fld pte 8 1)) + 512 * bit (wd.w && odd (fld pte 9 1))
      + 1024 * bit (wd.x && odd (fld pte 10 1)) + 2048 * fld pte 3 5

/-- The status word of an address (13 R266). -/
def State.pgqryWord (s : State) (w : Wave) (va : Nat) : Nat :=
  let g := s.grd (s.blk w)
  match g.window va with
  | none => 0
  | some (i, wd) =>
    2 ^ 20 * i + 2 ^ 19 + 2 ^ 17 * bit (s.pagePending g.gid g.l.asid (va / 65536))
      + 2 ^ 16 * bit (s.pageDenied g.gid g.l.asid (va / 65536))
      + (match s.seen w va with
         | .paged wd _ walk => 2 ^ 18 + pgqryWalk wd walk
         | _ => 2 + 256 * bit wd.r + 512 * bit wd.w + 1024 * bit wd.x + 2048 * wd.pkey)

def execPgqry (m : MForm) (s : State) : Out State Fault Refusal :=
  .next (s.issue (.pgqry m) fun t act =>
    let seen := (s.pageLooks m act).map Prod.snd
    (((t.reportBad s.w seen).result 1 act (s.w.regsAt m.d 1)
      (s.w.dst m.d 1 act fun l => s.pgqryWord s.w (s.w.pageEa m l))).advance))

/-! ## FENCE and ORDFL (13 R267, R279) -/

/-- FENCE: one round; its waits are those of the scheduler. -/
def execFence (mask : Fin 16) (m : MForm) (s : State) : Out State Fault Refusal :=
  .next (s.issue (.fence mask m) fun s _ => s.advance)

def execOrdfl (r : RForm) (s : State) : Out State Fault Refusal :=
  .next (s.issue (.ordfl r) fun t act =>
    if s.g.l.ordered && act != 0 then
      let a := { s.newAccess (.ordfl r) act true 0 with
        wnum := (lanesOf act).map fun l => (l, (s.w.th l).window) }
      ((t.addAccess a false []).updWave s.path.uid fun w =>
        w.updTh act fun _ t => { t with window := t.window + 1, seq := 0 }).advance
    else t.advance)

end Sys2Proof.Machine
end

