-- ==== Sys2Proof/Machine/WaveInstr.lean ====
section
/-! DEFINITION. Wave, reduction and barrier instructions (08). -/

namespace Sys2Proof.Machine

/-! ## Lane instructions (08 R165 to R169) -/

/-- The logical values of 07 R151. -/
def idVal (k : IdSel) (l : Launch) (bl widx lane : Nat) : Nat :=
  match k with
  | .lane => lane
  | .wave => widx
  | .bx => bl % l.gx
  | .by => bl / l.gx % l.gy
  | .bz => bl / (l.gx * l.gy)
  | .gx => l.gx
  | .gy => l.gy
  | .gz => l.gz
  | .bl => bl % 2 ^ 32
  | .rank => bl % l.team
  | .gtid => gtidOf bl l.waves widx lane
  | .nw => l.waves
  | .tsize => l.team
  | .blw => bl

def idRegs : IdSel → Nat | .gtid | .blw => 2 | _ => 1

def execIdrd (k : IdSel) (r : RForm) (s : State) : Out State Fault Refusal :=
  .next (alu (.idrd k r) r.d (idRegs k) 1 (fun w l => idVal k s.g.l s.b.bl w.widx l) s)

/-- The source lane of SHFL (08 R166); none out of range. -/
def shflSrc (mode : ShflMode) (lane k : Nat) : Option Nat :=
  match mode with
  | .idx => some (k % 32)
  | .up => if k ≤ lane then some (lane - k) else none
  | .down => if lane + k ≤ 31 then some (lane + k) else none
  | .xor => some (lane ^^^ (k % 32))

def execShfl (mode : ShflMode) (b64 : Bool) (r : RForm) (s : State) : Out State Fault Refusal :=
  .next (alu (.shfl mode b64 r) r.d (wide b64) 1
    (fun w l => w.rd r.a (wide b64) ((shflSrc mode l (w.rd r.b 1 l)).getD l)) s)

/-- The result of VOTE other than .ballot (08 R167). -/
def voteVal (op : VoteOp) (w : Wave) (a : Opnd) (act : W32) : Bool :=
  let ls := lanesOf act
  match op with
  | .all => ls.all fun l => w.cond a l
  | .any => ls.any fun l => w.cond a l
  | .uni =>
    match a with
    | .m _ => ls.all fun l => w.cond a l == w.cond a (lowLane act)
    | _ => ls.all fun l => w.word a 0 l == w.word a 0 (lowLane act)
  | .ballot => false

def ballot (w : Wave) (a : Opnd) (act : W32) : W32 := maskOf fun l => act.getLsbD l && w.cond a l

def execVote (op : VoteOp) (r : RForm) (s : State) : Out State Fault Refusal :=
  .next (s.issue (.vote op r) fun s act =>
    (s.result 1 act (s.w.regsAt r.d 1)
      (match op with
       | .ballot => s.w.dst r.d 1 act fun _ => (ballot s.w r.a act).toNat
       | _ => s.w.dstBool r.d act fun _ => voteVal op s.w r.a act)).advance)

/-- The source lane of BCAST (08 R168). -/
def bcastSrc (mode : BcastMode) (w : Wave) (b : Opnd) (act : W32) : Nat :=
  match mode with
  | .lane => w.rd b 1 0 % 32
  | .first => lowLane act
  | .last => highLane act

def execBcast (mode : BcastMode) (b64 : Bool) (r : RForm) (s : State) : Out State Fault Refusal :=
  .next (s.issue (.bcast mode b64 r) fun s act =>
    (s.result 1 act (s.w.regsAt r.d (wide b64))
      (s.w.dst r.d (wide b64) act fun _ => s.w.rd r.a (wide b64) (bcastSrc mode s.w r.b act))).advance)

def execActm (run : Bool) (r : RForm) (s : State) : Out State Fault Refusal :=
  .next (s.issue (.actm run r) fun s act =>
    (s.result 1 act (s.w.regsAt r.d 1)
      (s.w.dst r.d 1 act fun _ => (if run then s.w.alive else s.path.lanes).toNat)).advance)

/-! ## Reductions and scans (08 R170, R171) -/

/-- Bits of a value of a type of WRED. -/
def rtBits : RType → Nat | .d => 64 | .h | .bf => 16 | _ => 32

def rtInt : RType → Bool | .i32 | .ui32 => true | _ => false

/-- Contributions: the value of A in each Active lane, ascending. -/
def contribs (t : RType) (w : Wave) (a : Opnd) (act : W32) : List Nat :=
  (lanesOf act).map fun l => w.rd a t.regs l % 2 ^ rtBits t

/-- The identity of an exclusive scan (08 R171). -/
def redIdent (t : RType) (op : RedOp) : Nat :=
  match t, op with
  | .i32, .min => 0x7FFFFFFF | .i32, .max => 0x80000000
  | .ui32, .min => 0xFFFFFFFF | .ui32, .max => 0
  | _, .sum => 0
  | .f, .min => binary32.inf | .f, .max => binary32.inf + binary32.sign
  | .d, .min => binary64.inf | .d, .max => binary64.inf + binary64.sign
  | .h, .min => binary16.inf | .h, .max => binary16.inf + binary16.sign
  | .bf, .min => bf16.inf | .bf, .max => bf16.inf + bf16.sign

/-- A result whose flags every Active lane receives (02 R41); integer nodes raise none. -/
def State.redResult (s : State) (t : RType) (act : W32) (regs : List Reg) (wr : List Wr) (fl : Fl) : State :=
  if rtInt t then s.result 3 act regs wr
  else s.resultFl 3 act regs wr ((lanesOf act).map fun l => (l, fl))

def execWred (t : RType) (op : RedOp) (r : RForm) (s : State) : Out State Fault Refusal :=
  .next (s.issue (.wred t op r) fun s act =>
    match redTree t op (contribs t s.w r.a act) with
    | some (v, fl) =>
      (s.redResult t act (s.w.regsAt r.d t.regs) (s.w.dst r.d t.regs act fun _ => v) fl).advance
    | none => s.advance)

/-- The prefix of the `i`-th contributor: value and flags. -/
def scanAt (t : RType) (op : RedOp) (excl : Bool) (c : List Nat) (i : Nat) : Nat × Fl :=
  (redTree t op (c.take (if excl then i else i + 1))).getD (redIdent t op, 0)

def execWscan (t : RType) (op : RedOp) (excl : Bool) (r : RForm) (s : State) : Out State Fault Refusal :=
  .next (s.issue (.wscan t op excl r) fun s act =>
    let c := contribs t s.w r.a act
    let vals := (List.range c.length).map fun i => scanAt t op excl c i
    (s.redResult t act (s.w.regsAt r.d t.regs)
      (s.w.dst r.d t.regs act fun l => (vals.getD ((lanesOf act).idxOf l) (0, 0)).1)
      (vals.foldl (fun f v => f ||| v.2) 0)).advance)

/-! ## Barriers (08 R174 to R179) -/

/-- Some path of a block waits on a barrier. A wait that another path's trap has interrupted does not count while the wave is in
its handler (log 108). -/
def State.barWaits (s : State) (bid i : Nat) : Bool :=
  s.waves.any fun w => w.bid == bid && w.threads.any fun t =>
    t.status == .run && match t.wait with | .bar n _ => n == i | _ => false

/-- The barrier-state trap: detail is the barrier's number (19 R360). -/
def barTrap (i : Nat) : Trap := ⟨0x07, i, fun _ => none⟩

/-- A barrier instruction on its object; it does nothing with no lane Active (08 R164). -/
def barOp (i : Instr) (f : State → W32 → State → Except Trap State) (s : State) : Out State Fault Refusal :=
  .next (s.issue i fun t act =>
    if act = 0 then t.advance
    else match f s act t with
      | .ok u => u.advance
      | .error tr => s.takeTrap act tr)

def execBinit (b : Fin 32) (r : RForm) (s : State) : Out State Fault Refusal :=
  barOp (.binit b r) (fun s act t =>
    let n := s.w.rd r.b 1 (lowLane act)
    let o := s.bar s.b b.val
    if n = 0 || decide (16777215 < n) || (o.state == 1 && (o.arrived != 0 || s.barWaits s.b.bid b.val)) then
      .error (barTrap b.val)
    else .ok (t.setBar s.b b.val { o with expected := n, arrived := 0, flags := 0, state := 1 })) s

/-- The arrival of the Active threads (08 R176): the object after it, with the generation before it. -/
def State.arriveAll (s t : State) (b : Nat) (act : W32) : Except Trap (State × Nat) :=
  let fl := (lanesOf act).foldl (fun f l => f ||| ((s.w.th l).flags).toNat) 0
  match t.arrive s.b b (countLanes act) fl with
  | some u => .ok (u, (s.bar s.b b).gen)
  | none => .error (barTrap b)

def execBarv (b : Fin 32) (r : RForm) (s : State) : Out State Fault Refusal :=
  barOp (.barv b r) (fun s act t =>
    match s.arriveAll t b.val act with
    | .ok (u, gen) => .ok (u.result 1 act (s.w.regsAt r.d 1) (s.w.dst r.d 1 act fun _ => gen))
    | .error tr => .error tr) s

/-- The path waits at a barrier while its generation is `gen`. -/
def State.waitBar (s : State) (lanes : W32) (b gen : Nat) : State :=
  s.updWave s.path.uid fun w => w.updTh lanes fun _ t => { t with wait := .bar b (BitVec.ofNat 32 gen) }

/-- The lanes that a wait covers: the Active ones, with the others of the path waiting beside them. -/
def execBwait (b : Fin 32) (r : RForm) (s : State) : Out State Fault Refusal :=
  barOp (.bwait b r) (fun s act t =>
    let o := s.bar s.b b.val
    let tok := s.w.rd r.b 1 (lowLane act)
    if o.state != 1 then .error (barTrap b.val)
    else if o.gen = tok then .ok (t.waitBar s.path.lanes b.val tok)
    else .ok t) s

def execBarw (b : Fin 32) (r : RForm) (s : State) : Out State Fault Refusal :=
  barOp (.barw b r) (fun s act t =>
    match s.arriveAll t b.val act with
    | .ok (u, gen) => .ok (if (u.bar s.b b.val).gen = gen then u.waitBar s.path.lanes b.val gen else u)
    | .error tr => .error tr) s

def execBinval (b : Fin 32) (r : RForm) (s : State) : Out State Fault Refusal :=
  barOp (.binval b r) (fun s _ t =>
    let o := s.bar s.b b.val
    if o.arrived != 0 || s.barWaits s.b.bid b.val then .error (barTrap b.val)
    else .ok (t.setBar s.b b.val { o with state := 0 })) s

/-- A field of a barrier object (08 R179). -/
def Bar.field (o : Bar) : BrField → Nat
  | .gen => o.gen | .arr => o.arrived | .exp => o.expected | .flg => o.flags | .st => o.state

def execBrdf (fd : BrField) (b : Fin 32) (r : RForm) (s : State) : Out State Fault Refusal :=
  barOp (.brdf fd b r) (fun s act t =>
    .ok (t.result 3 act (s.w.regsAt r.d 1) (s.w.dst r.d 1 act fun _ => (s.bar s.b b.val).field fd))) s

/-! ## The end of a wait (08 R177) -/

/-- The threads of a path go on from the first round after this cycle, re-anchored. -/
def State.resumeLanes (s : State) (uid : Nat) (p : Thread → Bool) : State :=
  (s.updWave uid fun w =>
    { w with
      threads := w.threads.mapIdx fun _ t =>
        if p t then { t with wait := .none, reanchor := true, readyAt := max t.readyAt (s.round w + 1) } else t }).settle uid

/-- A thread's barrier wait is over: the object's generation has changed. -/
def State.barOver (s : State) (w : Wave) (t : Thread) : Bool :=
  match t.wait with
  | .bar b tok => (s.bar (s.blk w) b).gen != tok.toNat
  | _ => false

def execBarrierResume (wv lane : Nat) (s : State) : Out State Fault Refusal :=
  .next (match s.waves[wv]? with
    | some w =>
      if s.barOver w (w.th lane) then
        s.resumeLanes w.uid fun t => t.wait == (w.th lane).wait && t.pc == (w.th lane).pc && t.depth == (w.th lane).depth
      else s
    | none => s)

end Sys2Proof.Machine
end

