-- ==== Sys2Proof/Machine/Rounds.lean ====
section
/-! DEFINITION. The rounds of slices and clusters (01 R20, R21; 23 R459, R460), results as they arrive, accesses and
tiles as they take effect, the elastic deadline (07 R147), and the stalls (19 R354 to R357; 23 R466). -/

namespace Sys2Proof.Machine

/-! ## Freezing a cluster (19 R355, R356) -/

/-- The counter of a cluster stops. -/
def State.freeze (s : State) (cl : Nat) (f : Cluster → Cluster) : State :=
  let n := s.cycle cl
  s.updCluster cl fun c => f (if c.frozen then c else { c with cyc0 := n, t0 := s.now })

/-- A cause of a stall ends: the counter runs again once none is left, and with it the clusters that waited for this
one. -/
def State.thaw (s : State) : Nat → Nat → (Cluster → Cluster) → State
  | 0, _, _ => s
  | k + 1, cl, f =>
    let s := s.updCluster cl f
    if (s.cluster cl).frozen then s
    else
      let s := s.updCluster cl fun c => { c with t0 := s.now }
      ((List.range 32).filter fun d => (s.cluster d).peer == some cl).foldl
        (fun s d => State.thaw s k d fun c => { c with peer := none }) s

/-- The stalled cluster that a list of pad keys reaches. -/
def State.stalledAt (s : State) (keys : List Nat) : Option Nat :=
  (keys.filterMap fun k => if 2 ^ 44 ≤ k ∧ k < 2 ^ 45 then some ((k - 2 ^ 44) / 2 ^ 24) else none).find? fun c =>
    (s.cluster c).frozen

def Access.keys (a : Access) : List Nat :=
  a.lanes.filterMap fun l => match l.loc with
    | .pad k => if l.withheld then none else some k
    | .main .. => none

/-- An access of a cluster to a stalled peer stalls its own cluster. -/
def State.behindPeer (s : State) (cl : Nat) (keys : List Nat) : Option State :=
  match s.stalledAt keys with
  | some d => if d = cl then none else some (s.freeze cl fun c => { c with peer := some d })
  | none => none

/-! ## Late items (19 R354) -/

/-- The boundary that ends the round under way falls in this cycle of the counter. -/
def State.atBoundary (s : State) (cl sl : Nat) : Bool :=
  decide ((s.slice cl sl).c0 + (s.slice cl sl).len (s.cluster cl).pass ≤ s.cycle cl)

/-- A class-0 access to main memory that is late at the boundary of its slice. -/
def State.accLate (s : State) (a : Access) : Bool :=
  !a.cls1 && !a.abandoned && !a.effected && a.mainSpace && s.atBoundary a.cl a.sl
    && decide (a.round + a.lat ≤ (s.slice a.cl a.sl).round + 1)

/-- A class-0 card with a late chunk: one with a main-memory footprint. -/
def State.cardLate (s : State) (c : Card) : Bool :=
  !c.cls1 && c.started && !c.finished && ((c.dest :: c.reads).any fun r => r.sp == .main)
    && s.atBoundary c.cl c.sl && c.pipe.any fun p => decide (c.wrRound p.c ≤ (s.slice c.cl c.sl).round)

def State.late (s : State) (cl : Nat) : Bool :=
  (s.accs.any fun a => a.cl == cl && s.accLate a) || s.cards.any fun c => c.cl == cl && s.cardLate c

/-- A late chunk at an access to main memory. It goes on while its cluster stands still; one at a pad access waits for the counter
(14 R292; 19 R355). -/
def State.chunkAbsent (s : State) (c : Card) (p : Chunk) : Bool :=
  s.cardLate c && decide (c.wrRound p.c ≤ (s.slice c.cl c.sl).round) && (c.phase p).1 == .main

def State.cardAbsent (s : State) (c : Card) : Bool := c.pipe.any (s.chunkAbsent c)

/-- A late item has yet to arrive. -/
def State.absent (s : State) (cl : Nat) : Bool :=
  (s.accs.any fun a => a.cl == cl && s.accLate a) || s.cards.any fun c => c.cl == cl && s.cardAbsent c

/-! ## The stall-as-unit (19 R355, R357) -/

/-- Stall cycles so far. -/
def State.stallCycles (s : State) (cl : Nat) : Nat :=
  match (s.cluster cl).stall with
  | some t => (s.now - t) / Config.cycle (s.cluster cl).clock
  | none => 0

/-- A stalled cluster whose late items have all arrived resumes in the cycle after this. -/
def State.noteReady (s : State) (cl : Nat) : State :=
  match (s.cluster cl).stall with
  | some t =>
    if (s.cluster cl).ready.isNone && !s.absent cl then
      s.updCluster cl fun c => { c with ready := some (t + (s.stallCycles cl + 1) * Config.cycle c.clock) }
    else s
  | none => s

def State.noteStalls (s : State) : State := (List.range 32).foldl State.noteReady s

/-- The partition that a cluster belongs to. -/
def State.partOf (s : State) (cl : Nat) : Option Nat :=
  (List.range 8).find? fun p => (s.part p).clusters.contains cl

def State.stallLimit (s : State) (cl : Nat) : Nat :=
  match s.partOf cl with
  | some p => (s.part p).stalllim
  | none => 2048

/-- A late access is abandoned: its wave's destination registers are marked. -/
def State.abandon (s : State) (a : Access) : State :=
  (s.updAcc a.id fun a => { a with abandoned := true }).updWave a.uid fun w =>
    { w with marks := (w.marks ++ a.regs).eraseDups }

/-- Every item of a cluster still late is abandoned; their number. A card whose block has ended keeps the code it ends with. -/
def State.abandonAll (s : State) (cl : Nat) : State × Nat :=
  let as := s.accs.filter fun a => a.cl == cl && s.accLate a
  let cs := s.cards.filter fun c => c.cl == cl && s.cardAbsent c
  (cs.foldl (fun s c => s.endCard c (c.stop.getD 0x22) 0) (as.foldl State.abandon s), as.length + cs.length)

/-- The stall of a cluster ends and is reported; whatever is late is abandoned. -/
def State.endStall (s : State) (cl : Nat) : State :=
  match (s.cluster cl).stall with
  | none => s
  | some _ =>
    let n := s.stallCycles cl
    let (s, k) := s.abandonAll cl
    (s.report ({ (default : Ev) with
        code := 0x0101, part := s.partOf cl, kind := 1, detail := [n, k] }.at cl 0 0)).thaw 32 cl
      fun c => { c with stall := none, ready := none }

def execStallResume (cl : Nat) (s : State) : Out State Fault Refusal :=
  .next (match (s.cluster cl).ready with
    | some t => if t ≤ s.now then s.endStall cl else s
    | none => s)

def execStallLimitExpiry (cl : Nat) (s : State) : Out State Fault Refusal :=
  .next (if (s.cluster cl).stall.isSome && decide (s.stallLimit cl ≤ s.stallCycles cl) then s.endStall cl else s)

/-! ## Round boundaries -/

/-- Pass count that the causes of R141 ask for. -/
def State.passDue (s : State) (cl ovr : Nat) : Nat :=
  (s.blocks.filter fun b => b.cl == cl && !b.retired).foldl (fun m b => max m (s.grd b).pace)
    (max (s.cluster cl).hostPass ovr)

/-- What a cluster round boundary changes: override, pass count and clock (23 R460). -/
def State.clusterBoundary (s : State) (cl cyc : Nat) : State :=
  let c := s.cluster cl
  let ovr := match c.overNext with | some (n, _) => n | none => c.ovr
  let s := match c.overNext with
    | some (n, cause) =>
      if n = c.ovr then s
      else s.report ({ (default : Ev) with code := 0x010E, die := cl / 8, kind := 11, detail := [cl, c.ovr, n, cause] })
    | none => s
  let pass := s.passDue cl ovr
  s.updCluster cl fun c =>
    { c with cyc0 := cyc, t0 := s.now, clock := c.clockNext, pass := pass, ovr := ovr, overNext := none }

/-- Every slice of a cluster opens a round in a cycle of its counter (01 R21). -/
def State.together (s : State) (cl cyc : Nat) : Bool :=
  (List.range 6).all fun k => (s.slice cl k).c0 == cyc || (s.slice cl k).c0 + (s.slice cl k).len (s.cluster cl).pass == cyc

/-- The ratio of a slice's next round. Ratio 2 begins only with a cluster round boundary, so that one comes in every 12p
cycles (01 R21, 23 R459; log 90). -/
def State.ratioAt (s : State) (cl sl cyc : Nat) : Nat :=
  let x := s.slice cl sl
  if x.ratioNext = 2 && !s.together cl cyc then x.ratio else x.ratioNext

/-- A release stall holds the counter at a boundary of a slice at which an item is late: the item's own stall begins (23 R466). -/
def State.lateInRelease (s : State) (cl sl : Nat) : Bool :=
  (s.cluster cl).release.isSome && (s.cluster cl).stall.isNone && s.atBoundary cl sl && s.late cl

/-- A slice's next round opens, unless an item is late or the cluster is stalled. A boundary that opens a round in every
slice of the cluster is one of the cluster. -/
def State.boundary (s : State) (n : Nat) : State :=
  let cl := n / 6
  let sl := n % 6
  let x := s.slice cl sl
  if 192 ≤ n then s
  else if s.lateInRelease cl sl then s.freeze cl fun c => { c with stall := some s.now }
  else if (s.cluster cl).frozen || !s.atBoundary cl sl then s
  else if s.late cl then s.freeze cl fun c => { c with stall := some s.now }
  else
    let cyc := x.c0 + x.len (s.cluster cl).pass
    let s := s.updSlice cl sl fun x =>
      { x with round := (x.round + 1) % 2 ^ 64, c0 := cyc, ratio := s.ratioAt cl sl cyc, gc := s.gc % 2 ^ 64, opened := s.now, turns := [] }
    if (List.range 6).all fun k => (s.slice cl k).c0 == cyc then s.clusterBoundary cl cyc else s

def execRoundBoundary (slice : Nat) (s : State) : Out State Fault Refusal := .next (s.boundary slice)

/-! ## Results (01 R19, R23) -/

/-- Result `i` of a wave arrives once its round has opened; waves that have left their slots follow the others. -/
def State.deliverAt (s : State) (wv i : Nat) : State :=
  match (s.waves ++ s.ended)[wv]? with
  | none => s
  | some w =>
    match w.pend[i]? with
    | none => s
    | some p =>
      if p.due ≤ s.round w then
        (s.updAny w.uid fun w => { w with pend := w.pend.eraseIdx i }).deliver w p
      else s

def execResultDelivery (wv i : Nat) (s : State) : Out State Fault Refusal := .next (s.deliverAt wv i)

/-! ## Class-0 accesses (06 R135, 13 R270) -/

/-- The round in which an access takes effect has come. -/
def State.accDue (s : State) (a : Access) : Bool := decide (a.round + a.lat ≤ (s.slice a.cl a.sl).round + 1)

def Access.atomic (a : Access) : Bool :=
  match accKind a.i with
  | some k => k.atomic
  | none => false

/-- A class-0 load or store takes effect; one that has leaves in its delivery round, a pad atomic with it. A number past
the accesses names the pad side of a tile transfer. -/
def State.accEffect (s : State) (i : Nat) : State :=
  match s.accs[i]? with
  | none => s.movePad (i - s.accs.length)
  | some a =>
    if a.cls1 then s
    else if a.effected then (if s.accOver a && !isRedx a.i then s.dropAcc a.id else s)
    else if a.atomic || !s.accDue a || !s.clear a then s
    else if !a.mainSpace && (s.cluster a.cl).frozen then s
    else match s.behindPeer a.cl a.keys with
      | some s => s
      | none => ((s.class0Effect a).readyAfter a).noteStalls

def execClass0AccessEffect (i : Nat) (s : State) : Out State Fault Refusal := .next (s.accEffect i)

/-- The chain of a pad atomic: every lane in ascending order. A REDX keeps its old values for its redirects. -/
def State.padChain (s : State) (i : Nat) : State :=
  match s.accs[i]? with
  | none => s
  | some a =>
    if a.cls1 || !a.atomic || a.effected || !s.accDue a || (s.cluster a.cl).frozen then s
    else match s.behindPeer a.cl a.keys with
      | some s => s
      | none =>
        if isRedx a.i then
          let (s, ls) := s.laneEffects a.i a.size (fun _ => true) a.lanes
          s.updAcc a.id fun a => { a with lanes := ls, effected := true }
        else s.class0Effect a

def execPadAtomicChain (i : Nat) (s : State) : Out State Fault Refusal := .next (s.padChain i)

/-- Pad bytes that the lanes of a REDX write at their targets. -/
def State.redirKeys (s : State) (a : Access) : List Nat :=
  a.lanes.filterMap fun l => (s.redirKey a.bid (redirOf l.aux)).map Prod.snd

/-- The redirects of a REDX whose updates have been made: every lane writes its target and arrives there; then the
mask bits of a pad REDX arrive, or the class-1 access completes. A target in a stalled cluster stalls the cluster of the
REDX behind it (19 R355, R356). -/
def State.redirects (s : State) (i : Nat) : State :=
  match s.accs[i]? with
  | none => s
  | some a =>
    if !isRedx a.i || !a.effected || (s.cluster a.cl).frozen then s
    else if let some u := s.behindPeer a.cl (s.redirKeys a) then u
    else
      let s := a.lanes.foldl (fun s l => s.redirect a l) (s.dropAcc a.id)
      if a.cls1 then
        match s.waveOf a.uid with
        | some w => ((a.writesTo w).foldl (fun s x => s.applyWr w x) s).settleFlags a.bid
        | none => s.settleFlags a.bid
      else if a.writes.isEmpty then s
      else s.updAny a.uid fun w =>
        { w with pend := w.pend ++ [⟨a.round + a.lat, a.act, a.regs, a.writes, [], none, [], 0, 0, none⟩] }

def execRedxRedirectWrite (i : Nat) (s : State) : Out State Fault Refusal := .next (s.redirects i)

/-! ## Cards -/

/-- Cluster-pad keys that a card's next read or write touches in the peer space. -/
def State.cardKeys (s : State) (c : Card) (st : CardStep) : List Nat :=
  let keys := fun (p : Chunk) => match c.phase p with
    | (sp, wr, as) => if sp != .peer then [] else as.filterMap fun a =>
        match (s.cardLook c sp (if wr then .write else .read) a).loc with | some (.pad k) => some k | _ => none
  match st with
  | .index p | .read p | .write p => keys p
  | _ => []

/-- The step of a card that is due. In a cluster that stands still only a late chunk's access to main memory goes on. -/
def State.stepIn (s : State) (c : Card) (reads : Bool) : Option CardStep :=
  let r := (s.slice c.cl c.sl).round
  if !(s.cluster c.cl).frozen || c.cancelled then s.cardStep c r reads
  else if (s.cluster c.cl).stall.isNone then none
  else match s.cardStep { c with pipe := c.pipe.filter (s.chunkAbsent c) } r reads with
    | some (.ask p) => some (.ask p)
    | some (.index p) => some (.index p)
    | some (.read p) => some (.read p)
    | some (.write p) => if c.pipe.head? = some p then some (.write p) else none
    | _ => none

/-- The next step of a card that is due, reads before writes. -/
def State.dueStep (s : State) (c : Card) : Option CardStep := (s.stepIn c true).orElse fun _ => s.stepIn c false

/-- The card event of an engine. A chunk that names a stalled peer stalls its own cluster (19 R356). -/
def State.cardEvent (s : State) (i kind : Nat) : State :=
  match s.cards[i]? with
  | none => s
  | some c =>
    if c.kind != kind then s
    else match s.dueStep c with
      | none => s
      | some st =>
        match s.behindPeer c.cl (s.cardKeys c st) with
        | some s => s
        | none => (s.runCard c st).noteStalls

def execCopyChunk (i : Nat) (s : State) : Out State Fault Refusal := .next (s.cardEvent i 1)
def execGatherChunk (i : Nat) (s : State) : Out State Fault Refusal := .next (s.cardEvent i 2)
def execDigestChunk (i : Nat) (s : State) : Out State Fault Refusal := .next (s.cardEvent i 3)

/-! ## Matrix events -/

/-- A span of cluster `i`, or from 32 on the latching of an operation's operands. -/
def execEngineSpan (i : Nat) (proofFails : List Nat) (s : State) : Out State Fault Refusal :=
  .next (if i < 32 then s.spanEvent i proofFails else s.latchMma (i - 32))

/-- A tile update of an operation, or the tile side of a transfer (its number follows those of the operations). -/
def execTileUpdate (i : Nat) (s : State) : Out State Fault Refusal :=
  .next (if i < s.mmas.length then s.mmaUpdate i else s.moveTile (i - s.mmas.length))

/-! ## The elastic deadline (07 R147) -/

/-- The exit round of a wave's region: the region closes, and late paths trap. That of a saved wave counts no rounds (19 R387). -/
def State.elasticExit (s : State) (wv : Nat) : State :=
  match s.waves[wv]? with
  | none => s
  | some w =>
    match w.region with
    | none => s
    | some g =>
      if w.saved || w.started.isNone || decide (s.round w < g.exit) then s
      else
        let s := s.updWave w.uid fun w => { w with region := none }
        let late := maskOf fun l => (w.th l).status == .run && !(w.th l).standsAt ⟨g.hdr, g.depth, 0⟩
        if late = 0 then s
        else
          let a := (w.th (lowLane late)).pc
          s.enterHandler w.uid late (fun _ => 0x0B) (fun _ => a) (fun _ => a) none

def execElasticDeadline (wv : Nat) (s : State) : Out State Fault Refusal := .next (s.elasticExit wv)

/-! ## Grid-wide releases (23 R466) -/

/-- Clusters of a grid on which a generation was completed in the latest completing cycle. -/
def State.doneClusters (s : State) (gid : Nat) : List Nat :=
  sortNat ((s.completed.filter fun d => d.gid == gid).map fun d => d.cl).eraseDups

/-- The phase s of a grid-wide release: the new generation of the lowest barrier of the lowest cluster. -/
def State.releasePhase (s : State) (gid cl : Nat) : Nat :=
  let ds := s.completed.filter fun d => d.gid == gid && d.cl == cl
  let b := (sortNat (ds.map fun d => d.bar)).headD 0
  ((ds.find? fun d => d.bar == b).map fun d => d.gen % 8).getD 0

/-- The cycle after a grid-wide release: its clusters are held, group by group. -/
def State.beginRelease (s : State) : State :=
  let gids := (s.completed.map fun d => d.gid).eraseDups
  let s := gids.foldl (fun s g =>
    let cs := s.doneClusters g
    if cs.length < 5 then s
    else
      let ph := s.releasePhase g (cs.headD 0)
      cs.foldl (fun s cl =>
        let n := 64 * ((cl / 4 + 8 - ph) % 8)
        if n = 0 then s
        else s.freeze cl fun c => { c with release := some (s.now + n * Config.cycle c.clock) }) s) s
  { s with completed := [] }

def execReleaseStallEnd (cl : Nat) (s : State) : Out State Fault Refusal :=
  .next (match (s.cluster cl).release with
    | some t => if t ≤ s.now then s.thaw 32 cl fun c => { c with release := none } else s
    | none => s)

end Sys2Proof.Machine
end

