-- ==== Sys2Proof/Machine/Memory.lean ====
section
/-! DEFINITION. Main memory (12): dispatch, slot service, errors and their retries, refresh, channel width,
re-imposition sweeps, page-walk reads (11 R219) and die links (20 R394). -/

namespace Sys2Proof.Machine

/-! ## Pseudo-channels (11 R232, 12 R237, R238) -/

/-- A pseudo-channel as the configuration records leave it. The class-1 rotation begins after partition 0 (log 110). -/
def State.freshChan (s : State) : Chan :=
  { table := s.flash.slots, tableNext := s.flash.slots, next := 0, spare := false, rot := 0, half := false, halfNext := false
    correctable := 0, retried := 0, uncorrectable := 0 }

def State.chan (s : State) (pc : Nat) : Chan := (s.mem.chans.get none pc).getD s.freshChan

def State.updChan (s : State) (pc : Nat) (f : Chan → Chan) : State :=
  { s with mem := { s.mem with chans := s.mem.chans.set none pc (some (f (s.chan pc))) } }

/-- The slot of the present time. -/
def State.slotNow (s : State) : Nat := s.now / Config.memSlot

/-- Entry of a slot: kind, owner, donate. -/
def Chan.entry (c : Chan) (k : Nat) : Nat × Nat × Bool :=
  let v := (c.table[k % 64]?.getD 0).toNat
  (fld v 6 2, fld v 3 3, odd (fld v 2 1))

/-- Event 0x0103: the counts of a pseudo-channel, as one of them changes (log 27). -/
def State.reportCounts (s : State) (pc : Nat) : State :=
  s.report (chanEv 0x0103 pc [(s.chan pc).correctable, (s.chan pc).retried, (s.chan pc).uncorrectable])

/-! ## Requests (12 R251) -/

def Req.granule (r : Req) : Nat := r.addr / 512

/-- The access, wave or chunk that a request serves. -/
def Req.user (r : Req) : Nat := match r.walk with | some (u, _, _) => u | none => r.acc

/-- The grid of a request. -/
def State.reqGrid (s : State) (r : Req) : Option Nat :=
  match r.walk with
  | some (uid, _, _) => ((s.waveOf uid).map fun w => (s.blk w).gid).orElse fun _ =>
      (s.cards.find? fun c => c.pipe.any fun p => p.id == uid).map Card.gid
  | none =>
    match s.accOf r.acc with
    | some a => some a.gid
    | none => (s.cards.find? fun c => c.pipe.any fun p => p.id == r.acc).map Card.gid

/-- A request's tag is no longer that of its granule's home: it is dispatched again. -/
def Mem.stale (m : Mem) (r : Req) : Bool :=
  match r.tag with
  | none => false
  | some (g, _, _) =>
    match m.sweep with
    | some sw => g == m.gen && decide (sw.f < r.granule)
    | none => g != m.gen

def State.setReq (s : State) (i : Nat) (r : Req) : State := { s with mem := { s.mem with reqs := s.mem.reqs.set i r } }
def State.dropReq (s : State) (r : Req) : State := { s with mem := { s.mem with reqs := s.mem.reqs.erase r } }

/-- Lanes of an access within a request's bytes. -/
def Req.takes (r : Req) (l : LaneAcc) : Bool :=
  match l.loc with
  | .main pa _ => decide (r.addr ≤ pa) && decide (pa < r.addr + r.len)
  | .pad _ => false

/-- A request that can deliver nothing: its lanes read zero and write nothing. -/
def State.voidReq (s : State) (r : Req) : State :=
  if r.walk.isSome then s.dropReq r
  else (s.dropReq r).updAcc r.acc fun a =>
    { a with lanes := a.lanes.map fun l => if r.takes l && !l.done then { l with done := true } else l }

/-- The capacity fault (12 R252). -/
def State.capFault (s : State) (r : Req) : State :=
  let g := s.reqGrid r
  let s := s.voidReq r
  match g with
  | some g => (s.endContext g (unitEv 0x0006 (r.cl / 8) [r.granule])).loseCard r.user
  | none => s

/-- The accesses before a class-1 one that hold it back have taken effect (06 R137). -/
def State.unheld (s : State) (r : Req) : Bool :=
  match (if r.walk.isNone then s.accOf r.acc else none) with
  | some a => !a.cls1 || a.after.all fun id => match s.accOf id with | some e => e.effected | none => true
  | none => true

/-- The first read of a card has been dispatched (17 R323). -/
def State.beginCard (s : State) (r : Req) : State :=
  if r.walk.isSome || r.write then s
  else { s with cards := s.cards.map fun (c : Card) => if (c.pipe.any fun p => p.id == r.acc) then { c with begun := true } else c }

/-- A memory-side unit tags a request and sends it to its home; one whose tag has gone stale, a pending retry among them, is
replayed there, and its next read counts as its first (log 111). -/
def State.dispatch (s : State) (i : Nat) : State :=
  match s.mem.reqs[i]? with
  | none => s
  | some r =>
    if (r.tag.isSome && !s.mem.stale r) || r.read || !s.unheld r then s
    else if s.mem.cap ≤ r.addr then s.capFault r
    else
      match s.mem.sweep with
      | none =>
        let h := home s.mem.live r.granule
        (s.setReq i { r with tag := some (s.mem.gen, h.1, h.2), retry := false, again := [] }).beginCard r
      | some sw =>
        if r.granule = sw.f then s.setReq i { r with tag := none, retry := false, again := [] }
        else
          let h := s.mem.homeNow r.granule
          (s.setReq i { r with
            tag := some (s.mem.gen + (if sw.f < r.granule then 1 else 0), h.1, h.2), retry := false, again := [] }).beginCard r

def execMemoryRequestDispatch (i : Nat) (s : State) : Out State Fault Refusal := .next (s.dispatch i)

/-! ## Serving a request -/

/-- Drops every cached translation of an ASID for the page of an intermediate address. -/
def State.dropTlb (s : State) (asid ia : Nat) : State :=
  let here := fun (level a : Nat) => level == 3 && a == ia / 2 ^ levelShift 3
  s.dropWalks asid (fun e => !(e.asid == asid && here e.level e.ia)) fun h => !here h.level h.ia

/-- DSCD on one leaf that its walk found of type 10: a field that still reads 10 becomes 11, and the page's translations
are dropped (13 R265). -/
def State.discard (s : State) (asid : Nat) (l : LaneAcc) : State :=
  let v := s.readLoc l.loc 8
  (if v % 4 = 2 then s.writeLoc l.loc 8 (v + 1) else s).dropTlb asid l.aux

/-- The lanes of a class-1 access that a request covers take effect. -/
def State.reqLanes (s : State) (a : Access) (r : Req) : State :=
  match a.i with
  | .dscd _ =>
    let s := (a.lanes.filter fun l => r.takes l && !l.done).foldl (fun s l => s.discard a.asid l) s
    s.updAcc a.id fun a => { a with lanes := a.lanes.map fun l => if r.takes l then { l with done := true } else l }
  | _ =>
    let (s, ls) := s.laneEffects a.i a.size (fun l => r.takes l && !l.done) a.lanes
    s.updAcc a.id fun a => { a with lanes := ls }

/-- A request delivered: a class-1 access acts on its bytes; a walk's entry is ready. -/
def State.reqEffect (s : State) (r : Req) : State :=
  if r.walk.isSome then
    { s with mem := { s.mem with reqs := s.mem.reqs.map fun q => if q == r then { q with retry := false, read := true } else q } }
  else
    match s.accOf r.acc with
    | none => s.dropReq r
    | some a =>
      if !a.cls1 then s.dropReq r
      else
        let s := (s.reqLanes a r).dropReq r
        if s.served a.id then (s.updAcc a.id fun a => { a with effected := true }).readyAfter a else s

/-- The 32-byte atoms of a request, by physical address / 32, and the key of one. -/
def Req.atoms (r : Req) : List Nat := (List.range ((r.addr % 32 + r.len + 31) / 32)).map fun j => r.addr / 32 + j
def Mem.atomKey (m : Mem) (n : Nat) : Nat := m.key (32 * n)

/-- Physical addresses that a request writes: those of an access's lanes, or all of a card's request. -/
def State.writesByte (s : State) (r : Req) (pa : Nat) : Bool :=
  match s.accOf r.acc with
  | some a => a.lanes.any fun l => match l.loc with
    | .main p _ => !l.withheld && decide (p ≤ pa) && decide (pa < p + a.size)
    | .pad _ => false
  | none => decide (r.addr ≤ pa) && decide (pa < r.addr + r.len)

/-- Atoms that a write covers only in part. -/
def State.partAtoms (s : State) (r : Req) : List Nat :=
  r.atoms.filter fun n => !(List.range 32).all fun o => s.writesByte r (32 * n + o)

/-- A request of an atomic, which reads all that it may write. -/
def State.reqAtomic (s : State) (r : Req) : Bool :=
  match (if r.walk.isNone then s.accOf r.acc else none) with
  | some a => a.atomic
  | none => false

/-- Atoms that a request reads: all of a read's or an atomic's; those that a write covers in part. -/
def State.readAtoms (s : State) (r : Req) : List Nat :=
  if r.write && !s.reqAtomic r then s.partAtoms r else r.atoms

/-- Atoms that its next transfer reads: those of a retry alone, or all. -/
def State.nextAtoms (s : State) (r : Req) : List Nat :=
  if r.retry then (s.readAtoms r).filter fun n => r.again.contains n else s.readAtoms r

/-- The uncorrectable outcome: nothing delivered or written, the atoms whose read failed left poisoned by a write, the
context ended. -/
def State.uncorrectable (s : State) (pc : Nat) (r : Req) (lost more : List Nat) : State :=
  let bad := if r.write then lost.map s.mem.atomKey else []
  let g := s.reqGrid r
  let s := { s with mem := { s.mem with poison := (bad ++ s.mem.poison).eraseDups } }
  let s := ((s.voidReq r).updChan pc fun c => { c with uncorrectable := c.uncorrectable + 1 }).reportCounts pc
  let s := if r.walk.isSome then s else s.updAcc r.acc fun a =>
    { a with lanes := a.lanes.map fun l => if r.takes l then { l with withheld := true } else l }
  match g with
  | some g => (s.endContext g (chanEv 0x0005 pc (r.granule :: more))).loseCard r.user
  | none => s

/-- A request served in a slot, with what the read of each of its atoms finds, in their order (log 95). The atoms with a detected
error are retried once, all together. -/
def State.serveReq (s : State) (pc : Nat) (r : Req) (ecc : List Ecc) : State :=
  let found := (s.nextAtoms r).zipIdx.map fun x => (x.1, ecc.getD x.2 .good)
  let lost := (found.filter fun x => x.2 == .poison || (r.retry && x.2 == .detected)).map Prod.fst
    ++ (s.readAtoms r).filter fun n => s.mem.poison.contains (s.mem.atomKey n)
  if !lost.isEmpty then s.uncorrectable pc r lost.eraseDups []
  else
    let fixed := (found.filter fun x => x.2 == .correctable).length
    let again := (found.filter fun x => x.2 == .detected).map Prod.fst
    let s := if fixed = 0 && again.isEmpty then s
      else (s.updChan pc fun c =>
        { c with correctable := c.correctable + fixed, retried := c.retried + bit !again.isEmpty }).reportCounts pc
    if !again.isEmpty then
      { s with mem := { s.mem with
        reqs := s.mem.reqs.map fun q => if q == r then { q with retry := true, again := again } else q } }
    else
      let whole := if r.write then (r.atoms.filter fun n => !(s.readAtoms r).contains n).map s.mem.atomKey else []
      { s with mem := { s.mem with poison := s.mem.poison.filter fun k => !whole.contains k } }.reqEffect r

/-! ## Claiming a slot (11 R233) -/

/-- Requests waiting at a pseudo-channel for a slot. -/
def State.waitingAt (s : State) (pc : Nat) : List Req :=
  s.mem.reqs.filter fun r => match r.tag with
    | some (_, p, _) => p == pc && !r.retry && !r.read && !s.mem.stale r &&
        !(match s.mem.sweep with | some sw => r.granule == sw.f | none => false)
    | none => false

/-- Age of a request: issue time, cluster, slice. -/
def Req.age (r : Req) : Nat := r.time * 192 + 6 * r.cl + r.sl

def insertReq (r : Req) : List Req → List Req
  | [] => [r]
  | q :: qs => if r.age < q.age then r :: q :: qs else q :: insertReq r qs

/-- Oldest first; requests of one age keep their order. -/
def sortReqs (rs : List Req) : List Req := rs.foldl (fun l r => insertReq r l) []

/-- As many of the oldest requests as 128 bytes hold. -/
def takeBytes : Nat → List Req → List Req
  | _, [] => []
  | n, r :: rs => if r.len ≤ n then r :: takeBytes (n - r.len) rs else []

def insertAddr (r : Req) : List Req → List Req
  | [] => [r]
  | q :: qs => if r.addr < q.addr then r :: q :: qs else q :: insertAddr r qs

/-- What a slot carries of a class and partition, in ascending physical address. -/
def State.pick (s : State) (pc part : Nat) (cls1 : Bool) : List Req :=
  (takeBytes 128 (sortReqs ((s.waitingAt pc).filter fun r => r.part == part && r.cls1 == cls1))).foldl
    (fun l r => insertAddr r l) []

/-- Whether the running sweep has a transfer at a pseudo-channel. -/
def State.sweepAt (s : State) (pc : Nat) : Bool :=
  match s.mem.sweep with
  | some sw =>
    let a := home s.mem.live sw.f
    let b := home sw.live sw.f
    a != b && decide (sw.xfers < 8) && (if sw.xfers < 4 then a.1 == pc else b.1 == pc && sw.checked && sw.again.isEmpty)
  | none => false

/-- What a slot or spare transfer goes to. -/
inductive Claim where
  | idle | sweep
  | reqs (part : Nat) (rot : Bool) (rs : List Req)
  deriving DecidableEq, Repr

/-- Class 1 of the partitions, in rotation from the one after that served last; `skip` is left out. -/
def State.rotation (s : State) (pc : Nat) (skip : Option Nat) : Claim :=
  match ((List.range 8).map fun k => ((s.chan pc).rot + 1 + k) % 8).find? fun p =>
      some p != skip && !(s.pick pc p true).isEmpty with
  | some p => .reqs p true (s.pick pc p true)
  | none => .idle

/-- The first claimant of a slot of a kind; a spare transfer leaves class 0 out. -/
def State.claim (s : State) (pc kind owner : Nat) (donate spare : Bool) : Claim :=
  match kind with
  | 1 =>
    if !spare && !(s.pick pc owner false).isEmpty then .reqs owner false (s.pick pc owner false)
    else if !(s.pick pc owner true).isEmpty then .reqs owner false (s.pick pc owner true)
    else if !donate then .idle
    else if s.sweepAt pc then .sweep
    else s.rotation pc (some owner)
  | 2 => .idle
  | _ => if s.sweepAt pc then .sweep else s.rotation pc none

/-- Requests served in one transfer, each with what the reads of its atoms find. -/
def State.serveAll (s : State) (pc : Nat) : List Req → List Ecc → State
  | [], _ => s
  | r :: rs, es => (s.serveReq pc r es).serveAll pc rs (es.drop (s.nextAtoms r).length)

/-- A claimant served. -/
def State.serveClaim (s : State) (pc : Nat) (ecc : List Ecc) : Claim → State
  | .idle => s
  | .sweep => { s with mem := { s.mem with
      sweep := s.mem.sweep.map fun (sw : Sweep) => { sw with xfers := sw.xfers + 1 } } }
  | .reqs p rot rs => (if rot then s.updChan pc fun c => { c with rot := p } else s).serveAll pc rs ecc

/-- Atoms that a claim reads. -/
def State.claimReads (s : State) : Claim → Nat
  | .reqs _ _ rs => (rs.map fun r => (s.nextAtoms r).length).sum
  | _ => 0

/-- The present slot of a pseudo-channel: its transfer, and at full width a spare one. `ecc` is what the reads of its requests'
atoms find, in the order in which they are served. -/
def State.slotService (s : State) (pc : Nat) (ecc : List Ecc) : State :=
  let k := s.slotNow
  let c := s.chan pc
  if k < c.next || !(s.mem.live.contains pc) then s
  else
    let (kind, owner, donate) := c.entry k
    let s := s.updChan pc fun c => { c with next := k + 1, spare := false }
    let first := s.claim pc kind owner donate false
    let n := s.claimReads first
    let s := s.serveClaim pc ecc first
    (if c.half then s else s.serveClaim pc (ecc.drop n) (s.claim pc kind owner donate true)).noteStalls

def execMemorySlotService (pc : Nat) (ecc : List Ecc) (s : State) : Out State Fault Refusal := .next (s.slotService pc ecc)

/-! ## Gutters (12 R238, R244, R245) -/

/-- The transfer of a gutter slot that is free now: the slot's own, with the one after it at full width (12 R238). -/
def State.gutterFree (s : State) (pc : Nat) : Bool :=
  s.mem.live.contains pc && ((s.chan pc).entry s.slotNow).1 == 2
    && (decide ((s.chan pc).next ≤ s.slotNow) || ((s.chan pc).spare && (s.chan pc).next == s.slotNow + 1))

/-- A transfer of the present gutter slot is taken. -/
def State.takeGutter (s : State) (pc : Nat) : State :=
  let k := s.slotNow
  s.updChan pc fun c => { c with next := k + 1, spare := decide (c.next ≤ k) && !c.half }

/-- The oldest pending retry of a pseudo-channel whose tag still holds and whose granule is not under the sweep. -/
def State.oldestRetry (s : State) (pc : Nat) : Option Req :=
  (sortReqs (s.mem.reqs.filter fun r => r.retry && !s.mem.stale r
    && !(match s.mem.sweep with | some sw => r.granule == sw.f | none => false)
    && match r.tag with | some (_, p, _) => p == pc | none => false)).head?

/-- The sweep's reads of one transfer that wait for their retry at a pseudo-channel: atoms of the granule at F (12 R245,
R250). -/
def State.sweepAgain (s : State) (pc : Nat) : List Nat :=
  match s.mem.sweep with
  | some sw => if (home s.mem.live sw.f).1 == pc then sw.again.filter fun j => j / 4 == sw.again.headD 0 / 4 else []
  | none => []

/-- The retry of some of them: an atom with an error that can't be corrected is lost. -/
def State.sweepRetry (s : State) (pc : Nat) (js : List Nat) (ecc : List Ecc) : State :=
  let bad := (js.zipIdx.filter fun x => match ecc.getD x.2 .good with | .detected | .poison => true | _ => false).map Prod.fst
  let fixed := (js.zipIdx.filter fun x => ecc.getD x.2 .good == .correctable).length
  let s := { s with mem := { s.mem with sweep := s.mem.sweep.map fun (sw : Sweep) =>
    { sw with again := sw.again.filter (fun j => !js.contains j), lost := sw.lost ++ bad } } }
  if fixed = 0 && bad.isEmpty then s
  else (s.updChan pc fun c =>
    { c with correctable := c.correctable + fixed, uncorrectable := c.uncorrectable + bit !bad.isEmpty }).reportCounts pc

/-- A gutter slot goes to the oldest pending retry, or to one of the sweep; `ecc` is what the reads of its atoms find. -/
def State.eccRetry (s : State) (pc : Nat) (ecc : List Ecc) : State :=
  if !s.gutterFree pc then s
  else match s.oldestRetry pc with
    | some r => ((s.takeGutter pc).serveReq pc r ecc).noteStalls
    | none => match s.sweepAgain pc with
      | [] => s
      | js => (s.takeGutter pc).sweepRetry pc js ecc

def execEccRetry (pc : Nat) (ecc : List Ecc) (s : State) : Out State Fault Refusal := .next (s.eccRetry pc ecc)

/-- A refresh takes a transfer of a gutter slot; it changes no data. -/
def execRefresh (pc : Nat) (s : State) : Out State Fault Refusal :=
  .next (if s.gutterFree pc then s.takeGutter pc else s)

/-! ## Periods and width (12 R237, R238) -/

/-- A period boundary: table and width changes take effect, and a change of width is reported for its channel. -/
def State.period (s : State) (pc : Nat) : State :=
  let c := s.chan pc
  let s := s.updChan pc fun c => { c with table := c.tableNext, half := c.halfNext }
  if c.half == c.halfNext || pc % 2 == 1 then s
  else s.report (chanEv 0x0104 pc [pc / 2, bit c.halfNext])

def execSlotTablePeriod (pc : Nat) (s : State) : Out State Fault Refusal := .next (s.period pc)

/-- Both pseudo-channels of a channel change width at the next period boundary. -/
def State.setWidth (s : State) (ch : Nat) (half : Bool) : State :=
  (s.updChan (2 * ch) fun c => { c with halfNext := half }).updChan (2 * ch + 1) fun c => { c with halfNext := half }

/-- A lane fault of a channel drops it to half width. -/
def State.laneFault (s : State) (ch : Nat) : State :=
  { s with mem := { s.mem with laneFaults := (ch :: s.mem.laneFaults).eraseDups } }.setWidth ch true

def execChannelHalfWidth (ch : Nat) (s : State) : Out State Fault Refusal := .next (s.laneFault ch)

/-- A stack's temperature code lies above its threshold. -/
def State.hotStack (s : State) (k : Nat) : Bool :=
  decide (fld s.host.templim.toNat 0 8 < (s.host.temps[32 + k]?.getD 0).toNat)

/-- A cause of half width persists at a channel. -/
def State.halfCause (s : State) (ch : Nat) : Bool := s.mem.laneFaults.contains ch || s.hotStack (ch / 32)

/-- Every channel of a hot stack drops to half width. -/
def State.coolStacks (s : State) : State :=
  ((List.range 8).filter s.hotStack).foldl (fun s k =>
    (List.range 32).foldl (fun s c => s.setWidth (32 * k + c) true) s) s

/-! ## Die links (20 R394) -/

/-- The retry of a flit that carries a request between the die of its cluster and the die of its home: on a second
failure the uncorrectable outcome, with the link's dies. -/
def State.linkRetry (s : State) (i : Nat) (ok : Bool) : State :=
  match s.mem.reqs[i]? with
  | none => s
  | some r =>
    match r.tag with
    | none => s
    | some (_, p, _) => if ok then s else (s.uncorrectable p r [] [r.cl / 8, p / 128]).noteStalls

def execDieLinkRetry (i : Nat) (ok : Bool) (s : State) : Out State Fault Refusal := .next (s.linkRetry i ok)

/-! ## The sweep (12 R248 to R250, R255) -/

/-- Atoms of a granule at a key. -/
def granuleAtoms (k : Nat) : List Nat := (List.range 16).map fun j => k + 32 * j

/-- The granule moves: 512 bytes, with the atoms that are lost. -/
def Mem.moveGranule (m : Mem) (src dst : Nat) (lost : List Nat) : Mem :=
  { m.write dst (m.read src 512) with
    poison := (lost.map fun j => dst + 32 * j) ++ m.poison.filter fun k => !(granuleAtoms dst).contains k }

/-- An event of the sweep engine on the die of a pseudo-channel, numbered as its die (log 112). -/
def sweepEv (code pc : Nat) (detail : List Nat) : Ev := { unitEv code (pc / 128) detail with unit := pc / 128 }

/-- The four reads of the granule at F have been made; `ecc` says what its atoms' first reads found (12 R245): a poisoned atom is
lost, and one with a detected error waits for its retry. -/
def State.sweepCheck (s : State) (sw : Sweep) (ecc : List Ecc) : State :=
  let a := home s.mem.live sw.f
  let lost := (List.range 16).filter fun j =>
    s.mem.poison.contains (homeKey a.1 a.2 + 32 * j) || ecc.getD j .good == .poison
  let again := (List.range 16).filter fun j => !lost.contains j && ecc.getD j .good == .detected
  let fixed := ((List.range 16).filter fun j => !lost.contains j && ecc.getD j .good == .correctable).length
  let xfers := fun (js : List Nat) => (js.map fun j => j / 4).eraseDups.length
  let s := { s with mem := { s.mem with sweep := some { sw with checked := true, again := again, lost := lost } } }
  if fixed = 0 && again.isEmpty && lost.isEmpty then s
  else (s.updChan a.1 fun c =>
    { c with
      correctable := c.correctable + fixed, retried := c.retried + xfers again
      uncorrectable := c.uncorrectable + xfers lost }).reportCounts a.1

/-- The sweep ends: the new live list stands alone. -/
def State.sweepEnd (s : State) (sw : Sweep) : State :=
  ({ s with mem := { s.mem with live := sw.live, gen := (s.mem.gen + 1) % 2 ^ 31, sweep := none } }).report
    (sweepEv 0x0107 (home sw.live sw.f).1 [sw.moved, sw.poisoned, (s.mem.gen + 1) % 2 ^ 31])

/-- The granule at F: its reads are judged once made; it has moved once its writes have had their slots, and is passed over where
its homes agree. -/
def State.sweepStep (s : State) (ecc : List Ecc) : State :=
  match s.mem.sweep with
  | none => s
  | some sw =>
    let a := home s.mem.live sw.f
    let b := home sw.live sw.f
    if a != b && sw.xfers == 4 && !sw.checked then s.sweepCheck sw ecc
    else if a != b && decide (sw.xfers < 8) then s
    else
      let s := if a = b then s
        else { s with mem := s.mem.moveGranule (homeKey a.1 a.2) (homeKey b.1 b.2) sw.lost }
      let s := if sw.lost.isEmpty then s else s.report (sweepEv 0x0106 a.1 [sw.f])
      let sw := { sw with
        moved := sw.moved + bit (a != b), poisoned := sw.poisoned + bit !sw.lost.isEmpty, xfers := 0, checked := false
        again := [], lost := [] }
      if sw.f = 0 then s.sweepEnd sw
      else { s with mem := { s.mem with sweep := some { sw with f := sw.f - 1 } } }

def execSweepGranule (ecc : List Ecc) (s : State) : Out State Fault Refusal := .next (s.sweepStep ecc)

/-! ## Page walks (11 R219, R220) -/

/-- The entry of a walk reaches the wave or card that waits for it, and the die's cache unless it is of type 00 or malformed. -/
def State.walkRead (s : State) (i : Nat) : State :=
  match s.mem.reqs[i]? with
  | none => s
  | some r =>
    match r.walk with
    | none => s
    | some (uid, ia, level) =>
      if !r.read then s
      else
        let s := s.dropReq r
        let pte := BitVec.ofNat 64 (s.mem.word r.addr 8)
        let hit : WalkHit := ⟨ia / 2 ^ levelShift level, level, pte⟩
        let s := s.updWave uid fun w => { w with walked := hit :: w.walked }
        let s := { s with cards := s.cards.map fun (c : Card) =>
          if (c.pipe.any fun p => p.id == uid) then { c with walked := hit :: c.walked } else c }
        if pte.toNat % 4 = 0 || pteBad s.mem.cap level pte.toNat then s
        else { s with mem := { s.mem with
          tlb := ⟨r.cl / 8, r.asid, level, ia / 2 ^ levelShift level, pte⟩ :: s.mem.tlb } }

def execPageWalkRead (i : Nat) (s : State) : Out State Fault Refusal := .next (s.walkRead i)

end Sys2Proof.Machine
end

