-- ==== Sys2Proof/Machine/Pages.lean ====
section
/-! DEFINITION. Class-1 accesses as they complete (06 R135), page service (11 R226 to R230; 23 R474), mapping fences, and
the close of ordered windows (13 R279, R280). -/

namespace Sys2Proof.Machine

/-! ## Class-1 completion -/

def isPgreq : Instr → Bool | .pgreq .. => true | _ => false
def isOrdfl : Instr → Bool | .ordfl .. => true | _ => false

/-- A RED that its grid collects. -/
def Access.collected (a : Access) : Bool := !a.wnum.isEmpty && !isOrdfl a.i

/-- Everything that a class-1 access waits for has happened. -/
def State.completes (s : State) (a : Access) : Bool :=
  if isPgreq a.i then
    a.effected && match s.asid a.asid with
      | some e => !e.recs.any fun r => r.acc == a.id
      | none => true
  else if isOrdfl a.i then a.effected
  else s.served a.id

/-- Data, mask bits and the flag of a completed access. A main-memory REDX first makes its redirects. -/
def State.completeAcc (s : State) (i : Nat) : State :=
  match s.accs[i]? with
  | none => s
  | some a =>
    if !a.cls1 || !s.completes a then s
    else if isRedx a.i then s.updAcc a.id fun a => { a with effected := true }
    else
      let s := if a.collected then s.collectAll a else s
      let s := s.dropAcc a.id
      let s := match s.waveOf a.uid with
        | some w => (a.writesTo w).foldl (fun (s : State) x => s.applyWr w x) s
        | none => s
      s.settleFlags a.bid

def execClass1Completion (i : Nat) (s : State) : Out State Fault Refusal := .next (s.completeAcc i)

/-! ## Fault records (11 R226, R227) -/

/-- A PGREQ taken by the arbiter hands its records over, one a page in ascending virtual address. -/
def State.postRequest (s : State) (id : Nat) : State :=
  match s.accOf id with
  | none => s
  | some a =>
    let wr := match a.i with | .pgreq w _ => w | _ => false
    let rs := a.lanes.map fun l =>
      ({ seq := 0, vpage := l.data / 65536, ipage := l.aux / 65536, gid := a.gid, window := l.got, write := wr
         discarded := false, mapgen := 0, posted := false, compl := none, acc := id } : FaultRec)
    (s.updAsid a.asid fun e => { e with recs := e.recs ++ rs }).updAcc id fun a => { a with effected := true }

/-- The walk of a page as memory holds the tables; an entry in a poisoned atom is not delivered. -/
def State.postWalk (s : State) (root ia : Nat) : Walk :=
  walkFrom (fun _ a => if a + 8 ≤ s.mem.cap && !s.mem.lostPa a 8 then some (s.mem.word a 8) else none) s.mem.cap ia 3 root

/-- Its leaf is of type 11. -/
def State.isDiscarded (s : State) (root ia : Nat) : Bool :=
  match s.postWalk root ia with
  | .discarded .. => true
  | _ => false

/-- The granule of the poisoned entry that it met. -/
def State.postLost (s : State) (root ia : Nat) : Option Nat :=
  match s.postWalk root ia with
  | .malformed a _ _ => if s.mem.lostPa a 8 then some (a / 512) else none
  | _ => none

def FaultRec.bits (r : FaultRec) (asid : Nat) : Nat :=
  r.vpage * 2 ^ 208 + r.seq % 2 ^ 32 * 2 ^ 160 + asid * 2 ^ 147 + r.window * 2 ^ 143 + bit r.write * 2 ^ 142
    + bit r.discarded * 2 ^ 141 + r.mapgen * 2 ^ 64 + r.ipage * 2 ^ 16

/-- The slot of the next record is free: its last record has been served. -/
def AsidSt.slotFree (e : AsidSt) : Bool :=
  !e.recs.any fun r => r.posted && r.seq % 2 ^ e.fqn == e.prod % 2 ^ e.fqn

/-- The first record held is written to the queue. -/
def State.postRecord (s : State) (asid : Nat) : State :=
  match s.asid asid with
  | none => s
  | some e =>
    match e.recs.find? fun r => !r.posted with
    | none => s
    | some r =>
      if !e.slotFree then s
      else
        let q := { r with
          seq := e.prod, posted := true, discarded := s.isDiscarded e.root (r.ipage * 65536)
          mapgen := match s.gridOf r.gid with | some g => g.mapgen | none => 0 }
        let at' := e.fqbase + 32 * (e.prod % 2 ^ e.fqn)
        let lost := s.postLost e.root (r.ipage * 65536)
        let s := s.updAsid asid fun e =>
          { e with recs := modifyFirst (fun r => !r.posted) (fun _ => q) e.recs, prod := e.prod + 1 }
        let s := if s.mem.cap < at' + 32 then
            s.endContext r.gid (unitEv 0x0006 (((s.accOf r.acc).map fun a => a.cl / 8).getD 0) [at' / 512])
          else { s with mem := s.mem.writeMany at' (toBytes 32 (q.bits asid)) }
        match lost with
        | some g => s.poisonEnd r.gid g
        | none => s

def execFaultRecordPost (asid : Nat) (s : State) : Out State Fault Refusal := .next (s.postRecord asid)

/-! ## Completion records (11 R228; 23 R474) -/

/-- The completion slot to be read next. -/
def AsidSt.complAddr (e : AsidSt) : Nat := e.cqbase + 16 * (e.cons % 2 ^ e.cqn)

/-- Running contexts of an ASID. -/
def State.contexts (s : State) (asid : Nat) : List Grid := s.grids.filter fun g => g.l.asid == asid && g.phase == .run

/-- The read of the slot can't deliver: it lies at or above CAP, or in a poisoned atom (12 R245, R252). -/
def State.complBad (s : State) (e : AsidSt) : Bool := decide (s.mem.cap < e.complAddr + 16) || s.mem.lostPa e.complAddr 16

/-- The slot holds a new record; or, while a record is outstanding and the slot is read, its read can't deliver. -/
def State.complReady (s : State) (e : AsidSt) : Bool :=
  if s.complBad e then (e.recs.any fun r => r.posted) && !(s.contexts e.asid).isEmpty
  else odd (fld (s.mem.word e.complAddr 16) 1 1) == (e.cons / 2 ^ e.cqn % 2 == 0)

/-- The next completion record is taken: it completes or replaces, or is ignored and reported. A read that can't deliver ends
every context of the ASID (log 113). -/
def State.readCompletion (s : State) (asid : Nat) : State :=
  match s.asid asid with
  | none => s
  | some e =>
    if !s.complReady e then s
    else if s.complBad e then
      let g := e.complAddr / 512
      (s.contexts asid).foldl (fun (s : State) (c : Grid) =>
        if s.mem.cap < e.complAddr + 16 then s.endContext c.gid (unitEv 0x0006 0 [g]) else s.poisonEnd c.gid g) s
    else
      let v := s.mem.word e.complAddr 16
      let seq := fld v 32 32
      let s := s.updAsid asid fun e => { e with cons := e.cons + 1 }
      if fld v 2 17 = 0 ∧ fld v 19 13 = asid ∧ (e.recs.any fun r => r.posted && r.seq % 2 ^ 32 == seq) = true then
        s.updAsid asid fun e =>
          { e with recs := e.recs.map fun r =>
              if r.posted && r.seq % 2 ^ 32 == seq then { r with compl := some (fld v 64 64, odd (fld v 0 1)) } else r }
      else s.report { unitEv 0x010A 0 [seq, fld v 19 13] with asid := some asid, part := some e.part.val }

def execCompletionRecordRead (asid : Nat) (s : State) : Out State Fault Refusal := .next (s.readCompletion asid)

/-- A record's completion has been read, and its target reached, or it was refused; a context that has ended waits for
no target (log 29). -/
def State.servable (s : State) (r : FaultRec) : Bool :=
  r.posted && match r.compl with
    | some (target, refused) => refused || match s.gridOf r.gid with
      | some g => decide (target ≤ g.mapgen)
      | none => true
    | none => false

def State.serveRecord (s : State) (asid seq : Nat) : State :=
  match s.asid asid with
  | none => s
  | some e =>
    match e.recs.find? fun r => r.seq == seq && s.servable r with
    | none => s
    | some r =>
      let refused := match r.compl with | some (_, f) => f | none => false
      s.updAsid asid fun e =>
        { e with
          recs := e.recs.erase r
          served := (r.gid, r.vpage, refused) :: (e.served.filter fun x => x.1 != r.gid)
            ++ (e.served.filter fun x => x.1 == r.gid).take 63 }

def execFaultRecordServed (asid seq : Nat) (s : State) : Out State Fault Refusal := .next (s.serveRecord asid seq)

/-! ## Mapping fences (11 R229) -/

/-- An access that a fence waits for has not taken effect: it is in flight, or collected and not merged. -/
def State.fenceWaits (s : State) (f : MapFence) : Bool :=
  (f.accs.any fun id => match s.accOf id with | some a => !a.effected | none => false)
    || s.held.any fun h => match h.acc with | some id => f.accs.contains id | none => false

/-- The oldest fence of an ASID completes once its accesses have taken effect. -/
def State.fenceDone (s : State) (asid : Nat) : State :=
  match s.asid asid with
  | none => s
  | some e =>
    match e.fences with
    | [] => s
    | f :: fs =>
      if s.fenceWaits f then s
      else
        let live := fun (g : Grid) => g.l.asid == asid && g.phase == .run
        let s := { s with grids := s.grids.map fun (g : Grid) => if live g then { g with mapgen := g.mapgen + 1 } else g }
        let gen := (s.grids.filter live).foldl (fun m g => max m g.mapgen) 0
        (s.updAsid asid fun e => { e with fences := fs }).report
          (({ hostEv 0x011D (some e.part.val) [asid, gen] with asid := some asid }))

def execMappingFenceComplete (asid : Nat) (s : State) : Out State Fault Refusal := .next (s.fenceDone asid)

/-! ## Ordered windows (13 R279, R280) -/

/-- The threads of a grid's blocks that have not ended, those of saved blocks among them. -/
def State.gridThreads (s : State) (gid : Nat) : List Thread :=
  let saved := (s.resuming.flatMap fun v => v.blocks).filter fun x => x.b.gid == gid
  ((s.waves.filter fun w => (s.blk w).gid == gid) ++ saved.flatMap fun x => x.waves).flatMap (fun w => w.threads.toList)
    |>.filter fun t => t.status != .ended

/-- Every thread has passed its ORDFL of a window or ended; those of a block that a pre-emption has out have not. -/
def State.windowShut (s : State) (g : Grid) (n : Nat) : Bool :=
  g.next == g.blocks && g.out.isEmpty && (s.gridThreads g.gid).all (fun t => decide (n < t.window))

/-- Something waits for the close of a window: an update, or an ORDFL. -/
def State.windowWanted (s : State) (g : Grid) (n : Nat) : Bool :=
  (s.held.any fun h => h.gid == g.gid && decide (n ≤ h.window))
    || (s.accs.any fun a => a.gid == g.gid && !a.effected && a.wnum.any fun x => decide (n ≤ x.2))

/-- A collected RED of the window has not reached its unit. -/
def State.windowOpenRed (s : State) (g : Grid) (n : Nat) : Bool :=
  s.accs.any fun a => a.gid == g.gid && a.collected && a.wnum.any fun x => decide (x.2 ≤ n)

/-- The next window of a grid can close. A pre-emption leaves windows open until after the resume (13 R281), and an update of the
granule that a sweep is moving waits (12 R251). -/
def State.closable (s : State) (g : Grid) : Bool :=
  g.l.ordered && g.phase == .run && g.saved.isNone && (s.part g.part).preemptAt.isNone && s.windowShut g g.closed && s.windowWanted g g.closed && !s.windowOpenRed g g.closed
    && !s.held.any fun h => h.gid == g.gid && h.window == g.closed && s.mem.atF h.pa

/-- Order of the updates of a window: address, issuer, program order. -/
def Held.before (a b : Held) : Bool :=
  decide (a.pa < b.pa) || (a.pa == b.pa && (decide (a.gtid < b.gtid) || (a.gtid == b.gtid && decide (a.seq ≤ b.seq))))

def insertHeld (h : Held) : List Held → List Held
  | [] => [h]
  | g :: gs => if h.before g then h :: g :: gs else g :: insertHeld h gs

def sortHeld : List Held → List Held
  | [] => []
  | h :: hs => insertHeld h (sortHeld hs)

/-- One update applied, under 12 R251 and R245: at or above CAP it meets the capacity fault, and at a poisoned atom it is
uncorrectable. An update applied is held no more. Nothing follows for a context that has ended. -/
def State.mergeOne (s : State) (h : Held) : State :=
  let n := if h.wide then 8 else 4
  let l := Loc.main h.pa h.enc
  match (s.gridOf h.gid).map Grid.phase with
  | some .run =>
    if s.mem.cap < h.pa + n then s.endContext h.gid (unitEv 0x0006 (h.pa / 512 % 4) [h.pa / 512])
    else if s.mem.lostPa h.pa n then s.poisonEnd h.gid (h.pa / 512)
    else { s with held := s.held.erase h }.writeLoc l n (atomVal h.op n (s.readLoc l n) h.x)
  | _ => s

/-- The close of a grid's next window. -/
def State.closeWindow (s : State) (gid : Nat) : State :=
  match s.gridOf gid with
  | none => s
  | some g =>
    if !s.closable g then s
    else
      let mine := fun (h : Held) => h.gid == gid && h.window == g.closed
      let s := (sortHeld (s.held.filter mine)).foldl State.mergeOne s
      let s := { s with
        held := s.held.filter fun h => !mine h
        accs := s.accs.map fun (a : Access) =>
          if a.gid == gid && isOrdfl a.i && a.wnum.all fun x => decide (x.2 ≤ g.closed) then { a with effected := true } else a }
      (s.updGrid gid fun g => { g with closed := g.closed + 1 }).settleGrid gid

def execWindowCloseMerge (grid : Nat) (s : State) : Out State Fault Refusal := .next (s.closeWindow grid)

end Sys2Proof.Machine
end

