-- ==== Sys2Proof/Machine/Placement.lean ====
section
/-! DEFINITION. Placement of blocks and teams (07 R156 to R159), and of blocks that a pre-emption has saved (19 R391). -/

namespace Sys2Proof.Machine

/-! ## Room on a cluster (07 R158, R159) -/

/-- Multiples of `al` from which `len` bytes below `size` meet no used run: 0 and the ends of used runs, ascending. -/
def freeStarts (al size len : Nat) (used : List (Nat × Nat)) : List Nat :=
  (sortNat (0 :: used.map fun u => (u.1 + u.2 + al - 1) / al * al)).filter fun a =>
    decide (a + len ≤ size) && used.all fun u => !runsMeet a len u.1 u.2

/-- The lowest of them. -/
def lowestFree (al size len : Nat) (used : List (Nat × Nat)) : Option Nat := (freeStarts al size len used).head?

/-- Marks a slice in which a block has no share. -/
def noShare : Nat := 262144

def State.cpadUsed (s : State) (cl : Nat) : List (Nat × Nat) :=
  (s.blocks.filter fun b => b.cl == cl).map fun b => (b.cbase, (s.grd b).l.cbytes)

def State.dpadUsed (s : State) (die : Nat) : List (Nat × Nat) :=
  (s.blocks.filter fun b => b.cl / 8 == die && !b.retired).map fun b => (b.dbase, (s.grd b).l.dpad)

def State.spadUsed (s : State) (cl sl : Nat) : List (Nat × Nat) :=
  ((s.blocks.filter fun b => b.cl == cl && !b.retired).map fun b => (b.sbase[sl]?.getD noShare, (s.grd b).l.spad))
    ++ (s.waves.filter fun w => w.cl == cl && w.sl == sl).map fun w => (w.spill, 32 * (s.grd (s.blk w)).l.spill)

/-- Free slots of a cluster, slot-major, as slice and slot. -/
def State.freeSlots (s : State) (cl : Nat) : List (Nat × Nat) :=
  ((List.range 36).map fun k => (k % 6, k / 6)).filter fun x =>
    !s.waves.any fun w => w.cl == cl && w.sl == x.1 && w.slot == x.2

def State.freeTiles (s : State) (cl : Nat) : List Nat :=
  (List.range 16).filter fun t => !s.blocks.any fun b => b.cl == cl && !b.retired && b.tiles.contains t

/-- Register bytes of a bank set in use. -/
def State.bankUsed (s : State) (cl sl bank : Nat) : Nat :=
  ((s.waves.filter fun w => w.cl == cl && w.sl == sl && w.bank == bank).map fun w => 128 * (s.grd (s.blk w)).l.regs).sum

/-- The bank set of a wave's registers: the cooler one when it has room, set 0 of two alike (23 R465). -/
def State.bankFor (s : State) (cl sl regs : Nat) : Option Nat :=
  let t := (s.slice cl sl).bankTemp
  let first := if t.2 < t.1 then 1 else 0
  [first, 1 - first].find? fun b => decide (s.bankUsed cl sl b + 128 * regs ≤ 196608)

/-- Shares and spill areas of a block that would place `n` waves on a slice: the share, then a spill area a wave. -/
def spillAreas (size : Nat) : Nat → List (Nat × Nat) → Option (List Nat)
  | 0, _ => some []
  | n + 1, used => match lowestFree 256 262144 size used with
    | some a => (spillAreas size n ((a, size) :: used)).map fun l => a :: l
    | none => none

/-- What a block gets on a slice: the lowest share with room for its spill areas above it (07 R156). -/
def State.sliceRoom (s : State) (l : Launch) (cl sl n : Nat) : Option (Nat × List Nat) :=
  if n = 0 then some (noShare, [])
  else (freeStarts 256 262144 l.spad (s.spadUsed cl sl)).findSome? fun a =>
    (spillAreas (32 * l.spill) n ((0, a + l.spad) :: s.spadUsed cl sl)).map fun as => (a, as)

/-- All the room that a block of a grid needs on a cluster. -/
structure Room where
  slots : List (Nat × Nat)
  cbase : Nat
  dbase : Nat
  tiles : List Nat
  slices : List (Nat × List Nat)
  deriving DecidableEq, Repr

def allSome {α : Type} : List (Option α) → Option (List α)
  | [] => some []
  | none :: _ => none
  | some a :: as => (allSome as).map fun l => a :: l

/-- A cluster without a healthy twin takes no block with tiles (09 R208). -/
def Cluster.noMatrix (c : Cluster) : Bool := c.twins.1.out && c.twins.2.out

def State.room (s : State) (l : Launch) (cl : Nat) : Option Room :=
  let slots := (s.freeSlots cl).take l.waves
  let tiles := (s.freeTiles cl).take l.tiles
  let slices := allSome ((List.range 6).map fun sl => s.sliceRoom l cl sl (slots.filter fun x => x.1 == sl).length)
  if slots.length < l.waves ∨ tiles.length < l.tiles ∨ (l.tiles ≠ 0 ∧ (s.cluster cl).noMatrix = true) then none
  else if slots.any fun x => (s.bankFor cl x.1 l.regs).isNone then none
  else match lowestFree 512 8388608 l.cbytes (s.cpadUsed cl), lowestFree 512 67108864 l.dpad (s.dpadUsed (cl / 8)), slices with
    | some c, some d, some sl => some ⟨slots, c, d, tiles, sl⟩
    | _, _, _ => none

/-! ## A block placed (07 R156 to R158; 08 R172; 12 R257) -/

/-- The runs of bytes and tiles that a block is given, by key. -/
def Room.runs (r : Room) (l : Launch) (cl : Nat) : List (Nat × Nat) :=
  [(cpadKey cl r.cbase, l.cbytes), (dpadKey (cl / 8) r.dbase, l.dpad)]
    ++ (r.slices.zipIdx.filter fun x => x.1.1 != noShare).flatMap (fun (x : (Nat × List Nat) × Nat) =>
      (spadKey cl x.2 x.1.1, l.spad) :: x.1.2.map fun a => (spadKey cl x.2 a, 32 * l.spill))

/-- Zero data and good code in every group given out. -/
def State.clearRoom (s : State) (l : Launch) (cl : Nat) (r : Room) : State :=
  let s := { s with
    mem := { s.mem with bytes := (r.runs l cl).foldl (fun m x => m.drop x.1 (x.1 + x.2)) s.mem.bytes }
    tiles := r.tiles.foldl (fun ts t => ts.set Tile.none (16 * cl + t) Tile.none) s.tiles }
  (r.runs l cl ++ r.tiles.map fun t => (tileKey (16 * cl + t), 8192)).foldl
    (fun (s : State) (x : Nat × Nat) => s.renew x.1 x.2) s

/-- A block as placed. -/
def newBlock (g : Grid) (bl cl bid now : Nat) (r : Room) : Block :=
  { bid := bid, gid := g.gid, bl := bl, cl := cl, cbase := r.cbase
    sbase := Vector.ofFn fun i => (r.slices.getD i.val (noShare, [])).1, dbase := r.dbase, tiles := r.tiles
    flags := 0, armed := 0, flagAt := Vector.replicate 12 0, live := g.l.waves, budget := g.budget, budgetAt := none
    wave0 := (r.slots.headD (0, 0)).1, placedAt := now, lost := false, retired := false }

/-- Spill area of the `i`-th wave of a block. -/
def Room.spillOf (r : Room) (i : Nat) : Nat :=
  let sl := (r.slots.getD i (0, 0)).1
  let k := ((r.slots.take i).filter fun x => x.1 == sl).length
  (r.slices.getD sl (noShare, [])).2.getD k 0

/-- A wave as placed: the start of 01 R10 with the parameter words. -/
def newWave (g : Grid) (uid bid cl i bank : Nat) (r : Room) : Wave :=
  let x := r.slots.getD i (0, 0)
  { uid := uid, cl := cl, sl := x.1, slot := x.2, bank := bank, bid := bid, widx := i, spill := r.spillOf i
    started := none, threads := Vector.replicate 32 { Thread.reset with pc := g.entry }, v := []
    s := Vector.ofFn fun k => g.params.getD k.val 0, m := Vector.replicate 16 0, x := 0, q := Vector.replicate 8 0
    pend := [], joins := [], savedJoins := [], handler := false, region := none, latch := none, marks := [], hold := 0
    due := 0, cards := Vector.replicate 3 0, latched := [], walked := [], saved := false, forced := false }

/-- A wave put into its slot, its registers with good code; an earlier wave of the slot with nothing in flight is gone for good. -/
def State.addWave (s : State) (w : Wave) : State :=
  { s.renewRegs w.place (s.grd (s.blk w)).l.regs with
    waves := s.waves ++ [w]
    ended := s.ended.filter fun u => !(u.cl == w.cl && u.sl == w.sl && u.slot == w.slot && u.pend.isEmpty
      && !s.accs.any fun a => a.uid == u.uid) }

/-- The waves of a block, each in the bank set that its slice has to give. -/
def State.addWaves (s : State) (g : Grid) (bid cl : Nat) (r : Room) : Nat → State
  | 0 => s
  | n + 1 =>
    let s := s.addWaves g bid cl r n
    let bank := (s.bankFor cl (r.slots.getD n (0, 0)).1 g.l.regs).getD 0
    { s with nextUid := s.nextUid + 1 }.addWave (newWave g s.nextUid bid cl n bank r)

/-- Block `bl` placed on a cluster: cleared pads and tiles, barrier 0 armed for the whole block. -/
def State.placeBlock (s : State) (g : Grid) (bl cl : Nat) (r : Room) : State :=
  let s := s.clearRoom g.l cl r
  let b := newBlock g bl cl s.nextUid s.now r
  let s := { s with nextUid := s.nextUid + 1, blocks := s.blocks ++ [b] }
  (s.setBar b 0 ⟨32 * g.l.waves, 0, 0, 1, 0⟩).addWaves g b.bid cl r g.l.waves

/-- Members of a team placed on clusters in turn, each as `put` places it; `need` is what a member asks for. -/
def State.tryPlace (s : State) (need : Nat → Launch) (put : State → Nat → Nat → Room → State) :
    List (Nat × Nat) → Option State
  | [] => some s
  | (bl, cl) :: rest => match s.room (need bl) cl with
    | some r => (put s bl cl r).tryPlace need put rest
    | none => none

/-- The clusters of the partition, from the search pointer on, wrapping round. -/
def Part.searchOrder (q : Part) : List Nat := q.clusters.drop q.search ++ q.clusters.take q.search

/-- A block of a team of one goes to the first cluster of the search that can take it; another team, to the first die
that can take it. -/
def State.placeTeam (s : State) (p team : Nat) (need : Nat → Launch) (put : State → Nat → Nat → Room → State)
    (bls : List Nat) : Option (State × Nat) :=
  let q := s.part p
  if team = 1 then
    q.searchOrder.findSome? fun cl => (s.tryPlace need put (bls.map fun bl => (bl, cl))).map fun t => (t, cl)
  else
    (List.range 4).findSome? fun d =>
      let cs := (q.clusters.filter fun c => c / 8 == d && (s.room (need (bls.headD 0)) c).isSome).take bls.length
      if cs.length < bls.length then none
      else (s.tryPlace need put (bls.zip cs)).map fun t => (t, cs.getLastD 0)

/-- The search pointer stands after a cluster. -/
def State.searchAfter (s : State) (p cl : Nat) : State :=
  s.updPart p fun q => { q with search := (q.clusters.idxOf cl + 1) % max 1 q.clusters.length }

/-- The grid whose blocks a partition places next: the first one not placed whole (18 R352). -/
def State.placing (s : State) (p : Nat) : Option Grid :=
  s.grids.find? fun g => g.part == p && (g.phase == .check || (g.phase == .run && decide (g.next < g.blocks)))

/-- The next block, or team, of a partition. -/
def State.placeNext (s : State) (p : Nat) : Option State :=
  match s.placing p with
  | none => none
  | some g =>
    if g.phase != .run || (s.part p).preemptAt.isSome then none
    else
      let n := min g.l.team (g.blocks - g.next)
      (s.placeTeam p g.l.team (fun _ => g.l) (fun s bl cl r => s.placeBlock g bl cl r)
        ((List.range n).map fun k => g.next + k)).map fun t =>
          (t.1.updGrid g.gid fun g => { g with next := g.next + n }).searchAfter p t.2

/-! ## Blocks saved by a pre-emption (19 R391) -/

/-- A saved block takes its new room: its pads, tiles and barrier objects as saved, its waves waiting to start, with the
words of a block under way read again (log 31). The `k`-th slice share goes to the `k`-th slice that has one now (log 30). -/
def State.restoreBlock (s : State) (x : SavedBlock) (cl : Nat) (r : Room) : State :=
  let l := (s.grd x.b).l
  let s := s.clearRoom l cl r
  let b := { x.b with
    cl := cl, cbase := r.cbase, dbase := r.dbase, tiles := r.tiles
    sbase := Vector.ofFn fun i => (r.slices.getD i.val (noShare, [])).1, wave0 := (r.slots.headD (0, 0)).1
    placedAt := s.now }
  let shares := (r.slices.zipIdx.filter fun y => y.1.1 != noShare).map fun y => spadKey cl y.2 y.1.1
  let m := (s.mem.write (cpadKey cl r.cbase) x.cpad).write (dpadKey (cl / 8) r.dbase) x.dpad
  let m := (shares.zip x.spads).foldl (fun m y => m.write y.1 y.2) m
  let m := x.spills.zipIdx.foldl (fun m y =>
    m.write (spadKey cl (r.slots.getD y.2 (0, 0)).1 (r.spillOf y.2)) y.1) m
  let s := { s with mem := m, blocks := s.blocks ++ [b] }
  let s := x.waves.zipIdx.foldl (fun (s : State) (w : Wave × Nat) =>
    let sl := r.slots.getD w.2 (0, 0)
    s.addWave { w.1 with
      cl := cl, sl := sl.1, slot := sl.2, spill := r.spillOf w.2, bank := (s.bankFor cl sl.1 l.regs).getD 0
      threads := w.1.threads.mapIdx fun _ t => { t with ex := t.ex.map fun e => s.readBlock w.1 e.id e.hdr } }) s
  ((r.tiles.zip x.tiles).foldl (fun s t => s.setTile (16 * cl + t.1) t.2) s).settleFlags b.bid

/-- The saved blocks of a partition's next team to be placed again. -/
def State.nextSaved (s : State) (p : Nat) : Option (Save × List SavedBlock) :=
  match s.resuming.find? fun v => v.part == p && !v.blocks.isEmpty with
  | none => none
  | some v =>
    match v.blocks with
    | [] => none
    | x :: _ =>
      let t := (s.grd x.b).l.team
      some (v, v.blocks.filter fun y => y.b.gid == x.b.gid && y.b.bl / t == x.b.bl / t)

/-- The next saved block or team placed; with the last of a save area the resume is reported. -/
def State.placeSaved (s : State) (p : Nat) : Option State :=
  match s.nextSaved p with
  | none => none
  | some (v, xs) =>
    let find := fun bl => (xs.find? fun x => x.b.bl == bl).getD (xs.headD ⟨default, [], [], [], [], [], []⟩)
    let l := match xs with | x :: _ => (s.grd x.b).l | [] => default
    (s.placeTeam p l.team (fun bl => { l with waves := (find bl).waves.length })
        (fun s bl cl r => s.restoreBlock (find bl) cl r) (xs.map fun x => x.b.bl)).map fun t =>
      let s := t.1.searchAfter p t.2
      let left := v.blocks.filter fun y => !xs.contains y
      if left.isEmpty then
        { s with resuming := s.resuming.filter fun u => u.area != v.area }.report (hostEv 0x0116 (some p) [])
      else { s with resuming := s.resuming.map fun (u : Save) => if u.area == v.area then { u with blocks := left } else u }

/-- A partition's next placement: saved blocks ahead of new ones. -/
def State.place (s : State) (p : Nat) : State :=
  if (s.nextSaved p).isSome then (s.placeSaved p).getD s else (s.placeNext p).getD s

def execBlockPlacement (part : Nat) (s : State) : Out State Fault Refusal := .next (s.place part)

end Sys2Proof.Machine
end

