-- ==== Sys2Proof/Machine/System.lean ====
section
/-! DEFINITION. System instructions (19 R364 to R374), the wave status (07 R153) and the quarantined values
(07 R152). -/

namespace Sys2Proof.Machine

/-! ## TRAP (19 R366) -/

def execTrap (code : BitVec 24) (s : State) : Out State Fault Refusal :=
  .next (s.issue (.trap code) fun _ act => s.takeTrap act ⟨0x14, code.toNat, fun _ => none⟩)

/-! ## Leaving the handler (19 R367, R368) -/

/-- A thread resumes at an address: inside the block that trapped, or at a header. -/
def Thread.resumeAt (t : Thread) (a : W64) (byRte : Bool) : Thread :=
  { t with
    status := .left byRte, pc := a, wait := t.twait, twait := .none
    ex := match t.tex with
      | some e => if e.inside a then some e else none
      | none => none }

/-- RTE. No join target of its block is checked and no record appended (log 82). A thread whose depth is not its depth at entry ends the block with the handler fault (19 R362). -/
def execRte (next : Bool) (r : RForm) (s : State) : Out State Fault Refusal :=
  .next (s.issueChecked (.rte next r) (fun s _ => if s.w.handler then none else some (trapOf 0x01)) fun u _ =>
    match (lanesOf u.path.lanes).find? fun l => (u.w.th l).depth != (u.w.th l).tdepth with
    | some l => u.endBlock u.w 0x0001 [((u.w.th l).tcause).toNat, ((u.w.th l).taddr).toNat]
    | none =>
      (u.armLast.updWave u.path.uid fun w =>
        w.updTh u.path.lanes fun _ t => t.resumeAt (if next then t.tnext else t.taddr) true).settle u.path.uid)

/-- The return address that the call to depth `k` pushed, of a thread: on its stack or in its spill slot. -/
def State.returnAt (s : State) (w : Wave) (l k : Nat) : W64 :=
  let t := w.th l
  if t.depth < k + 8 then t.rstack.getD (t.depth - k) 0
  else BitVec.ofNat 64 (s.readLoc (.pad (spadKey w.cl w.sl (w.spill + 256 * (k - 1) + 8 * l))) 8)

/-- A return stack cut back to a depth. -/
def State.stackAt (s : State) (w : Wave) (l d : Nat) : List W64 :=
  (List.range (min 8 d)).map fun j => s.returnAt w l (d - j)

/-- The spill slots that `stackAt` reads. -/
def Wave.slotsAt (w : Wave) (l d : Nat) : List (Nat × Nat) :=
  ((List.range (min 8 d)).map fun j => (d - j, l)).filter fun x => decide (x.1 + 8 ≤ (w.th l).depth)

/-- The spill slots that the restart of some lanes reads. -/
def Wave.restartSlots (w : Wave) (lanes : W32) : List (Nat × Nat) :=
  (lanesOf lanes).flatMap fun l => match (w.th l).restart with
    | some (_, d) => w.slotsAt l d
    | none => []

/-- RESTART. A thread without a record ends the block with the restart fault; a spill slot that can't be read ends its context. -/
def execRestart (r : RForm) (s : State) : Out State Fault Refusal :=
  .next (s.issueChecked (.restart r) (fun s _ => if s.w.handler then none else some (trapOf 0x01)) fun u _ =>
    if (lanesOf u.path.lanes).any fun l => ((u.w.th l).restart).isNone then u.endBlock u.w 0x0002 []
    else if !(u.spillsLost u.w (u.w.restartSlots u.path.lanes)).isEmpty then
      u.found (u.spillsLost u.w (u.w.restartSlots u.path.lanes))
    else
      (u.armLast.updWave u.path.uid fun w =>
        w.updTh u.path.lanes fun l t =>
          match t.restart with
          | some (h, d) => { t with
              status := .left false, pc := h, depth := d, rstack := u.stackAt w l d, ex := none
              wait := .none, twait := .none }
          | none => t).settle u.path.uid)

/-! ## Control registers (01 R13, 19 R369, R370) -/

/-- Distinct (PC, depth) pairs of the threads that have not ended. -/
def Wave.paths (w : Wave) : Nat :=
  (((lanesOf w.alive).map fun l => ((w.th l).pc, (w.th l).depth)).eraseDups).length

/-- WVS (07 R153). -/
def State.wvs (s : State) (w : Wave) : Nat :=
  let b := s.blk w
  let l := (s.grd b).l
  2 ^ 23 * bit w.handler + 2 ^ 22 * bit l.ordered
    + 2 ^ 21 * bit (match w.region with
      | some g => decide ((if w.saved || w.started.isNone then 0 else s.round w) < g.exit)
      | none => false)
    + 2 ^ 16 * w.joins.length + 2 ^ 10 * w.paths + 2 ^ 6 * (b.bl % l.team) + w.widx

/-- IMPGEN (12 R242). -/
def Mem.impgen (m : Mem) : Nat := 2 ^ 31 * bit m.sweep.isSome + m.gen % 2 ^ 31

/-- A control register as a lane reads it. -/
def State.csr (s : State) (w : Wave) (n : Csr) (l : Nat) : Nat :=
  match n with
  | .ths => ((w.th l).readThs).toNat
  | .wvs => s.wvs w
  | .winset => (s.grd (s.blk w)).l.winset
  | .pkr => ((s.grd (s.blk w)).pkr).toNat
  | .tcause => ((w.th l).tcause).toNat
  | .taddr => ((w.th l).taddr).toNat
  | .cap => s.mem.cap
  | .impgen => s.mem.impgen
  | .mapgen => (s.grd (s.blk w)).mapgen

def execCsrrd (n : Csr) (d : Opnd) (s : State) : Out State Fault Refusal :=
  .next (alu (.csrrd n d) d n.regs 1 (fun w l => s.csr w n l) s)

/-- The writable registers. -/
def csrWritable : Csr → Bool | .ths | .pkr => true | _ => false

def execCsrwr (n : Csr) (a : Opnd) (s : State) : Out State Fault Refusal :=
  .next (s.issueChecked (.csrwr n a) (fun _ _ => if csrWritable n then none else some (trapOf 0x0E)) fun u act =>
    (match n with
     | .ths => u.result 1 act [.ths] ((lanesOf act).map fun l => .ths l thsMask (u.w.word a 0 l))
     | .pkr => u.result 1 act [] [.pkr (BitVec.allOnes 64) (BitVec.ofNat 64 (u.w.rd a 2 (lowLane act)))]
     | _ => u).advance)

def execPkwr (r : RForm) (s : State) : Out State Fault Refusal :=
  .next (s.issue (.pkwr r) fun s act =>
    (if act = 0 then s
     else
      let k := s.w.rd r.a 1 (lowLane act) % 32
      let v := s.w.rd r.b 1 (lowLane act) % 4
      s.result 1 act [] [.pkr (BitVec.ofNat 64 (3 * 2 ^ (2 * k))) (BitVec.ofNat 64 (v * 2 ^ (2 * k)))]).advance)

/-! ## Quarantined values (07 R152, 19 R371, R372) -/

/-- The value of a number of R152. The cycle counter is read in the cycle of the visit (log 88); the anchor is that of the
path's lowest lane (log 89). -/
def State.quarantined (s : State) (k : Nat) : Nat :=
  let w := s.w
  let sl := s.slice w.cl w.sl
  let c := s.cluster w.cl
  match k with
  | 0 => s.cycle w.cl
  | 1 => sl.gc
  | 2 => sl.round
  | 3 => 2 ^ 62 * (w.cl / 8) + 2 ^ 59 * (w.cl % 8) + 2 ^ 56 * w.sl + 2 ^ 53 * w.slot + 2 ^ 52 * w.bank
  | 4 => (s.host.temps[w.cl]?.getD 0).toNat
  | 5 => (w.th (lowLane s.path.lanes)).anchor
  | _ => 2 ^ 61 * c.pass + 2 ^ 60 * (sl.ratio - 1) + 2 ^ 52 * c.clock

def execQrd (q : Fin 8) (k : Fin 7) (s : State) : Out State Fault Refusal :=
  .next (s.issue (.qrd q k) fun s act =>
    (if act = 0 then s
     else s.result 1 act [.q q.val] [.q q.val (BitVec.ofNat 64 (s.quarantined k.val))]).advance)

/-- What QST finds at its address: the protection trap, a paged window's walk included (11 R218, R219), then the quarantine
trap. -/
def qstTrap (s : State) (ea : Nat) : Option Trap :=
  let g := s.g
  let v := s.seen s.w ea
  if ea % 8 != 0 then some (trapOf 0x10)
  else match v with
    | .nowhere => some (trapOf 0x0E)
    | .flat wd pa =>
      if !wd.w || keyRefuses g.pkr wd.pkey true || decide (s.mem.cap < pa + 8) then some (trapOf 0x0E)
      else if wd.kind != 2 then some (trapOf 0x12) else none
    | .paged .. =>
      if v.refused g.pkr s.mem.cap 8 ⟨false, true, false⟩ true then some (trapOf 0x0E) else some (trapOf 0x12)

def execQst (q : Fin 8) (m : MForm) (s : State) : Out State Fault Refusal :=
  .next (s.issue (.qst q m) fun u act =>
    if act = 0 then u.advance
    else
      let k : AccKind := ⟨m, .write, true, 2, false, false⟩
      let ea := s.w.ea k (lowLane act)
      match qstTrap s ea with
      | some tr => (s.reportBad s.w [s.seen s.w ea]).takeTrap act tr
      | none =>
        let a := { u.newAccess (.qst q m) act true 0 with
          lanes := [{ lane := lowLane act, loc := ((s.seen s.w ea).loc).getD (.pad 0), withheld := false
                      data := (s.w.q[q.val]?.getD 0).toNat, aux := 0, got := 0, done := false }] }
        let a := { a with after := u.before a }
        (u.addAccess a true (a.runs 8)).advance)

end Sys2Proof.Machine
end

