-- ==== Sys2Proof/Machine/SaveArea.lean ====
section
/-! DEFINITION. The save area of a pre-emption (19 R390, R391) as bytes of plaintext main memory: what R390 lists, in its
order, with the widths of log 31; and the blocks read back from it. -/

namespace Sys2Proof.Machine

/-! ## Runs of fields -/

/-- Little-endian fields of given widths in bytes, one after another. -/
def fieldBytes (ws xs : List Nat) : List Byte := (ws.zip xs).flatMap fun y => toBytes y.1 y.2

/-- The same fields read from main memory. -/
def Mem.fieldsAt (m : Mem) (a : Nat) : List Nat → List Nat
  | [] => []
  | w :: ws => m.word a w :: m.fieldsAt (a + w) ws

/-! ## A thread -/

/-- PC, depth, and the return stack: how many entries it holds, and eight of them, newest first. -/
def threadHead : List Nat := [8, 1, 1] ++ List.replicate 8 8

/-- The restart record (valid, header, depth); THS, TCAUSE, TADDR; the wait (kind, number, token, threshold or mask,
destination); the status, the block execution (present, number, header), and the ordered window and count. -/
def threadTail : List Nat := [1, 8, 1, 4, 4, 8, 1, 1, 4, 1, 1, 1, 8, 8, 8, 8]

/-- A thread's wait as fields: 1 is a barrier, 2 a semaphore, 3 a header's wait mask. -/
def State.waitFields (s : State) (w : Wave) (t : Thread) : List Nat :=
  match t.wait with
  | .bar b token => [1, b, token.toNat, 64]
  | .sem k th d _ => [2, k, th.toNat, match d with | some r => r.val | none => 64]
  | .none => if t.flagWait then [3, 0, fld (s.codeWord w t.pc.toNat).toNat 14 12, 64] else [0, 0, 0, 64]

def waitOf (x : List Nat) : Wait :=
  match x with
  | [1, b, v, _] => .bar b (BitVec.ofNat 32 v)
  | [2, k, v, d] => .sem k (BitVec.ofNat 32 v) (if h : d < 64 then some ⟨d, h⟩ else none) 0
  | _ => .none

def TStatus.code : TStatus → Nat | .run => 0 | .ended => 1 | .left true => 2 | .left false => 3

def statusOf : Nat → TStatus | 0 => .run | 2 => .left true | 3 => .left false | _ => .ended

/-- Offset in a wave's spill area of a spill slot of a lane (06 R126). -/
def spillAt (k lane : Nat) : Nat := 256 * (k - 1) + 8 * lane

def State.threadBytes (s : State) (w : Wave) (spill l : Nat) : List Byte :=
  let t := w.th l
  fieldBytes threadHead ([t.pc.toNat, t.depth, t.rstack.length] ++ (t.rstack.map BitVec.toNat ++ List.replicate 8 0).take 8)
    ++ ((List.range (spill / 8)).flatMap fun k => s.mem.read (spadKey w.cl w.sl (w.spill + spillAt (k + 1) l)) 8)
    ++ fieldBytes threadTail
      ((match t.restart with | some (h, d) => [1, h.toNat, d] | none => [0, 0, 0])
        ++ [t.ths.toNat, t.tcause.toNat, t.taddr.toNat] ++ s.waitFields w t ++ [t.status.code]
        ++ (match t.ex with | some e => [1, e.id, e.hdr.toNat] | none => [0, 0, 0]) ++ [t.window, t.seq])

def threadLen (spill : Nat) : Nat := threadHead.sum + spill / 8 * 8 + threadTail.sum

/-- A thread read back. Its block execution names a header; the block's words are read when the block is placed. -/
def Mem.threadAt (m : Mem) (spill a : Nat) : Thread :=
  let h := m.fieldsAt a threadHead
  let x := m.fieldsAt (a + threadHead.sum + spill / 8 * 8) threadTail
  let v := fun n => x.getD n 0
  { Thread.reset with
    pc := BitVec.ofNat 64 (h.getD 0 0), depth := h.getD 1 0
    rstack := (((h.drop 3).take (h.getD 2 0))).map (BitVec.ofNat 64)
    restart := if v 0 = 1 then some (BitVec.ofNat 64 (v 1), v 2) else none
    ths := BitVec.ofNat 32 (v 3), tcause := BitVec.ofNat 32 (v 4), taddr := BitVec.ofNat 64 (v 5)
    wait := waitOf ((x.drop 6).take 4), flagWait := v 6 == 3, status := statusOf (v 10)
    ex := if v 11 = 1 then some ⟨v 12, BitVec.ofNat 64 (v 13), 0, []⟩ else none
    window := v 14, seq := v 15, reanchor := true }

/-! ## A wave -/

/-- Timing marks as a bit map. -/
def Reg.place : Reg → Nat
  | .v n => n % 256 | .s n => 256 + n % 64 | .m n => 320 + n % 16 | .q n => 336 + n % 8 | .tile n => 344 + n % 16
  | .x => 360 | .ths => 361

def regAt (k : Nat) : Reg :=
  if k < 256 then .v k else if k < 320 then .s (k - 256) else if k < 336 then .m (k - 320)
  else if k < 344 then .q (k - 336) else if k < 360 then .tile (k - 344) else if k = 360 then .x else .ths

def marksWord (rs : List Reg) : Nat := rs.foldl (fun n r => n ||| 2 ^ r.place) 0
def marksOf (n : Nat) : List Reg := ((List.range 362).filter fun k => n.testBit k).map regAt

/-- WVS, the card counts and the timing marks; s-registers, m-registers, x, q-registers. -/
def waveHead : List Nat :=
  [4, 4, 4, 4, 48] ++ List.replicate 64 4 ++ List.replicate 16 4 ++ [4] ++ List.replicate 8 8

/-- The elastic budget that remains (present, rounds, header, depth), and the count of v-registers. -/
def waveTail : List Nat := [1, 8, 8, 1, 2]

/-- Registers kept: below the largest live count of the headers at which the threads stand, or the whole allotment (03
R50; 19 R388). -/
def State.liveRegs (s : State) (w : Wave) : Nat :=
  let all := (s.grd (s.blk w)).l.regs
  let ts := (lanesOf w.running).map fun l => w.th l
  if w.forced || ts.any fun t => t.ex.isSome then all
  else
    let n := ts.foldl (fun m t => max m (fld (s.codeWord w t.pc.toNat).toNat 42 8)) 0
    if n = 255 then all else min n all

def State.waveBytes (s : State) (w : Wave) : List Byte :=
  let spill := (s.grd (s.blk w)).l.spill
  fieldBytes waveHead ([s.wvs w] ++ w.cards.toList ++ [marksWord w.marks] ++ w.s.toList.map BitVec.toNat
      ++ w.m.toList.map BitVec.toNat ++ [w.x.toNat] ++ w.q.toList.map BitVec.toNat)
    ++ (List.range 32).flatMap (s.threadBytes w spill)
    ++ fieldBytes waveTail ((match w.region with
        | some g => [1, g.exit, g.hdr.toNat, g.depth]
        | none => [0, 0, 0, 0]) ++ [s.liveRegs w])
    ++ (w.v.getMany 0 0 (32 * s.liveRegs w)).flatMap fun x => toBytes 4 x.toNat

/-- Bytes of a wave with its v-registers left out. -/
def waveLen (spill : Nat) : Nat := waveHead.sum + 32 * threadLen spill + waveTail.sum

/-- v-registers that a wave's section holds. -/
def Mem.waveRegs (m : Mem) (spill a : Nat) : Nat := m.word (a + waveLen spill - 2) 2

/-- A wave read back: q-registers, latch, join list and anchors start fresh (19 R391). -/
def Mem.waveAt (m : Mem) (spill uid bid a : Nat) : Wave :=
  let h := m.fieldsAt a waveHead
  let x := m.fieldsAt (a + waveHead.sum + 32 * threadLen spill) waveTail
  { uid := uid, cl := 0, sl := 0, slot := 0, bank := 0, bid := bid, widx := h.getD 0 0 % 64, spill := 0, started := none
    threads := Vector.ofFn fun l => m.threadAt spill (a + waveHead.sum + l.val * threadLen spill)
    v := Cells.setMany 0 [] 0 ((List.range (32 * m.waveRegs spill a)).map fun k =>
      BitVec.ofNat 32 (m.word (a + waveLen spill + 4 * k) 4))
    s := Vector.ofFn fun k => BitVec.ofNat 32 (h.getD (5 + k.val) 0)
    m := Vector.ofFn fun k => BitVec.ofNat 32 (h.getD (69 + k.val) 0)
    x := BitVec.ofNat 32 (h.getD 85 0), q := Vector.replicate 8 0
    pend := [], joins := [], savedJoins := [], handler := false
    region := if x.getD 0 0 = 1 then some ⟨x.getD 1 0, BitVec.ofNat 64 (x.getD 2 0), x.getD 3 0⟩ else none
    latch := none, marks := marksOf (h.getD 4 0), hold := 0, due := 0
    cards := Vector.ofFn fun k => h.getD (1 + k.val) 0
    latched := [], walked := [], saved := false, forced := false }

/-- The spill area of a wave, gathered from its threads. -/
def Mem.spillsAt (m : Mem) (spill a : Nat) : List Byte :=
  (List.range (spill / 8)).flatMap fun k => (List.range 32).flatMap fun l =>
    m.readMany (a + waveHead.sum + l * threadLen spill + threadHead.sum + 8 * k) 8

/-! ## A block -/

def Tile.bytes (t : Tile) : List Byte :=
  ((t.el.getMany 0 0 2048).flatMap fun x => toBytes 4 x.toNat) ++ [t.fl]

def Mem.savedTile (m : Mem) (a : Nat) : Tile :=
  ⟨Cells.setMany 0 [] 0 ((List.range 2048).map fun k => BitVec.ofNat 32 (m.word (a + 4 * k) 4)), BitVec.ofNat 8 (m.word (a + 8192) 1)⟩

/-- ASID, linear index, and how many waves and slice-pad shares there are. -/
def blockHead : List Nat := [2, 4, 1, 1]

/-- Completion flags, the flags armed, the remaining block budget, waves not ended, and the marks lost and retired. -/
def blockTail : List Nat := [2, 2, 8, 1, 1]

/-- The block budget that remains; 0 is none. -/
def State.budgetLeft (s : State) (b : Block) : Nat :=
  if b.budget = 0 then 0
  else match b.budgetAt with
    | some r => max 1 (b.budget - ((s.slice b.cl b.wave0).round - r))
    | none => b.budget

/-- Slices in which a block has a share, ascending. -/
def Block.shares (b : Block) : List Nat := (List.range 6).filter fun sl => b.sbase[sl]?.getD noShare != noShare

def State.wavesOf (s : State) (b : Block) : List Wave := s.waves.filter fun w => w.bid == b.bid

def State.blockSection (s : State) (b : Block) : List Byte :=
  let l := (s.grd b).l
  fieldBytes blockHead [l.asid, b.bl, (s.wavesOf b).length, b.shares.length]
    ++ s.mem.read (cpadKey b.cl b.cbase) l.cpad
    ++ b.shares.flatMap (fun sl => s.mem.read (spadKey b.cl sl (b.sbase[sl]?.getD 0)) l.spad)
    ++ s.mem.read (dpadKey (b.cl / 8) b.dbase) l.dpad
    ++ s.mem.read (cpadKey b.cl (b.cbase + l.cpad)) (16 * l.barriers)
    ++ b.tiles.flatMap (fun t => (s.tileAt (16 * b.cl + t)).bytes)
    ++ fieldBytes blockTail [b.flags.toNat, b.armed.toNat, s.budgetLeft b, b.live, bit b.lost + 2 * bit b.retired]
    ++ (s.wavesOf b).flatMap s.waveBytes

/-- Waves of a section, one after another, with their spill areas. -/
def Mem.wavesAt (m : Mem) (spill bid : Nat) : List Nat → Nat → List (Wave × List Byte)
  | [], _ => []
  | uid :: us, a =>
    (m.waveAt spill uid bid a, m.spillsAt spill a) :: m.wavesAt spill bid us (a + waveLen spill + 128 * m.waveRegs spill a)

/-- The section of a block of a grid read back; `o` is what the K4 keeps of a block that it has saved. -/
def Mem.blockAt (m : Mem) (g : Grid) (o : OutBlock) (a : Nat) : SavedBlock :=
  let l := g.l
  let n := m.word (a + 7) 1
  let pads := a + 8
  let shares := pads + l.cpad
  let dpad := shares + n * l.spad
  let bars := dpad + l.dpad
  let tiles := bars + 16 * l.barriers
  let x := m.fieldsAt (tiles + 8193 * l.tiles) blockTail
  let ws := m.wavesAt l.spill o.bid o.waves (tiles + 8193 * l.tiles + blockTail.sum)
  { b := { (default : Block) with
      bid := o.bid, gid := g.gid, bl := o.bl, flags := BitVec.ofNat 12 (x.getD 0 0), armed := BitVec.ofNat 12 (x.getD 1 0)
      budget := x.getD 2 0, live := x.getD 3 0, lost := odd (x.getD 4 0), retired := odd (x.getD 4 0 / 2) }
    waves := ws.map Prod.fst
    cpad := m.readMany pads l.cpad ++ m.readMany bars (16 * l.barriers)
    spads := (List.range n).map fun k => m.readMany (shares + k * l.spad) l.spad
    dpad := m.readMany dpad l.dpad
    spills := ws.map Prod.snd
    tiles := (List.range l.tiles).map fun k => m.savedTile (tiles + 8193 * k) }

/-! ## The area -/

/-- Blocks of a partition in the order of the area: by context, and ascending by linear index. Those of a context that has ended
are not among them. -/
def insertBlock (b : Block) : List Block → List Block
  | [] => [b]
  | c :: cs => if c.gid < b.gid ∨ (c.gid = b.gid ∧ c.bl < b.bl) then c :: insertBlock b cs else b :: c :: cs

def State.partBlocks (s : State) (p : Nat) : List Block :=
  (s.blocks.filter fun b => (s.grd b).part == p && (s.grd b).phase == .run).foldr insertBlock []

/-- Semaphores that a partition owns, by partition-relative cluster. -/
def State.partSems (s : State) (p : Nat) : List (Nat × Nat × Sem) :=
  (s.part p).clusters.zipIdx.flatMap fun c =>
    ((List.range 64).filter fun k => s.owns c.1 k p).map fun k => (c.2, k, (s.cluster c.1).sem k)

def semWidths : List Nat := [1, 1, 4, 1]

def State.semBytes (s : State) (p : Nat) : List Byte :=
  toBytes 4 (s.partSems p).length ++ (s.partSems p).flatMap fun x =>
    fieldBytes semWidths [x.1, x.2.1, x.2.2.count.toNat, bit x.2.2.ovf + 2 * bit x.2.2.fail]

/-- GPC, EPOCH, and the loop counters by the address of their GWHILE. -/
def State.graphBytes (s : State) (p : Nat) : List Byte :=
  let q := s.part p
  fieldBytes [8, 8, 2] [q.gpc.toNat, q.epoch.toNat, q.loops.length]
    ++ q.loops.flatMap fun x => fieldBytes [8, 4] [x.1.toNat, x.2]

/-- Records of a partition's spill list, each with its full window number (13 R281). -/
def State.orderedBytes (s : State) (p : Nat) : List Byte :=
  let hs := s.held.filter fun h => h.spilled.isSome && match s.gridOf h.gid with | some g => g.part == p | none => false
  toBytes 4 hs.length ++ hs.flatMap fun h => fieldBytes [4, 8] [h.spilled.getD 0, h.window]

/-- Offsets of byte runs that follow one another from `a` on. -/
def offsets (a : Nat) : List (List Byte) → List Nat
  | [] => []
  | bs :: rest => a :: offsets (a + bs.length) rest

/-- The save area of a partition; the event's sequence number is put into its header as the arbiter takes the event. -/
def State.saveBytes (s : State) (p : Nat) : List Byte :=
  let bs := s.partBlocks p
  let g := match bs with | b :: _ => s.grd b | [] => default
  let parts := bs.map s.blockSection ++ [s.graphBytes p, s.semBytes p, s.orderedBytes p]
  let at' := offsets (64 + 4 * (bs.length + 2)) parts
  let size := 64 + 4 * (bs.length + 2) + (parts.map List.length).sum
  toBytes 64 (0x53564B34 + p * 2 ^ 32 + (match bs with | _ :: _ => g.l.asid | [] => 0) * 2 ^ 35 + 2 ^ 48
      + at'.getD bs.length 0 * 2 ^ 64 + (s.part p).lost % 2 ^ 32 * 2 ^ 128 + bs.length * 2 ^ 160
      + (match bs with | _ :: _ => g.mapgen | [] => 0) * 2 ^ 192 + s.gc % 2 ^ 64 * 2 ^ 320 + size * 2 ^ 384)
    ++ (at'.eraseIdx bs.length).flatMap (toBytes 4) ++ parts.flatten

/-- Bytes that the resident blocks of a partition require, every wave with its whole allotment (19 R386). -/
def State.saveSize (s : State) (p : Nat) : Nat :=
  let bs := s.partBlocks p
  64 + 4 * (bs.length + 2)
    + (bs.map fun b =>
        let l := (s.grd b).l
        blockHead.sum + l.cbytes + b.shares.length * l.spad + l.dpad + 8193 * l.tiles + blockTail.sum
          + (s.wavesOf b).length * (waveLen l.spill + 128 * l.regs)).sum
    + (s.graphBytes p).length + (s.semBytes p).length
    + 4 + 12 * (s.held.filter fun h => match s.gridOf h.gid with | some g => g.part == p | none => false).length

/-! ## Reading an area (19 R391) -/

/-- The blocks of an area that still wait to come back: those of a live context of the partition that the K4 has out
(log 48). -/
def State.savedAt (s : State) (p area : Nat) : List SavedBlock :=
  let m := s.mem
  (List.range (m.word (area + 20) 4)).filterMap fun i =>
    let a := area + m.word (area + 64 + 4 * i) 4
    match s.grids.find? fun g => g.part == p && g.phase == .run && g.l.asid == m.word a 2 with
    | some g => (g.out.find? fun o => o.bl == m.word (a + 2) 4).map fun o => m.blockAt g o a
    | none => none

/-- The semaphores of an area, put back where the partition owns them. -/
def State.restoreSems (s : State) (p area : Nat) : State :=
  let m := s.mem
  let a := area + m.word (area + 64 + 4 * m.word (area + 20) 4) 4
  (List.range (m.word a 4)).foldl (fun (s : State) i =>
    let x := m.fieldsAt (a + 4 + 7 * i) semWidths
    match s.physCluster p (x.getD 0 0) with
    | some c =>
      let k := x.getD 1 0
      if s.owns c k p then
        s.updSem c k fun y =>
          { y with count := BitVec.ofNat 32 (x.getD 2 0), ovf := odd (x.getD 3 0), fail := odd (x.getD 3 0 / 2) }
      else s
    | none => s) s

/-- GPC, EPOCH and the loop counters of an area. -/
def State.restoreGraph (s : State) (p area : Nat) : State :=
  let m := s.mem
  let a := area + m.word (area + 8) 8
  s.updPart p fun q => { q with
    gpc := BitVec.ofNat 64 (m.word a 8), epoch := BitVec.ofNat 64 (m.word (a + 8) 8)
    loops := (List.range (m.word (a + 16) 2)).map fun i =>
      (BitVec.ofNat 64 (m.word (a + 18 + 12 * i) 8), m.word (a + 26 + 12 * i) 4) }

end Sys2Proof.Machine
end

