-- ==== Sys2Proof/Machine/Preempt.lean ====
section
/-! DEFINITION. Pre-emption (19 R386 to R390): what takes effect at the gutter, save points, the save, and the limit. -/

namespace Sys2Proof.Machine

/-! ## Of a partition -/

def State.partWaves (s : State) (p : Nat) : List Wave := s.waves.filter fun w => (s.grd (s.blk w)).part == p

/-! ## Taking effect (19 R386, R389) -/

/-- Held updates of a partition go to its spill list (13 R281). -/
def State.spillAll (s : State) (p : Nat) : State :=
  let mine := s.held.filter fun h => h.spilled.isNone && match s.gridOf h.gid with | some g => g.part == p | none => false
  mine.foldl (fun s h => if s.held.contains h then { s with held := s.held.erase h }.spillHeld p h else s) s

/-- Entries armed and not fired are recorded failed with reason 7, and counted. -/
def State.failArmed (s : State) (p : Nat) : State :=
  let mine := s.fabric.ents.filter fun t => t.part == p && t.st == 1
  (mine.foldl (fun s t => s.failEntry (s.tent p t.e) 7) s).updPart p fun q => { q with lost := q.lost + mine.length }

/-- The siding contents of a partition are discarded and counted. -/
def State.dropSidings (s : State) (p : Nat) : State :=
  (List.range 12).foldl (fun s n =>
    let q := s.port n
    let mine := q.siding.filter fun r => (q.rxAt r.frame r.pos).kind != 0 && (q.rxAt r.frame r.pos).part == p
    (s.updPort n fun q => { q with siding := q.siding.filter fun r => !mine.contains r }).updPart p fun r =>
      { r with lost := r.lost + mine.length }) s

/-- Class-1 cards end with code 0x20, a started one at the end of its chunk. -/
def State.stopCards (s : State) (p : Nat) : State :=
  { s with cards := s.cards.map fun (c : Card) =>
      if c.part == p && c.cls1 && !c.finished && c.stop.isNone then { c with stop := some 0x20 } else c }

/-! ## Save points (19 R387) -/

/-- A header at which a thread stands has restart = 1. -/
def State.atRestart (s : State) (w : Wave) (t : Thread) : Bool := odd (fld (s.codeWord w t.pc.toNat).toNat 5 1)

/-- A running thread stands at a save point. A wave that has not started stands at its entry. -/
def State.stopped (s : State) (w : Wave) (t : Thread) : Bool :=
  w.started.isNone || t.wait != .none || (t.ex.isNone && (t.flagWait || s.atRestart w t))

/-- The fixed-latency results of a wave have arrived, and its class-0 stores and pad atomics have taken effect (19 R387, R389). Its
other class-1 accesses and its cards end before its block is saved. -/
def State.quiet (s : State) (w : Wave) : Bool :=
  w.pend.isEmpty && !(s.accs.any fun a => a.uid == w.uid && (!a.cls1 || (a.atomic && !a.mainSpace)))
    && !(s.mmas.any fun m => m.uid == w.uid) && !s.moves.any fun m => m.uid == w.uid

/-- A wave can be saved. -/
def State.savable (s : State) (w : Wave) : Bool :=
  s.leaving w && !w.saved && !w.handler && (lanesOf w.running).all (fun l => s.stopped w (w.th l)) && s.quiet w

/-! ## The save (19 R389, R390) -/

/-- Everything of a partition stands saved: waves, class-1 accesses, cards, and entries that had fired. -/
def State.allSaved (s : State) (p : Nat) : Bool :=
  (s.partWaves p).all (fun w => w.saved) && !(s.cards.any fun c => c.part == p)
    && !(s.accs.any fun a => a.part == p && !isPgreq a.i && !isOrdfl a.i)
    && !(s.fabric.ents.any fun t => t.part == p && t.st == 2) && !(s.partBlocks p).any fun b => s.lingers b.bid

/-- The blocks that leave are out, under their own numbers. -/
def State.blocksOut (s : State) (p : Nat) : State :=
  let bs := s.partBlocks p
  { s with grids := s.grids.map fun (g : Grid) =>
      if g.part == p && g.phase == GridPhase.run then
        { g with
          saved := some (s.gc - g.start)
          out := g.out ++ (bs.filter fun b => b.gid == g.gid).map fun b => ⟨b.bl, b.bid, (s.wavesOf b).map Wave.uid⟩ }
      else g }

/-- The uncorrectable groups that the save of a block reads (12 R259). -/
def State.blockLost (s : State) (b : Block) : List Nat :=
  let l := (s.grd b).l
  if s.mem.broken.isEmpty then []
  else
    s.brokenAt (cpadKey b.cl b.cbase) (l.cpad + 16 * l.barriers) ++ s.brokenAt (dpadKey (b.cl / 8) b.dbase) l.dpad
      ++ (b.shares.flatMap fun sl => s.brokenAt (spadKey b.cl sl (b.sbase[sl]?.getD 0)) l.spad)
      ++ (b.tiles.flatMap fun t => s.brokenAt (tileKey (16 * b.cl + t)) 8192)
      ++ (s.wavesOf b).flatMap fun w =>
        s.brokenAt (spadKey w.cl w.sl w.spill) (32 * l.spill)
          ++ s.mem.broken.filter fun k => decide (regKey w.place 0 0 ≤ k) && decide (k < regKey w.place (s.liveRegs w) 0)

/-- The save completes: what has filled a siding since is discarded too, the area is written, the blocks leave their
clusters, and event 0x0115 is reported. An uncorrectable group that it reads ends its context first. -/
def State.finishSave (s : State) (p : Nat) : State :=
  match (s.part p).preempt, (s.part p).preemptAt with
  | some (area, _), some _ =>
    if !s.allSaved p then s
    else if !((s.partBlocks p).flatMap s.blockLost).isEmpty then s.found ((s.partBlocks p).flatMap s.blockLost).eraseDups
    else
      let s := s.dropSidings p
      let bs := s.partBlocks p
      let mine := fun (b : Nat) => bs.any fun c => c.bid == b
      let s := { s with mem := s.mem.writeMany area (s.saveBytes p) }.blocksOut p
      let s := { s with
        blocks := s.blocks.filter fun b => !mine b.bid, waves := s.waves.filter fun w => !mine w.bid }
      (s.updPart p fun q => { q with preempt := none }).report { hostEv 0x0115 (some p) [] with stamp := some (area + 32) }
  | _, _ => s

/-! ## Events -/

/-- An accepted pre-emption takes effect, at the gutter that it awaits. -/
def State.takeEffect (s : State) (p : Nat) : State :=
  match (s.part p).preempt, (s.part p).preemptAt with
  | some _, none =>
    if ((s.part p).gutter.any fun g => decide (s.gc < g)) = true then s
    else
    let s := s.updPart p fun q => { q with preemptAt := some s.gc, gutter := none, lost := 0 }
    ((((s.spillAll p).failArmed p).dropSidings p).stopCards p).finishSave p
  | _, _ => s

def execPreemptTakeEffect (part : Nat) (s : State) : Out State Fault Refusal := .next (s.takeEffect part)

/-- A wave is saved; a thread at a restart header has its record set to it, and its region keeps the rounds it has left. -/
def State.saveWave (s : State) (wv : Nat) : State :=
  match s.waves[wv]? with
  | none => s
  | some w =>
    if !s.savable w then s
    else
      let r := fun (t : Thread) => t.wait == .none && t.ex.isNone && w.started.isSome && s.atRestart w t
      (s.updWave w.uid fun w =>
        { (w.updTh w.running fun _ t => if r t then { t with restart := some (t.pc, t.depth) } else t) with
          saved := true
          region := w.region.map fun (g : Region) => { g with exit := if w.started.isSome then g.exit - s.round w else g.exit } }).finishSave (s.grd (s.blk w)).part

def execWaveSave (wv : Nat) (s : State) : Out State Fault Refusal := .next (s.saveWave wv)

/-- The limit for one wave not yet saved: a wave in its handler, or a thread without a record, ends the context with the
pre-emption fault; every other thread not at a save point restarts, and the whole allotment is kept. -/
def State.forceWave (s : State) (uid : Nat) : State :=
  match s.waveOf uid with
  | none => s
  | some w =>
    let late := maskOf fun l => (w.th l).status == .run && !s.stopped w (w.th l)
    let fault := s.endContext (s.blk w).gid { (default : Ev) with code := 0x000A, kind := 12 }
    if w.saved then s
    else if w.handler then fault
    else if (lanesOf late).any fun l => (w.th l).restart.isNone then fault
    else if !(s.spillsLost w (w.restartSlots late)).isEmpty then s.found (s.spillsLost w (w.restartSlots late))
    else s.updWave uid fun w =>
      { (w.updTh late fun l t => match t.restart with
          | some (h, d) => { t with pc := h, depth := d, rstack := s.stackAt w l d, ex := none, wait := .none }
          | none => t) with forced := true }

def State.limitExpires (s : State) (p : Nat) : State :=
  match (s.part p).preempt, (s.part p).preemptAt with
  | some (_, limit), some t =>
    if s.gc < t + limit then s
    else ((s.partWaves p).map Wave.uid).foldl State.forceWave s |>.finishSave p
  | _, _ => s

def execPreemptLimitExpiry (part : Nat) (s : State) : Out State Fault Refusal := .next (s.limitExpires part)

end Sys2Proof.Machine
end

