-- ==== Sys2Proof/Machine/Marshal.lean ====
section
/-! DEFINITION. The marshal's own steps (18): queue entries, wave starts, retirement, budgets, waits and phase deadlines
(07 R160, R161). -/

namespace Sys2Proof.Machine

/-! ## The queue (18 R333) -/

/-- The next entry is taken, and its graph starts. -/
def State.takeEntry (s : State) (p : Nat) : State :=
  let q := s.part p
  if q.mstate != .idle || q.qhead == q.qtail || q.preemptAt.isSome then s
  else
    let a := q.qbase.toNat + 16 * (q.qhead.toNat % 2 ^ q.qsize.toNat)
    let s := s.updPart p fun q => { q with qhead := q.qhead + 1 }
    if s.mem.cap < a + 16 then s.gstop p 0x04 []
    else
      let x := s.mem.word a 16
      if fld x 64 32 ≠ 0 ∨ fld x 0 3 ≠ 0 then s.gstop p 0x03 []
      else s.updPart p fun q =>
        { q with
          gpc := BitVec.ofNat 64 (fld x 0 64), mstate := .running, mcode := 0, loops := [], search := 0
          tag := BitVec.ofNat 32 (fld x 96 32), phase := q.phase + 1, first := q.phase + 1, deadline := none }

def execQueueEntryTake (part : Nat) (s : State) : Out State Fault Refusal := .next (s.takeEntry part)

/-! ## Starting a wave (07 R160) -/

/-- A wave may start in the round that opens now, one that begins at or after its block's placement. -/
def State.startable (s : State) (w : Wave) : Bool :=
  w.started.isNone && !s.leaving w && (s.slice w.cl w.sl).round % 36 == 0 && !(s.cluster w.cl).frozen
    && s.cycle w.cl == (s.slice w.cl w.sl).c0 && decide ((s.grd (s.blk w)).start ≤ (s.slice w.cl w.sl).gc)
    && decide ((s.blk w).placedAt ≤ (s.slice w.cl w.sl).opened) && (s.grd (s.blk w)).phase == .run

/-- The wave issues from this round on, its A-latch with good code (12 R257); the block budget counts from the first round of its
first wave. -/
def State.startWave (s : State) (wv : Nat) : State :=
  match s.waves[wv]? with
  | none => s
  | some w =>
    if !s.startable w then s
    else
      let r := s.round w
      let first := (s.waves.find? fun u => u.bid == w.bid).map Wave.uid == some w.uid
      let s := (s.renew (latchKey w.place) (2 ^ 20)).updGrid (s.blk w).gid fun g => { g with began := g.began.orElse fun _ => some s.gc }
      let s := s.updWave w.uid fun w =>
        { (w.updTh w.running fun _ t => { t with readyAt := r }) with
          started := some r, due := r, region := w.region.map fun (g : Region) => { g with exit := g.exit + r } }
      if first && (s.blk w).budgetAt.isNone then s.updBlock w.bid fun b => { b with budgetAt := some r, wave0 := w.sl } else s

def execWaveStart (wv : Nat) (s : State) : Out State Fault Refusal := .next (s.startWave wv)

/-! ## Retirement (07 R161) -/

/-- A block's waves have ended and its operations completed. -/
def State.retirable (s : State) (b : Block) : Bool :=
  !b.retired && b.live == 0 && !(s.accs.any fun a => a.bid == b.bid) && !(s.cards.any fun c => c.bid == b.bid)
    && !(s.mmas.any fun m => m.bid == b.bid) && !(s.moves.any fun m => m.bid == b.bid) && !s.lingers b.bid

/-- The last of a team to retire frees the cluster pads of all. -/
def State.freeTeam (s : State) (b : Block) : State :=
  let t := (s.grd b).l.team
  let mine := fun (c : Block) => c.gid == b.gid && c.bl / t == b.bl / t
  if (s.blocks.filter mine).all fun c => c.retired then { s with blocks := s.blocks.filter fun c => !mine c } else s

def State.retireBlock (s : State) (gid bl : Nat) : State :=
  match s.blocks.find? fun b => b.gid == gid && b.bl == bl with
  | none => s
  | some b =>
    if !s.retirable b then s
    else
      let p := (s.grd b).part
      let s := (s.updBlock b.bid fun b => { b with retired := true }).freeTeam b
      (((s.updGrid gid fun g => { g with retired := g.retired + 1 }).mendGroups).settleGrid gid).finishSave p

def execBlockRetire (grid bl : Nat) (s : State) : Out State Fault Refusal := .next (s.retireBlock grid bl)

/-! ## Budgets (07 R160; 19 R383) -/

/-- A deadline fault. The stall of a cluster of the grid ends, and abandons its items (19 R383). -/
def State.deadline (s : State) (gid code : Nat) : State :=
  let cls := ((s.blocks.filter fun b => b.gid == gid).map Block.cl).eraseDups
  let p := match s.gridOf gid with | some g => g.part | none => 0
  let s := s.endContext gid (marshalEv code p [])
  (cls.filter fun c => (s.cluster c).stall.isSome).foldl State.endStall s

/-- The block budget has elapsed. -/
def State.blockLate (s : State) (b : Block) : Bool :=
  b.budget != 0 && !b.retired && (s.grd b).phase == .run && match b.budgetAt with
    | some r => decide (r + b.budget ≤ (s.slice b.cl b.wave0).round)
    | none => false

def execBlockBudgetExpiry (grid bl : Nat) (s : State) : Out State Fault Refusal :=
  .next (match s.blocks.find? fun b => b.gid == grid && b.bl == bl with
    | some b => if s.blockLate b then s.deadline grid 0x0003 else s
    | none => s)

/-- The grid budget has elapsed. -/
def State.gridLate (s : State) (g : Grid) : Bool :=
  g.phase == .run && g.l.gbudget != 0 && g.saved.isNone && decide (g.start + g.l.gbudget.toNat ≤ s.gc)

def execGridBudgetExpiry (grid : Nat) (s : State) : Out State Fault Refusal :=
  .next (match s.gridOf grid with
    | some g => if s.gridLate g then (s.deadline grid 0x0004).settleGrid grid else s
    | none => s)

/-! ## Waits of the graph (18 R342, R345, R346) -/

def execGwaitgcTargetReached (part : Nat) (s : State) : Out State Fault Refusal :=
  .next (match (s.part part).waitgc with
    | some t => if t ≤ s.gc then s.updPart part fun q => { q with waitgc := none, lastIssue := some s.gc } else s
    | none => s)

/-- The condition of a node that watches a semaphore. -/
def State.watched (s : State) (n : Node) : Bool :=
  match n.kind with
  | .sem cl k th => ((s.cluster cl).sem k).reached th
  | _ => false

def execGwaitsemSatisfied (part i : Nat) (s : State) : Out State Fault Refusal :=
  .next (match (s.part part).nodes[i]? with
    | some n => if s.watched n then s.commit part n 0 none else s
    | none => s)

/-- The phase's nodes still outstanding: grids end with the deadline fault, entries are recorded failed with reason 9, and
the graph stops. -/
def State.phaseFault (s : State) (p : Nat) : State :=
  let ns := (s.part p).nodes.filter fun n => n.phase == (s.part p).phase
  let s := s.gstop p 0x07 []
  ns.foldl (fun s n =>
    match n.kind with
    | .launch gid => match s.gridOf gid with
      | some g => if g.phase == .run then (s.deadline gid 0x0004).settleGrid gid else s
      | none => s
    | .coll es _ => es.foldl (fun s e =>
        let t := s.tent p e
        if t.node == some n.id && (t.st == 1 || t.st == 2) then s.failEntry t 9 else s) s
    | _ => s) s

/-- The deadline of the phase has passed with a node still to commit, or with the next word still a member. -/
def State.phaseLate (s : State) (p : Nat) : Bool :=
  match (s.part p).deadline with
  | some d => decide (d < s.gc) && (s.outstanding p
      || !isBoundaryOp (fld (s.mem.word (s.part p).gpc.toNat 8) 56 8))
  | none => false

def execPhaseDeadlineExpiry (part : Nat) (s : State) : Out State Fault Refusal :=
  .next (if s.phaseLate part then s.phaseFault part else s)

end Sys2Proof.Machine
end

