-- ==== Sys2Proof/Machine/Power.lean ====
section
/-! DEFINITION. The event arbiter (19 R379 to R382, R476), and power: V/F moves (23 R456 to R458), overrides and the budget
(23 R460, R461), rack caps (23 R462, R463). -/

namespace Sys2Proof.Machine

/-! ## Event records (19 R379) -/

/-- Bits 63:48 of a record. -/
def Ev.source (e : Ev) : Nat := e.die % 4 * 2 ^ 14 + e.cluster % 8 * 2 ^ 11 + e.slice % 8 * 2 ^ 8 + e.slot % 8 * 2 ^ 5 + e.kind % 32

/-- The 64 bytes of a record. -/
def Ev.bits (e : Ev) : Nat :=
  e.unit % 2 ^ 48 + e.source * 2 ^ 48
    + (match e.part with | some p => (p % 8) * 2 ^ 95 + 2 ^ 94 | none => 0)
    + (match e.asid with | some a => (a % 2 ^ 13) * 2 ^ 99 + 2 ^ 98 | none => 0)
    + e.code % 2 ^ 16 * 2 ^ 112 + e.seq % 2 ^ 64 * 2 ^ 128 + e.gc % 2 ^ 64 * 2 ^ 192
    + (e.detail.take 4).zipIdx.foldl (fun v x => v + x.1 % 2 ^ 64 * 2 ^ (256 + 64 * x.2)) 0

/-! ## The arbiter (19 R380, R382) -/

/-- The events of the earliest time, the lowest source first; those of one source in order (19 R380). -/
def firstEvent : List (Nat × Ev) → Option (Nat × Ev)
  | [] => none
  | x :: xs => match firstEvent xs with
    | none => some x
    | some y => if y.1 < x.1 || (y.1 == x.1 && decide (y.2.source < x.2.source)) then some y else some x

def Arb.placed (a : Arb) : Bool := decide (4 ≤ a.size) && decide (a.size ≤ 20)
/-- The ring has a free entry. -/
def Arb.free (a : Arb) : Bool := a.placed && decide ((a.tail - a.head).toNat < 2 ^ a.size)

/-- One more dropped event of a code, in ascending code order. -/
def addDrop (code : Nat) : List (Nat × Nat) → List (Nat × Nat)
  | [] => [(code, 1)]
  | (c, n) :: rest => if code < c then (code, 1) :: (c, n) :: rest
    else if code = c then (c, n + 1) :: rest else (c, n) :: addDrop code rest

/-- A numbered event joins the store, or is counted when the store is full. -/
def Arb.hold (a : Arb) (e : Ev) : Arb :=
  if a.held.length < 256 then { a with held := a.held ++ [e] } else { a with dropped := addDrop e.code a.dropped }

/-- What numbering an event does besides: a GSIG's node keeps its number, a save area its seq field. -/
def State.numbered (s : State) (e : Ev) (n : Nat) : State :=
  let s := match e.stamp with
    | some a => { s with mem := s.mem.writeMany a (toBytes 8 n) }
    | none => s
  match e.code, e.detail with
  | 0x0111, [p, a, _] =>
    let k := NodeKind.sig (BitVec.ofNat 64 a)
    s.updPart p fun (q : Part) => { q with
      nodes := modifyFirst (fun (m : Node) => m.kind == k none) (fun (m : Node) => { m with kind := k (some n) }) q.nodes }
  | _, _ => s

/-- The arbiter takes one event. -/
def State.takeEvent (s : State) : State :=
  match firstEvent s.arb.inbox with
  | none => s
  | some (t, e) =>
    let n := s.arb.seq
    let s := { s with arb := { s.arb with inbox := s.arb.inbox.erase (t, e), seq := n + 1 } }
    if e.code = 0 then s.postRequest (e.detail.headD 0)
    else
      ({ s with arb := s.arb.hold { e with seq := n, gc := s.gc } }).numbered e n

/-- The oldest event of the store is written to the ring, and the owning port is signalled. -/
def State.writeEvent (s : State) : State :=
  match s.arb.held with
  | [] => s
  | e :: es =>
    let a := s.arb
    { s with
      mem := s.mem.writeMany (a.base.toNat + 64 * (a.tail.toNat % 2 ^ a.size)) (toBytes 64 e.bits)
      arb := { a with
        held := es, tail := a.tail + 1
        irq := a.irq.setIfInBounds (bit s.host.owner) ((a.irq[bit s.host.owner]?.getD 0) + 1) } }

/-- The count of one code of dropped events becomes an event of its own. -/
def State.writeDrop (s : State) : State :=
  match s.arb.dropped with
  | [] => s
  | (c, k) :: rest =>
    let e : Ev := { (default : Ev) with code := 0x0117, kind := 12, detail := [c, k], seq := s.arb.seq, gc := s.gc }
    { s with arb := { s.arb with dropped := rest, seq := s.arb.seq + 1, held := s.arb.held ++ [e] } }

/-- One act of the arbiter: a write to the ring when it has room, a report of dropped events when the store has, or the
next event taken. -/
def State.arbitrate (s : State) : State :=
  if s.arb.free && !s.arb.held.isEmpty then s.writeEvent
  else if !s.arb.dropped.isEmpty && decide (s.arb.held.length < 256) then s.writeDrop
  else s.takeEvent

/-- The arbiter has something to do. -/
def Arb.busy (a : Arb) : Bool :=
  (a.free && !a.held.isEmpty) || (!a.dropped.isEmpty && decide (a.held.length < 256)) || !a.inbox.isEmpty

def execEventRingWrite (s : State) : Out State Fault Refusal := .next s.arbitrate

/-! ## V/F moves (23 R456 to R458) -/

def State.clockOf (s : State) (p : Fin 16) : Nat := (s.flash.points[p.val]?.getD (1, 0)).1
def State.voltOf (s : State) (p : Fin 16) : Nat := (s.flash.points[p.val]?.getD (1, 0)).2

/-- Every cluster takes a clock at its next round boundary. -/
def State.setClocks (s : State) (k : Nat) : State :=
  { s with clusters := s.clusters.map fun (c : Cluster) => { c with clockNext := k } }

def State.updVf (s : State) (f : Vf → Vf) : State := { s with host := { s.host with vf := f s.host.vf } }

/-- The voltage of a point comes into force and begins to settle. -/
def State.setVolt (s : State) (p : Fin 16) : State :=
  s.updVf fun v => { v with volt := s.voltOf p, voltAt := some s.now }

/-- A move begins: down, the clocks first; otherwise, the voltage first. -/
def State.startMove (s : State) (b : Fin 16) : State :=
  let down := decide (s.clockOf b < s.clockOf s.host.vf.current)
  let s := s.updVf fun v => { v with target := some b, voltAt := none, settled := false }
  if down then s.setClocks (s.clockOf b) else s.setVolt b

/-- A write of the mailbox (23 R457). -/
def State.mailbox (s : State) (b : Fin 16) : State :=
  match s.host.vf.target with
  | some t => s.updVf fun v => { v with pending := if b = t then none else some b }
  | none => if b = s.host.vf.current then s else s.startMove b

/-- Every cluster runs at the clock of a point. -/
def State.clocksAt (s : State) (b : Fin 16) : Bool := s.clusters.all fun c => c.clock == s.clockOf b

/-- Every cluster runs at the clock of the move under way, and its voltage has settled. -/
def State.moveDone (s : State) (b : Fin 16) : Bool := s.host.vf.settled && s.clocksAt b

/-- The voltage of a downward move is still to come, and every cluster has taken its clock. -/
def State.voltDue (s : State) (b : Fin 16) : Bool := s.host.vf.voltAt.isNone && s.clocksAt b

/-- The move goes on: a downward one takes its voltage, or the move completes; a GC tick later a pending point starts its own. -/
def State.vfStep (s : State) : State :=
  match s.host.vf.target, s.host.vf.pending with
  | some b, _ =>
    if s.voltDue b then s.setVolt b
    else if s.moveDone b then s.updVf fun v => { v with current := b, target := none, since := s.now } else s
  | none, some c => (s.updVf fun v => { v with pending := none }).startMove c
  | none, none => s

def execVfMoveComplete (s : State) : Out State Fault Refusal := .next s.vfStep

/-- The voltage that a move has applied has settled; where it came first, the clocks follow. -/
def execVoltageSettled (s : State) : Out State Fault Refusal :=
  .next (match s.host.vf.target with
    | some b => if s.host.vf.settled || s.host.vf.voltAt.isNone then s
        else (s.updVf fun v => { v with settled := true }).setClocks (s.clockOf b)
    | none => s)

/-! ## Overrides (23 R460, R461) -/

/-- The override that stands once the next boundary has passed. -/
def Cluster.overDue (c : Cluster) : Nat := (c.overNext.map Prod.fst).getD c.ovr

def State.setOver (s : State) (cl n cause : Nat) : State :=
  s.updCluster cl fun c => { c with overNext := some (n, cause) }

/-- Event 0x011C, of the power control of a die. -/
def State.unmetEvent (s : State) (die : Nat) : State :=
  s.report { (default : Ev) with code := 0x011C, die := die, kind := 11 }

/-- Nominal length of a number of cycles of a cluster. -/
def State.cyclesOf (s : State) (cl n : Nat) : Nat := n * Config.cycle (s.cluster cl).clock

/-- The estimate has stood above the limit for 64 cycles (log 117). -/
def State.overLimit (s : State) (cl : Nat) : Bool :=
  match (s.cluster cl).overAt with
  | some t => decide (t + s.cyclesOf cl 64 ≤ s.now)
  | none => false

/-- The estimate has stood below 80% of the limit for 65,536 cycles. -/
def State.underLimit (s : State) (cl : Nat) : Bool :=
  match (s.cluster cl).lowAt with
  | some t => decide (t + s.cyclesOf cl 65536 ≤ s.now)
  | none => false

/-- A cluster over its limit steps up, and its count begins anew; at its ceiling the want is reported once (causes: log 32). -/
def State.currentHigh (s : State) (cl : Nat) : State :=
  if !s.overLimit cl then s
  else
    let s := s.updCluster cl fun c => { c with overAt := some s.now }
    let c := s.cluster cl
    if c.overDue < c.ceil then
      { s with host := { s.host with raised := s.host.raised.filter fun d => d != cl } }.setOver cl (2 * c.overDue) 1
    else if c.unmet then s
    else (s.updCluster cl fun c => { c with unmet := true }).unmetEvent (cl / 8)

def execCurrentLimitExceeded (cl : Nat) (s : State) : Out State Fault Refusal := .next (s.currentHigh cl)

/-- A cluster well under its limit steps down, unless the budget rule holds its override. -/
def State.currentLow (s : State) (cl : Nat) : State :=
  if !s.underLimit cl then s
  else
    let s := s.updCluster cl fun c => { c with lowAt := some s.now }
    let c := s.cluster cl
    if 1 < c.overDue ∧ ¬ s.host.raised.contains cl = true then s.setOver cl (c.overDue / 2) 3 else s

def execCurrentLowStepDown (cl : Nat) (s : State) : Out State Fault Refusal := .next (s.currentLow cl)

/-- A reading of a cluster's current estimate, made at a nominal time. A cause that has cleared may be reported again. -/
def State.readCurrent (s : State) (cl at' v : Nat) : State :=
  let limit := s.flash.limits[cl]?.getD 0
  s.updCluster cl fun c =>
    { c with
      overAt := if limit < v then c.overAt.orElse fun _ => some at' else none
      lowAt := if 5 * v < 4 * limit then c.lowAt.orElse fun _ => some at' else none
      unmet := c.unmet && decide (limit < v) }

/-- An accepted cap is in force until its expiry. -/
def State.capStands (s : State) : Bool :=
  match s.host.capUntil with
  | some t => decide (s.gc < t)
  | none => false

/-- The cap in force, in W: that of the last accepted message, or the floor. -/
def State.capNow (s : State) : Nat :=
  match s.host.rcap with
  | some m => if s.capStands then fld m.toNat 48 16 else s.flash.floor
  | none => s.flash.floor

def State.budget (s : State) : Nat := min 2400 s.capNow

/-- Length of the window of the mean, and of the period of its use, in GC ticks. -/
def meanTicks : Nat := 1048576
def budgetTicks : Nat := 65536

/-- Watt-ticks of readings, newest first, over the ticks from `lo` to `hi`; each stands until the next. -/
def wattTicks (lo : Nat) : Nat → List (Nat × Nat) → Nat
  | _, [] => 0
  | hi, (t, w) :: rest => (hi - max t lo) * w + (if t ≤ lo then 0 else wattTicks lo (min hi t) rest)

/-- The module's mean power over the last 1,048,576 GC ticks, in W (log 118). -/
def State.meanPower (s : State) : Nat := wattTicks (s.gc - meanTicks) s.gc s.host.power / meanTicks

/-- A reading of the module's power. Readings that no later mean needs are forgotten. -/
def State.readPower (s : State) (at' v : Nat) : State :=
  let keep := s.host.power.takeWhile fun x => decide (s.gc < x.1 + meanTicks)
  let last := (s.host.power.drop keep.length).take 1
  { s with host := { s.host with power := (s.tickOf at', v) :: keep ++ last } }

/-- What the budget rule does with a mean. -/
def State.applyBudget (s : State) (mean : Nat) : State :=
  if s.budget < mean then
    match (List.range 32).find? fun c => decide ((s.cluster c).overDue < (s.cluster c).ceil) with
    | some c => ({ s with host := { s.host with raised := c :: s.host.raised.filter fun d => d != c } }).setOver c
        (2 * (s.cluster c).overDue) 2
    | none => if s.host.unmet then s else ({ s with host := { s.host with unmet := true } }).unmetEvent 0
  else
    let s := { s with host := { s.host with unmet := false } }
    if 10 * mean < 9 * s.budget then
      match (sortNat s.host.raised).getLast? with
      | some c =>
        let n := (s.cluster c).overDue / 2
        ({ s with host := { s.host with raised := if n ≤ 1 then s.host.raised.filter fun d => d != c else s.host.raised } }).setOver
          c (max 1 n) 2
      | none => s
    else s

/-- The recomputation, every 65,536 GC ticks, with the mean as it stands. -/
def State.recompute (s : State) (mean : Nat) : State :=
  if s.host.budgetAt ≤ s.gc && mean == s.meanPower then
    { s with host := { s.host with budgetAt := (s.gc / budgetTicks + 1) * budgetTicks } }.applyBudget mean
  else s

def execBudgetRecompute (meanW : Nat) (s : State) : Out State Fault Refusal := .next (s.recompute meanW)

/-! ## Rack caps (23 R462, R463) -/

/-- Fields in range. -/
def capOk (m : BitVec 128) : Bool :=
  decide (400 ≤ fld m.toNat 48 16) && decide (fld m.toNat 48 16 ≤ 2400) && fld m.toNat 40 8 == 0 && fld m.toNat 0 40 != 0

/-- A message is accepted. -/
def State.capNewer (s : State) (m : BitVec 128) : Bool :=
  match s.host.rcap with
  | some o => decide (fld o.toNat 64 64 < fld m.toNat 64 64)
  | none => true

def State.rackCap (s : State) (m : BitVec 128) : State :=
  if capOk m && s.capNewer m then
    { s with host := { s.host with rcap := some m, capUntil := some (s.gc + fld m.toNat 0 40) } }
  else { s with host := { s.host with rcapIgn := min (2 ^ 32 - 1) (s.host.rcapIgn + 1) } }

def execRackCapExpiry (s : State) : Out State Fault Refusal :=
  .next (match s.host.capUntil with
    | some t => if t ≤ s.gc then { s with host := { s.host with capUntil := none } } else s
    | none => s)

/-! ## Sensors (log 91) -/

/-- One reading, made at a nominal time. -/
def State.sense (s : State) (at' : Nat) (x : Sense) : State :=
  let temp := fun (k : Nat) (c : Byte) => { s with host := { s.host with temps := s.host.temps.setIfInBounds k c } }
  match x with
  | .cluster cl c => if cl < 32 then temp cl c else s
  | .stack k c => (temp (32 + k) c).coolStacks
  | .twin cl b c => s.updCluster cl fun x => x.setTwin b { x.twin b with temp := c }
  | .bank cl sl b c => s.updSlice cl sl fun x => { x with bankTemp := if b then (x.bankTemp.1, c) else (c, x.bankTemp.2) }
  | .lane ch true => s.laneFault ch
  | .group k => { s with mem := { s.mem with broken := (k :: s.mem.broken).eraseDups } }
  | .current cl v => if cl < 32 then s.readCurrent cl at' v else s
  | .power v => s.readPower at' v
  | .lane ch false => { s with mem := { s.mem with laneFaults := s.mem.laneFaults.filter fun c => c != ch } }

/-- Every reading up to the present time. -/
def State.sensed (s : State) : State :=
  (s.sensors.takeWhile fun x => decide (x.1 ≤ s.now)).foldl (fun s x => s.sense x.1 x.2)
    { s with sensors := s.sensors.dropWhile fun x => decide (x.1 ≤ s.now) }

end Sys2Proof.Machine
end

