-- ==== Sys2Proof/Machine/Commands.lean ====
section
/-! DEFINITION. What each host command does (23 R453) once it may run: its status code, CMDRES, and the state after. -/

namespace Sys2Proof.Machine

/-- The end of a command: status code, CMDRES, and the state. -/
structure Reply where
  status : Nat
  res : Nat
  st : State
  deriving DecidableEq, Repr

/-- Refused: nothing changes. -/
def State.refuse (s : State) (status : Nat) : Reply := ⟨status, 0, s⟩
/-- Refused with a detail code. -/
def State.refuse10 (s : State) (code : Nat) : Reply := ⟨0x10, code, s⟩
def State.accept (s : State) : Reply := ⟨0, 0, s⟩

/-- Argument doubleword `k` of CMDARG. -/
def argOf (a : BitVec 512) (k : Nat) : Nat := fld a.toNat (64 * k) 64

/-! ## Partitions, ASIDs and semaphores -/

/-- The partition holds a resident block. -/
def State.resident (s : State) (p : Nat) : Bool := (s.partBlocks p).any fun b => !b.retired

def State.isLocked (s : State) (p : Nat) : Bool := (s.part p).locked

/-- PARTDEF. -/
def State.cmdPartdef (s : State) (a : BitVec 512) : Reply :=
  let p := argOf a 0
  let m := argOf a 1
  let cs := (List.range 32).filter fun c => m.testBit c
  if 8 ≤ p ∨ 2 ^ 32 ≤ m then s.refuse 0x02
  else if s.resident p || s.blocks.any (fun b => !b.retired && cs.contains b.cl)
      || (List.range 8).any fun q => q != p && (s.part q).clusters.any fun c => cs.contains c then s.refuse 0x03
  else (s.updPart p fun q => { q with clusters := cs, search := 0 }).accept

/-- A context of the ASID is live (19 R376). -/
def State.asidLive (s : State) (asid : Nat) : Bool :=
  s.grids.any fun g => g.l.asid == asid && (g.phase == .check || g.phase == .run)

/-- The entry of the ASID table, when it is well formed (23 R452). -/
def State.asidEntry (s : State) (a part : Nat) : Option AsidSt :=
  let at' := s.host.asidtbl.toNat + 64 * a
  if s.mem.cap < at' + 64 then none
  else
    let x := s.mem.word at' 64
    let cq := fld x 448 64
    let fq := fld x 384 64
    let root := fld x 320 64
    let cql := fld x 13 5
    let fql := fld x 8 5
    if fld x 18 302 ≠ 0 ∨ fld x 0 8 ≠ 0 ∨ cql < 4 ∨ 16 < cql ∨ fql < 4 ∨ 16 < fql ∨ cq % 16 ≠ 0 ∨ fq % 32 ≠ 0
        ∨ root % 4096 ≠ 0 then none
    else some { asid := a, part := Fin.ofNat 8 part, root := root, fqbase := fq, fqn := fql, cqbase := cq, cqn := cql
                prod := 0, cons := 0, recs := [], served := [], fences := [] }

/-- ASIDSET. -/
def State.cmdAsidset (s : State) (a : BitVec 512) : Reply :=
  let n := argOf a 0
  let p := argOf a 1
  if 8192 ≤ n ∨ 8 ≤ p ∨ 2 ≤ argOf a 2 then s.refuse 0x02
  else if s.asidLive n then s.refuse 0x03
  else
    let rest := s.asids.filter fun e => e.asid != n
    if argOf a 2 = 0 then { s with asids := rest }.accept
    else match s.asidEntry n p with
      | some e => { s with asids := e :: rest }.accept
      | none => s.refuse 0x02

/-- MAPFENCE: the translations of the ASID are dropped at the command, and the accesses under way are waited for (11
R229). -/
def State.cmdMapfence (s : State) (a : BitVec 512) : Reply :=
  let n := argOf a 0
  if 8192 ≤ n then s.refuse 0x02
  else match s.asid n with
    | none => s.refuse 0x03
    | some _ =>
      let accs := (s.accs.filter fun x => x.asid == n && x.paged && !x.effected && !isPgreq x.i && !isOrdfl x.i).map Access.id
      let held := (s.held.filter fun h => match s.gridOf h.gid with | some g => g.l.asid == n | none => false).filterMap Held.acc
      ((s.dropAsid n).updAsid n fun e => { e with fences := e.fences ++ [⟨accs ++ held⟩] }).accept

/-- TERMINATE: every live context of the ASID ends with event 0x000B; one that the launch check still holds, too. -/
def State.terminate (s : State) (asid : Nat) : State :=
  let e : Ev := { (default : Ev) with code := 0x000B, kind := 12 }
  (s.grids.filter fun g => g.l.asid == asid).foldl (fun (s : State) (g : Grid) =>
    match g.phase with
    | .check => ((s.report { e with asid := some g.l.asid, part := some g.part }).updGrid g.gid fun (h : Grid) =>
        { h with phase := GridPhase.faulted 0x000B }).settleGrid g.gid
    | .run => (s.endContext g.gid e).settleGrid g.gid
    | _ => s) s

def State.cmdTerminate (s : State) (a : BitVec 512) : Reply :=
  if 8192 ≤ argOf a 0 then s.refuse 0x02 else (s.terminate (argOf a 0)).accept

/-- SEMASSIGN: a newly given or released semaphore reads zero (17 R324). -/
def State.cmdSemassign (s : State) (a : BitVec 512) : Reply :=
  let c := argOf a 0
  let p := argOf a 2
  let ks := (List.range 64).filter fun k => (argOf a 1).testBit k
  let own : Option (Fin 8) := if p < 8 then some (Fin.ofNat 8 p) else none
  if 32 ≤ c ∨ 8 < p then s.refuse 0x02
  else if ks.any fun k => match ((s.cluster c).sem k).owner with
      | some q => q.val != p && s.resident q.val
      | none => false then s.refuse 0x03
  else (ks.foldl (fun s k => s.updSem c k fun m =>
      if m.owner = own then m else { Sem.reset with owner := own }) s).accept

/-! ## Retirement (12 R246 to R248) -/

/-- Migration slots of a pseudo-channel's table. -/
def Chan.migration (t : Vector Byte 64) : Nat := (t.toList.filter fun e => fld e.toNat 6 2 == 3).length

/-- The code of a refused retirement (12 R247). Code 0x04 looks at the slot tables in force (log 116). -/
def State.retireCode (s : State) (mask : Nat) (keep : List Nat) : Option Nat :=
  if s.mem.sweep.isSome then some 0x01
  else if mask = 0 ∨ ((List.range 512).any fun p => mask.testBit p && !s.mem.live.contains p) = true then some 0x02
  else if keep.isEmpty then some 0x03
  else if s.mem.live.any fun p => decide (Chan.migration (s.chan p).table < 4) then some 0x04
  else none

/-- An event of a lost page. -/
def lostPage (asid part : Nat) (detail : List Nat) : Ev :=
  { (default : Ev) with code := 0x0105, asid := some asid, part := some part, kind := 6, detail := detail }

/-- Pages of a window at or above CAP, by physical page. -/
def Window.lost (w : Window) (cap : Nat) : List Nat :=
  if w.enabled && w.kind != 1 then
    ((List.range w.size).map fun j => w.ibase / 65536 + j).filter fun p => decide (cap ≤ 65536 * p)
  else []

/-- The lost pages of live contexts and of the translation caches, whose entries are dropped. -/
def State.reportLost (s : State) : State :=
  let s := (s.grids.filter fun g => g.phase == .run).foldl (fun (s : State) (g : Grid) =>
    g.windows.zipIdx.foldl (fun (s : State) (w : Window × Nat) =>
      (w.1.lost s.mem.cap).foldl (fun (s : State) p => s.report (lostPage g.l.asid g.part [g.l.asid, w.2, p])) s) s) s
  let gone := fun (e : TlbEntry) => e.level == 3 && fld e.pte.toNat 0 2 == 2
    && decide (s.mem.cap ≤ 65536 * fld e.pte.toNat 16 32)
  let pages := ((s.mem.tlb.filter gone).map fun e => (e.asid, e.ia, fld e.pte.toNat 16 32)).eraseDups
  let s := pages.foldl (fun (s : State) e =>
    s.report (lostPage e.1 (((s.asid e.1).map fun x => x.part.val).getD 0) [e.1, e.2.1, e.2.2])) s
  { s with mem := { s.mem with tlb := s.mem.tlb.filter fun e => !gone e } }

def State.cmdRetire (s : State) (a : BitVec 512) : Reply :=
  let keep := s.mem.live.filter fun p => !a.toNat.testBit p
  match s.retireCode a.toNat keep with
  | some c => s.refuse10 c
  | none =>
    { s with mem := { s.mem with
        sweep := some { f := keep.length * granules - 1, live := keep, xfers := 0, moved := 0, poisoned := 0
                        checked := false, again := [], lost := [] } } }.reportLost.accept

/-! ## Pre-emption (19 R386, R391) -/

def State.cmdPreempt (s : State) (a : BitVec 512) : Reply :=
  let p := argOf a 0
  if 8 ≤ p ∨ s.mem.cap < argOf a 1 + argOf a 2 then s.refuse 0x02
  else if (s.part p).preempt.isSome || (s.part p).preemptAt.isSome then s.refuse 0x03
  else if argOf a 2 < s.saveSize p then s.refuse10 (s.saveSize p)
  else (s.updPart p fun q => { q with preempt := some (argOf a 1, argOf a 3), gutter := if s.holdsArmed p then some s.nextGutter else none }).accept

/-- The partition goes on from a save area, and the grid budgets count on. -/
def State.resumeSave (s : State) (p area : Nat) : State :=
  let bs := s.savedAt p area
  let s := ((s.restoreGraph p area).restoreSems p area).updPart p fun q => { q with preemptAt := none }
  let mine := fun (o : OutBlock) => bs.any fun x => x.b.bid == o.bid
  let s := { s with
    grids := s.grids.map fun (g : Grid) =>
      match g.saved with
      | some used => if g.part == p then
          { g with saved := none, start := s.gc - used, out := g.out.filter fun o => !mine o } else g
      | none => if g.part == p then { g with out := g.out.filter fun o => !mine o } else g }
  if bs.isEmpty then s.report (hostEv 0x0116 (some p) []) else { s with resuming := s.resuming ++ [⟨area, p, bs⟩] }

def State.cmdResume (s : State) (a : BitVec 512) : Reply :=
  let p := argOf a 0
  let h := s.mem.word (argOf a 1) 64
  if 8 ≤ p ∨ s.mem.cap < argOf a 1 + 64 then s.refuse 0x02
  else if fld h 0 32 ≠ 0x53564B34 ∨ fld h 48 16 ≠ 1 then s.refuse10 0
  else (s.resumeSave p (argOf a 1)).accept

/-! ## The marshal (18 R348, R350) -/

def State.cmdMresume (s : State) (a : BitVec 512) : Reply :=
  if 8 ≤ argOf a 0 then s.refuse 0x02
  else if (s.part (argOf a 0)).mstate == .stopped then
    (s.updPart (argOf a 0) fun q => { q with mstate := .idle }).accept
  else s.refuse 0x03

/-- The node of a GSIG .wait whose event has a sequence number commits. -/
def State.ackSig (s : State) (n : Nat) : State :=
  (List.range 8).foldl (fun (s : State) p =>
    match (s.part p).nodes.find? fun m => match m.kind with | .sig _ (some k) => k == n | _ => false with
    | some m => s.commit p m 0 none
    | none => s) s

def State.cmdGsigack (s : State) (a : BitVec 512) : Reply := (s.ackSig (argOf a 0)).accept

/-! ## Key slots (11 R223, 21 R433) -/

/-- A live grid uses a memory key slot. -/
def State.mkeyUsed (s : State) (p : Option Nat) (k : Nat) : Bool :=
  s.grids.any fun g => g.phase == .run && (p.isNone || p == some g.part)
    && g.windows.any fun w => w.enabled && w.enc && w.keyidx.val == k

def State.setMkey (s : State) (k : Nat) (v : Option (BitVec 512)) : State :=
  { s with mem := { s.mem with keys := s.mem.keys.set none k v } }
def State.setJkey (s : State) (k : Nat) (v : Option (BitVec 256 × W32)) : State :=
  { s with fabric := { s.fabric with jkeys := s.fabric.jkeys.set none k v } }

def State.cmdMkeyload (s : State) (slot : Nat) (a : BitVec 512) : Reply :=
  if 128 ≤ slot then s.refuse 0x02 else (s.setMkey slot (some a)).accept

def State.cmdMkeyunload (s : State) (slot : Nat) : Reply :=
  if 128 ≤ slot then s.refuse 0x02
  else if s.mkeyUsed none slot then s.refuse 0x03 else (s.setMkey slot none).accept

/-- An entry armed or firing stands under a job key slot. -/
def State.jkeyArmed (s : State) (p : Option Nat) (k : Nat) : Bool :=
  s.fabric.ents.any fun t => (t.st == 1 || t.st == 2) && (p.isNone || p == some t.part)
    && match t.word with | some w => w.isSealed && w.lkey % 128 == k | none => false

def State.cmdJkeyload (s : State) (slot : Nat) (a : BitVec 512) : Reply :=
  if 128 ≤ slot ∨ 2 ^ 32 ≤ argOf a 4 then s.refuse 0x02
  else (s.setJkey slot (some (BitVec.ofNat 256 a.toNat, BitVec.ofNat 32 (argOf a 4)))).accept

def State.cmdJkeyunload (s : State) (slot : Nat) : Reply :=
  if 128 ≤ slot then s.refuse 0x02
  else if s.jkeyArmed none slot || (s.fabric.ports.toList.any fun q =>
      match q.session with | some x => x.keys.contains slot | none => false) then s.refuse 0x03
  else (s.setJkey slot none).accept

/-! ## Switches (21 R428 to R430) -/

def State.cmdAttest (s : State) (a : BitVec 512) : Reply :=
  let n := argOf a 0
  let u := argOf a 1
  let k := argOf a 3
  if 12 ≤ n ∨ 2 ^ 16 ≤ u ∨ 128 ≤ k then s.refuse 0x02
  else if (s.fabric.jkeys.get none k).isNone then s.refuse 0x03
  else match (s.port n).session with
    | none =>
      (s.askSwitch n { unit := u, step := none, live := false, policy := argOf a 2, jslot := k, digest := 0, chain := []
                       sent := [], vca := [], kex := [], mutualAuth := false, hs := 0, rsp := 0, outKey := (0, 0), inKey := (0, 0)
                       tx := 0, rx := 0, last := [], sentAt := 0, resent := false, missed := 0, awaiting := false
                       beat := 0, keys := [] } 1).accept
    | some x =>
      if x.unit ≠ u ∨ x.step.isSome = true then s.refuse 0x03
      else (s.askSwitch n { x with policy := argOf a 2, jslot := k } 8).accept

def State.cmdRevoke (s : State) (a : BitVec 512) : Reply :=
  if 12 ≤ argOf a 0 then s.refuse 0x02 else (s.revoke (argOf a 0)).accept

/-! ## The schedule (20 R402, R407) -/

def State.anyArmed (s : State) : Bool := s.fabric.ents.any fun t => t.st == 1

/-- Limits of the constants; the gutter holds ceil(332.8 F) + 274 ticks of a folio. -/
def planOk (g0 p f d : Nat) : Bool :=
  decide (g0 < 2 ^ 64) && decide (1024 ≤ p) && decide (p < 2 ^ 32) && decide (1 ≤ d) && decide (d ≤ 15)
    && decide (d + 2 ≤ f) && decide (f ≤ 255) && decide ((3328 * f + 9) / 10 + 274 ≤ p)

/-- The schedule under new constants: the first folio to begin carries the first slots. -/
def State.loadPlan (s : State) (pl : Plan) : State :=
  let keep := match s.fabric.plan with | some o => o.f == pl.f | none => true
  let n := if s.gc < pl.g0 then 0 else pl.folioAt s.gc
  let first := if s.gc ≤ pl.g0 then 0 else n + 1
  { s with fabric := { s.fabric with
      plan := some pl, folio := n, failed := [], marks := [], stops := [], hold := none, resume := none
      ports := s.fabric.ports.mapIdx fun _ (q : Port) =>
        { q with
          tx := if keep then q.tx else [], rx := if keep then q.rx else []
          siding := [], losses := [], arrived := [], out := [], held := [], tagged := (0, 0), waiting := [], asks := [], asked := [], mark := []
          dataAt := (first, 0), ctlAt := (first, 0) } } }

def State.cmdSchedload (s : State) (a : BitVec 512) : Reply :=
  if !planOk (argOf a 0) (argOf a 1) (argOf a 2) (argOf a 3) then s.refuse 0x02
  else if s.anyArmed then s.refuse 0x03
  else (s.loadPlan ⟨argOf a 0, argOf a 1, argOf a 2, argOf a 3⟩).accept

/-- A template as memory holds it: frames times 256 entries of 8 bytes. -/
def State.template (s : State) (addr f : Nat) : Cells W64 :=
  ((List.range (256 * f)).map fun j => (j, BitVec.ofNat 64 (s.mem.word (addr + 8 * j) 8))).filter fun x => x.2 != 0

def State.cmdTmplload (s : State) (a : BitVec 512) : Reply :=
  match s.fabric.plan with
  | none => if 12 ≤ argOf a 0 then s.refuse 0x02 else s.refuse 0x03
  | some pl =>
    if 12 ≤ argOf a 0 ∨ s.mem.cap < argOf a 1 + 2048 * pl.f ∨ s.mem.cap < argOf a 2 + 2048 * pl.f then s.refuse 0x02
    else if s.anyArmed then s.refuse 0x03
    else (s.updPort (argOf a 0) fun q =>
      { q with tx := s.template (argOf a 1) pl.f, rx := s.template (argOf a 2) pl.f }).accept

/-! ## Channels, matrix engines and caps -/

/-- WIDTHUP; `clear` says that the cause of the half width has gone (12 R237). -/
def State.cmdWidthup (s : State) (clear : Bool) (a : BitVec 512) : Reply :=
  let s := if clear then s.sense s.now (.lane (argOf a 0) false) else s
  if 256 ≤ argOf a 0 then s.refuse 0x02
  else if s.halfCause (argOf a 0) then s.refuse 0x03 else (s.setWidth (argOf a 0) false).accept

def State.cmdMxreset (s : State) (a : BitVec 512) : Reply :=
  if 32 ≤ argOf a 0 then s.refuse 0x02
  else if s.blocks.any fun b => b.cl == argOf a 0 && !b.retired && !b.tiles.isEmpty then s.refuse 0x03
  else (s.updCluster (argOf a 0) fun c =>
    { c with twins := ({ Twin.reset with temp := c.twins.1.temp }, { Twin.reset with temp := c.twins.2.temp }) }).accept

/-- RACKCAP through the mailbox: a malformed message returns 0x02, and every ignored one is counted (23 R463). -/
def State.cmdRackcap (s : State) (a : BitVec 512) : Reply :=
  let m : BitVec 128 := BitVec.ofNat 128 a.toNat
  ⟨if capOk m then 0 else 0x02, 0, s.rackCap m⟩

/-! ## TDISP (23 R455) -/

/-- A command that concerns a partition while its interface is locked, and is taken only in its session. -/
def State.lockedBy (s : State) (p op slot : Nat) (a : BitVec 512) : Bool :=
  s.isLocked p &&
    match op with
    | 0x0001 => argOf a 0 == p || (s.part p).clusters.any fun c => (argOf a 1).testBit c
    | 0x0002 => argOf a 1 == p || (match s.asid (argOf a 0) with | some e => e.part.val == p | none => false)
    | 0x0005 => argOf a 2 == p || (List.range 64).any fun k => (argOf a 1).testBit k &&
        (match ((s.cluster (argOf a 0)).sem k).owner with | some q => q.val == p | none => false)
    | 0x000B => s.mkeyUsed (some p) slot
    | 0x000D => s.jkeyArmed (some p) slot
    | _ => false

/-- Some locked partition shuts a command out of the mailbox. -/
def State.lockedOut (s : State) (op slot : Nat) (a : BitVec 512) : Bool :=
  (List.range 8).any fun p => s.lockedBy p op slot a

/-- A command by its opcode. -/
def State.perform (s : State) (op slot : Nat) (clear : Bool) (a : BitVec 512) : Reply :=
  match op with
  | 0x0001 => s.cmdPartdef a
  | 0x0002 => s.cmdAsidset a
  | 0x0003 => s.cmdMapfence a
  | 0x0004 => s.cmdTerminate a
  | 0x0005 => s.cmdSemassign a
  | 0x0006 => s.cmdRetire a
  | 0x0007 => s.cmdPreempt a
  | 0x0008 => s.cmdResume a
  | 0x0009 => s.cmdMresume a
  | 0x000A => s.cmdGsigack a
  | 0x000B => s.cmdMkeyload slot a
  | 0x000C => s.cmdMkeyunload slot
  | 0x000D => s.cmdJkeyload slot a
  | 0x000E => s.cmdJkeyunload slot
  | 0x000F => s.cmdAttest a
  | 0x0010 => s.cmdRevoke a
  | 0x0011 => s.cmdSchedload a
  | 0x0012 => s.cmdTmplload a
  | 0x0013 => s.cmdWidthup clear a
  | 0x0014 => s.cmdMxreset a
  | 0x0015 => s.cmdRackcap a
  | _ => s.refuse 0x01

end Sys2Proof.Machine
end

