-- ==== Sys2Proof/Machine/Host.lean ====
section
/-! DEFINITION. The host interface (23): ownership, commands in progress, register writes, the aperture, the boot, and the
meanings of the host rows. -/

namespace Sys2Proof.Machine

/-! ## Ownership and commands in progress (23 R449, R453) -/

def portIx (p : Bool) : Nat := bit p

/-- A write that is ignored, counted for its port, saturating. -/
def HostIf.ignore (h : HostIf) (p : Bool) : HostIf :=
  { h with ign := h.ign.setIfInBounds (portIx p) (min (2 ^ 32 - 1) ((h.ign[portIx p]?.getD 0) + 1)) }
def State.ignore (s : State) (p : Bool) : State := { s with host := s.host.ignore p }

/-- Ownership moves to the other port. -/
def State.moveOwner (s : State) : State :=
  { s with host := { s.host with owner := !s.host.owner, moving := false, moveAt := none } }.report
    (hostEv 0x011E none [bit !s.host.owner])

/-- The command in progress comes to its end: status and CMDRES are written, busy clears, its port is signalled, and a failover
that waits takes place in the cycle after, a GC tick later (log 119). -/
def HostIf.finish (h : HostIf) (t : Nat) (p : Bool) : HostIf :=
  { h with
    busy := none, status := h.reply.1, res := h.reply.2
    irqs := h.irqs.setIfInBounds (portIx p) ((h.irqs[portIx p]?.getD 0) + 1)
    moving := false, moveAt := if h.moving then some (t + Config.gcTick) else h.moveAt }

/-- What has come due at the host interface: the end of a command, a failover that has waited. -/
def State.endCommand (s : State) : State :=
  let s := match s.host.busy with
    | some (t, p) => if s.now < t then s else { s with host := s.host.finish t p }
    | none => s
  match s.host.moveAt with
  | some t => if s.now < t then s else s.moveOwner
  | none => s

/-- A write from a port to a register other than FAILOVER: ignored before boot completes, and counted when the port does
not own command. -/
def State.hostWrite (s : State) (p : Bool) (k : State → State) : State :=
  if !s.booted then s
  else
    let s := s.endCommand
    if s.host.owner != p then s.ignore p else k s

/-- A command runs; it ends a GC tick later. `reply` gives its outcome, which its end writes. -/
def State.startCommand (s : State) (p : Bool) (op : Nat) (reply : State → Reply) : State :=
  if s.host.busy.isSome then { s with host := { s.host with overrun := true } }
  else
    let r := reply s
    { r.st with host := { r.st.host with
        busy := some (s.now + Config.gcTick, p), overrun := false, op := op, reply := (r.status, BitVec.ofNat 64 r.res) } }

/-- A write of CMD (23 R453, R455). -/
def State.command (s : State) (p : Bool) (op slot : Nat) (clear : Bool) : State :=
  s.hostWrite p fun s => s.startCommand p op fun s =>
    if s.lockedOut op slot s.host.arg then s.refuse 0x04 else s.perform op slot clear s.host.arg

/-! ## Partition pages (18 R332, 23 R451, R475) -/

/-- A write to a partition's page that is ignored: counted, and reported with event 0x011F. -/
def State.refuseWrite (s : State) (port : Bool) (p off value : Nat) : State :=
  (s.ignore port).report (hostEv 0x011F (some p) [p, off, value])

/-- The condition area lies in the graph region. -/
def Part.areaOk (q : Part) (v : Nat) : Bool :=
  v % 512 == 0 && decide (q.grbase.toNat ≤ v) && decide (v + 512 ≤ q.grbase.toNat + 65536 * q.grsize.toNat)

/-- The page with a value stored in a register that takes it; none where the register's row does not. -/
def Part.store (q : Part) (off v : Nat) : Option Part :=
  let when (c : Bool) (q : Part) : Option Part := if c then some q else none
  match off with
  | 0x000 => when (v % 16 == 0) { q with qbase := BitVec.ofNat 64 v }
  | 0x008 => when (decide (v ≤ 12)) { q with qsize := BitVec.ofNat 8 v }
  | 0x020 => when (v % 65536 == 0) { q with grbase := BitVec.ofNat 64 v }
  | 0x028 => some { q with grsize := BitVec.ofNat 32 v }
  | 0x030 => when (q.areaOk v) { q with cwbase := BitVec.ofNat 64 v }
  | 0x088 => when (decide (64 ≤ v) && decide (v ≤ 65535)) { q with stalllim := v }
  | 0x090 => when (v % 32 == 0) { q with spillbase := BitVec.ofNat 64 v }
  | 0x098 => some { q with spillcnt := BitVec.ofNat 32 v }
  | 0x0A0 => some { q with wstbase := BitVec.ofNat 64 v }
  | 0x0A8 => when (v % 64 == 0) { q with ttbase := BitVec.ofNat 64 v }
  | 0x0B0 => when (decide (v ≤ 4096)) { q with ttsize := v }
  | 0x0B8 => some { q with rtbase := BitVec.ofNat 64 v }
  | 0x0C0 => some { q with ssbase := BitVec.ofNat 64 v }
  | 0x0C8 => some { q with policy := BitVec.ofNat 8 (v % 2) }
  | _ => none

/-- Registers of 32 bits or fewer of a page take the low word of a write. -/
def pageWidth (off : Nat) : Nat :=
  if off = 0x000 ∨ off = 0x020 ∨ off = 0x030 ∨ off = 0x090 ∨ off = 0x0A0 ∨ off = 0x0A8 ∨ off = 0x0B8 ∨ off = 0x0C0
  then 64 else 32

/-- Registers of a page that a write can change, QTAIL aside. -/
def pageWritable (off : Nat) : Bool :=
  [0x000, 0x008, 0x020, 0x028, 0x030, 0x088, 0x090, 0x098, 0x0A0, 0x0A8, 0x0B0, 0x0B8, 0x0C0, 0x0C8].contains off

/-- The partition's state bars a write at an offset. -/
def State.pageBarred (s : State) (p off : Nat) : Bool :=
  if off < 0x088 then (s.part p).mstate != .idle
  else s.resident p || s.fabric.ents.any fun t => t.part == p && t.st == 1

/-- A write of a page's register. -/
def State.writePage (s : State) (port : Bool) (p off value : Nat) : State :=
  let v := value % 2 ^ pageWidth off
  if !pageWritable off then s
  else if s.pageBarred p off then s.refuseWrite port p off v
  else match (s.part p).store off v with
    | some q => s.updPart p fun _ => q
    | none => s.refuseWrite port p off v

/-- A write of QTAIL: entries submitted, or a refusal. -/
def State.writeQtail (s : State) (port : Bool) (p : Nat) (v : W32) : State :=
  let q := s.part p
  if (q.qtail - q.qhead).toNat ≤ (v - q.qhead).toNat ∧ (v - q.qhead).toNat ≤ 2 ^ q.qsize.toNat then
    s.updPart p fun q => { q with qtail := v }
  else s.refuseWrite port p 0x010 v.toNat

/-! ## Slot tables (11 R232, 12 R244, R247) -/

/-- Every run of 16 cyclically consecutive entries has a gutter slot. -/
def guttersOk (t : Vector Byte 64) : Bool :=
  (List.range 64).all fun i => (List.range 16).any fun j => fld (t[(i + j) % 64]?.getD 0).toNat 6 2 == 2

def entryOwner (b : Byte) : Option Nat := if fld b.toNat 6 2 = 1 then some (fld b.toNat 3 3) else none

/-- A resident partition owns an entry. -/
def State.heldEntry (s : State) (b : Byte) : Bool :=
  match entryOwner b with
  | some p => s.resident p
  | none => false

def State.lockedEntry (s : State) (b : Byte) : Bool :=
  match entryOwner b with
  | some p => s.isLocked p
  | none => false

/-- A write of a slot-table entry, for the next period. -/
def State.writeSlot (s : State) (port : Bool) (pc i : Nat) (v : Byte) (secure : Bool) : State :=
  if 512 ≤ pc ∨ 64 ≤ i then s
  else
    let c := s.chan pc
    let old := c.tableNext[i]?.getD 0
    let v := v &&& 0xFC
    let t := c.tableNext.setIfInBounds i v
    let swept := s.mem.sweep.isSome && s.mem.live.contains pc && decide (Chan.migration t < 4)
    if v = old then s
    else if !secure && (s.lockedEntry old || s.lockedEntry v) then s.ignore port
    else if s.heldEntry old || s.heldEntry (c.table[i]?.getD 0) || s.heldEntry v || swept
        || (s.mem.live.contains pc && !guttersOk t) then s.ignore port
    else s.updChan pc fun c => { c with tableNext := t }

/-! ## Registers of the device (23 R450, R456 to R460, R475) -/

/-- The new value of a field coded as PASSHOST: 0, 1 and 2 stand for 1, 2 and 4, and 3 changes nothing. -/
def coded (old v : Nat) : Nat := if v = 3 then old else 2 ^ v

def State.writePass (s : State) (v : Nat) : State :=
  { s with clusters := s.clusters.mapIdx fun c (x : Cluster) => { x with hostPass := coded x.hostPass (fld v (2 * c) 2) } }

/-- Ceilings; an override above its own comes down at the next boundary (cause 4, log 32). -/
def State.writeCeil (s : State) (v : Nat) : State :=
  { s with clusters := s.clusters.mapIdx fun c (x : Cluster) =>
      let n := coded x.ceil (fld v (2 * c) 2)
      { x with ceil := n, overNext := if n < x.overDue then some (n, 4) else x.overNext } }

/-- The ratios of the slices from `lo` on: a bit each. -/
def State.writeRatio (s : State) (lo n v : Nat) : State :=
  { s with slices := s.slices.mapIdx fun k (x : Slice) =>
      if lo ≤ k ∧ k < lo + n then { x with ratioNext := 1 + fld v (k - lo) 1 } else x }

/-- EVBASE and EVSIZE take writes while the ring is empty. -/
def State.writeRing (s : State) (port ok : Bool) (f : Arb → Arb) : State :=
  if s.arb.tail = s.arb.head ∧ ok = true then { s with arb := f s.arb } else s.ignore port

/-- FAILOVER (23 R449). -/
def State.failover (s : State) (p : Bool) (v : W32) : State :=
  if !s.booted then s
  else
    let s := s.endCommand
    if s.host.owner == p || v != 0xF0F0 then s.ignore p
    else if s.host.busy.isSome then { s with host := { s.host with moving := true } }
    else s.moveOwner

/-- A write of any register of BAR0 by its offset; read-only and unlisted offsets ignore it. -/
def State.writeReg (s : State) (port secure : Bool) (off : Nat) (value : W64) : State :=
  let v := value.toNat
  let keep (ok : Bool) (h : HostIf) : State := if ok then { s with host := h } else s.ignore port
  if 0x20000 ≤ off ∧ off < 0x28000 then
    let p := (off - 0x20000) / 0x1000
    if !secure && s.isLocked p then s.ignore port
    else if off % 0x1000 = 0x010 then s.writeQtail port p (BitVec.ofNat 32 v)
    else s.writePage port p (off % 0x1000) v
  else if 0x8000 ≤ off ∧ off < 0x10000 then
    s.writeSlot port ((off - 0x8000) / 64) (off % 64) (BitVec.ofNat 8 v) secure
  else if 0x1000 ≤ off ∧ off < 0x1040 then
    let k := (off - 0x1000) / 8
    keep true { s.host with
      arg := BitVec.ofNat 512 (s.host.arg.toNat - argOf s.host.arg k * 2 ^ (64 * k) + v * 2 ^ (64 * k)) }
  else match off with
    | 0x1040 => s.startCommand port (fld v 0 16) fun s =>
        if s.lockedOut (fld v 0 16) (fld v 16 8) s.host.arg then s.refuse 0x04
        else s.perform (fld v 0 16) (fld v 16 8) false s.host.arg
    | 0x2000 => s.mailbox (Fin.ofNat 16 v)
    | 0x2010 => s.writePass v
    | 0x2018 => s.writeCeil v
    | 0x2028 => s.writeRatio 0 64 v
    | 0x2030 => s.writeRatio 64 64 v
    | 0x2038 => s.writeRatio 128 64 v
    | 0x2040 => keep true { s.host with rota := BitVec.ofNat 32 (v % 2 ^ 16) }
    | 0x2048 => (keep true { s.host with templim := BitVec.ofNat 32 (v % 2 ^ 16) }).coolStacks
    | 0x3000 => s.writeRing port (v % 64 == 0) fun a => { a with base := value }
    | 0x3008 => s.writeRing port (decide (4 ≤ v % 2 ^ 32) && decide (v % 2 ^ 32 ≤ 20)) fun a => { a with size := v % 2 ^ 32 }
    | 0x3010 => { s with arb := { s.arb with head := BitVec.ofNat 32 v } }
    | 0x3020 => keep (v % 65536 == 0) { s.host with asidtbl := value }
    | 0x3028 => keep (v % 2 ^ 32 == 0) { s.host with apbase := value }
    | _ => s

/-! ## The aperture (23 R448, R455) -/

/-- The bytes lie in a window of a locked partition's contexts. -/
def State.inLocked (s : State) (pa n : Nat) : Bool :=
  s.grids.any fun g => s.isLocked g.part && g.windows.any fun w =>
    w.enabled && w.kind != 1 && decide (pa < w.ibase + w.bytes) && decide (w.ibase < pa + n)

/-- Keys of the atoms that a run of bytes touches. -/
def State.atomsAt (s : State) (pa n : Nat) : List Nat :=
  (List.range ((pa % 32 + n + 31) / 32)).map fun j => s.mem.key (pa / 32 * 32 + 32 * j)

/-- A BAR2 access: its bytes, or Completer Abort. -/
def State.aperture (s : State) (write bound : Bool) (off n : Nat) (data : List Byte) : State :=
  let pa := s.host.apbase.toNat + off
  let abort : State := { s with host := { s.host with bar2 := none } }
  if s.inLocked pa n && !bound then abort
  else if s.mem.cap < pa + n then
    abort.report { (default : Ev) with code := 0x0006, kind := 12, detail := [pa / 512] }
  else
    let whole := if write then s.mem.wholeAtoms pa n else []
    if (s.atomsAt pa n).any fun k => s.mem.poison.contains k && !whole.contains k then
      abort.report { (default : Ev) with code := 0x0005, kind := 12, detail := [pa / 512] }
    else if write then
      { s with
        mem := s.mem.writeMany pa ((data ++ List.replicate n 0).take n)
        host := { s.host with bar2 := some [] } }
    else { s with host := { s.host with bar2 := some (s.mem.readMany pa n) } }

def execBar2Access (port write bound : Bool) (off len : Nat) (data : List Byte) (s : State) : Out State Fault Refusal :=
  .next (if !s.booted || decide (2 ^ 32 < off + len) then s
    else if write then s.hostWrite port fun s => s.aperture true bound off len data
    else s.aperture false bound off len data)

/-! ## Messages over DOE (23 R448, R455) -/

/-- A register write that a partition's session takes: to its page, or to a slot-table entry that it owns. -/
def State.sessionWrite (s : State) (p off : Nat) : Bool :=
  s.isLocked p && (decide (0x20000 + 0x1000 * p ≤ off) && decide (off < 0x21000 + 0x1000 * p)
    || decide (0x8000 ≤ off) && decide (off < 0x10000)
        && entryOwner ((s.chan ((off - 0x8000) / 64)).tableNext[off % 64]?.getD 0) == some p)

/-- A message: a request is answered; the session of a locked interface takes the commands that concern its partition, unless
they concern another locked one too, and its writes (log 120). -/
def State.spdm (s : State) (m : SpdmMsg) : State :=
  match m with
  | .request m => { s with
      host := { s.host with doe := natBytes (s.respond m) }, free := s.free + respDraws m }
  | .lock p l => s.updPart p.val fun q => { q with locked := l }
  | .command p op slot args =>
    let a := BitVec.ofNat 512 (args.zipIdx.foldl (fun v x => v + x.1.toNat * 2 ^ (64 * x.2)) 0)
    let others := (List.range 8).any fun q => q != p.val && s.lockedBy q op.toNat slot.toNat a
    if s.lockedBy p.val op.toNat slot.toNat a && !others then (s.perform op.toNat slot.toNat false a).st else s
  | .write p off v => if s.sessionWrite p.val off then s.writeReg s.host.owner true off (BitVec.ofNat 64 v) else s

def execHostSpdmRequest (msg : SpdmMsg) (s : State) : Out State Fault Refusal :=
  .next (if s.booted then s.endCommand.spdm msg else s)

/-! ## Register writes -/

def execQtailWrite (port : Bool) (part : Fin 8) (value : W32) (s : State) : Out State Fault Refusal :=
  .next (s.hostWrite port fun s =>
    if s.isLocked part.val then s.ignore port else s.writeQtail port part.val value)

def execFailoverWrite (port : Bool) (value : W32) (s : State) : Out State Fault Refusal := .next (s.failover port value)

def execVftgtWrite (port : Bool) (value : W32) (s : State) : Out State Fault Refusal :=
  .next (s.hostWrite port fun s => s.mailbox (Fin.ofNat 16 value.toNat))

def execPasshostWrite (port : Bool) (value : W64) (s : State) : Out State Fault Refusal :=
  .next (s.hostWrite port fun s => s.writePass value.toNat)

def execOvrceilWrite (port : Bool) (value : W64) (s : State) : Out State Fault Refusal :=
  .next (s.hostWrite port fun s => s.writeCeil value.toNat)

def execRatioWrite (port : Bool) (value : BitVec 192) (s : State) : Out State Fault Refusal :=
  .next (s.hostWrite port fun s => s.writeRatio 0 192 value.toNat)

def execSlotTableWrite (port : Bool) (pc i : Nat) (value : Byte) (s : State) : Out State Fault Refusal :=
  .next (s.hostWrite port fun s => s.writeSlot port pc i value false)

def execRegisterWrite (port : Bool) (off : Nat) (value : W64) (s : State) : Out State Fault Refusal :=
  .next (if off = 0x0018 then s.failover port (BitVec.ofNat 32 value.toNat)
    else s.hostWrite port fun s => s.writeReg port false off value)

/-! ## Commands (23 R453) -/

def execPartdef (port : Bool) (s : State) : Out State Fault Refusal := .next (s.command port 0x0001 0 false)
def execAsidset (port : Bool) (s : State) : Out State Fault Refusal := .next (s.command port 0x0002 0 false)
def execMapfence (port : Bool) (s : State) : Out State Fault Refusal := .next (s.command port 0x0003 0 false)
def execTerminate (port : Bool) (s : State) : Out State Fault Refusal := .next (s.command port 0x0004 0 false)
def execSemassign (port : Bool) (s : State) : Out State Fault Refusal := .next (s.command port 0x0005 0 false)
def execRetire (port : Bool) (s : State) : Out State Fault Refusal := .next (s.command port 0x0006 0 false)
def execPreempt (port : Bool) (s : State) : Out State Fault Refusal := .next (s.command port 0x0007 0 false)
def execResume (port : Bool) (s : State) : Out State Fault Refusal := .next (s.command port 0x0008 0 false)
def execMresume (port : Bool) (s : State) : Out State Fault Refusal := .next (s.command port 0x0009 0 false)
def execGsigack (port : Bool) (s : State) : Out State Fault Refusal := .next (s.command port 0x000A 0 false)
def execMkeyload (port : Bool) (slot : BitVec 8) (s : State) : Out State Fault Refusal :=
  .next (s.command port 0x000B slot.toNat false)
def execMkeyunload (port : Bool) (slot : BitVec 8) (s : State) : Out State Fault Refusal :=
  .next (s.command port 0x000C slot.toNat false)
def execJkeyload (port : Bool) (slot : BitVec 8) (s : State) : Out State Fault Refusal :=
  .next (s.command port 0x000D slot.toNat false)
def execJkeyunload (port : Bool) (slot : BitVec 8) (s : State) : Out State Fault Refusal :=
  .next (s.command port 0x000E slot.toNat false)
def execAttest (port : Bool) (s : State) : Out State Fault Refusal := .next (s.command port 0x000F 0 false)
def execRevoke (port : Bool) (s : State) : Out State Fault Refusal := .next (s.command port 0x0010 0 false)
def execSchedload (port : Bool) (s : State) : Out State Fault Refusal := .next (s.command port 0x0011 0 false)
def execTmplload (port : Bool) (s : State) : Out State Fault Refusal := .next (s.command port 0x0012 0 false)
def execWidthup (port clear : Bool) (s : State) : Out State Fault Refusal := .next (s.command port 0x0013 0 clear)
def execMxreset (port : Bool) (s : State) : Out State Fault Refusal := .next (s.command port 0x0014 0 false)

/-- A rack cap message: through the management port, or as a command. -/
def execRackcap (mgmt : Option (BitVec 128)) (port : Bool) (s : State) : Out State Fault Refusal :=
  .next (match mgmt with
    | some m => if s.booted then s.rackCap m else s
    | none => s.command port 0x0015 0 false)

/-! ## The boot (23 R467, R468; 12 R240) -/

/-- The live list of a retire mask. -/
def liveList (mask : BitVec 512) : List Nat :=
  ((List.range 512).map fun i => 64 * (i % 8) + i / 8).filter fun p => !mask.getLsbD p

/-- The device after power-on: every field at reset, with the flash, the time and the environment's agenda kept. -/
def State.cleared (s : State) : State :=
  { State.reset with
    flash := s.flash, now := s.now, gcAt := s.now, nextUid := s.nextUid, agenda := s.agenda, sensors := s.sensors, free := s.free }

/-- A boot that stops in a step. -/
def State.stopBoot (s : State) (stage code : Nat) : State :=
  { s with host := { s.host with stage := stage, bootCode := some code } }

def State.measure (s : State) : List (List Byte) :=
  [s.flash.rom, s.flash.firmware, s.flash.records].map fun b => natBytes (sha3_384 (bytesNat b))

/-- The configuration applied: clocks, voltage point, host registers and live list. -/
def State.configure (s : State) : State :=
  let k := s.clockOf s.flash.point
  { s with
    booted := true
    slices := List.replicate 192 Slice.reset
    clusters := List.replicate 32 { Cluster.reset k with t0 := s.now }
    mem := { s.mem with live := liveList s.flash.retire }
    host := { s.host with
      stage := 5, rota := s.flash.rota, templim := s.flash.templim
      vf := { s.host.vf with current := s.flash.point, since := s.now, volt := s.voltOf s.flash.point } } }

/-- The boot ROM's steps. -/
def State.boot (s : State) (trained : Bool) : State :=
  let s := s.cleared
  if !s.flash.signed then s.stopBoot 2 0x01
  else
    let s := { s with host := { s.host with measured := s.measure } }
    if !s.flash.wellFormed then s.stopBoot 4 0x02
    else if !trained then s.stopBoot 4 0x04
    else if (liveList s.flash.retire).isEmpty then s.stopBoot 5 0x03
    else s.configure

def execReset (trained : Bool) (s : State) : Out State Fault Refusal := .next (s.boot trained)

/-! ## Words with no instruction (03 R65, R66) -/

/-- An assigned opcode whose word holds a predicate: the R and M formats. -/
def predicated (op : Nat) : Bool :=
  match shapes op with
  | some f => (List.range 64).all fun sub => match f sub with
    | some (.i _) | some (.iQ _) | some (.l _) => false
    | _ => true
  | none => false

/-- Active lanes of a word that decodes to nothing: those of its predicate field, or the whole path. -/
def State.wordLanes (s : State) (w : Nat) : W32 :=
  if predicated (fld w 56 8) then
    let (p, neg) := decPred w
    if p.val = 0 then (if neg then 0 else s.path.lanes)
    else s.path.lanes &&& (if neg then ~~~ s.w.mreg p.val else s.w.mreg p.val)
  else s.path.lanes

/-- A rejected word that step 2 of 03 R66 rejects by its position: a control transfer that is not last, or a MOVL whose
first word is. -/
def State.misplacedWord (s : State) (w : Nat) : Bool :=
  let op := fld w 56 8
  if op = 0x1E then s.isLast
  else (decide (0x40 ≤ op ∧ op ≤ 0x46) || op == 0xB1 || op == 0xB6) && !s.isLast

/-- A word with its literal names a marked register (19 R358). -/
def State.markedWord (s : State) (w lit : Nat) : Bool :=
  match looseWave w lit with
  | some i => (s.w.named i).any fun r => s.w.marks.contains r
  | none => false

/-- The trap of a word that the decoder rejects. -/
def State.rejectTrap (s : State) (w lit : Nat) (r : Reject) : State :=
  s.takeTrap (s.wordLanes w) (trapOf (if s.markedWord w lit then 0x0A else match r with
    | .illegal => 0x01
    | .reserved => if s.misplacedWord w then 0x01 else 0x03))

/-- A word with no instruction in a wave's stream: wrong-stream for a graph opcode, illegal-instruction otherwise. -/
def execUnassignedOpcode (w : W64) (s : State) : Out State Fault Refusal :=
  let op := fld w.toNat 56 8
  .next (s.takeTrap s.path.lanes (trapOf (if 0xC0 ≤ op ∧ op ≤ 0xCA then 0x11 else 0x01)))

end Sys2Proof.Machine
end

