-- ==== Sys2Proof/Machine/Dispatch.lean ====
section
/-! DEFINITION. One arm for each constructor of Instr: the instruction's meaning. -/

namespace Sys2Proof.Machine

def exec (i : Instr) (s : State) : Host.Outcome State Fault Refusal :=
  match i with
  | .iadd t r => Sys2Proof.Machine.execIadd t r s
  | .isub t r => Sys2Proof.Machine.execIsub t r s
  | .imul t r => Sys2Proof.Machine.execImul t r s
  | .imulhi t r => Sys2Proof.Machine.execImulhi t r s
  | .imad t r => Sys2Proof.Machine.execImad t r s
  | .idiv t r => Sys2Proof.Machine.execIdiv t r s
  | .irem t r => Sys2Proof.Machine.execIrem t r s
  | .imin t r => Sys2Proof.Machine.execImin t r s
  | .imax t r => Sys2Proof.Machine.execImax t r s
  | .iabs t r => Sys2Proof.Machine.execIabs t r s
  | .ineg t r => Sys2Proof.Machine.execIneg t r s
  | .land t r => Sys2Proof.Machine.execAnd t r s
  | .lor t r => Sys2Proof.Machine.execOr t r s
  | .lxor t r => Sys2Proof.Machine.execXor t r s
  | .landn t r => Sys2Proof.Machine.execAndn t r s
  | .lnot t r => Sys2Proof.Machine.execNot t r s
  | .shl t r => Sys2Proof.Machine.execShl t r s
  | .shr t r => Sys2Proof.Machine.execShr t r s
  | .sar t r => Sys2Proof.Machine.execSar t r s
  | .rot t right r => Sys2Proof.Machine.execRot t right r s
  | .bfx t r => Sys2Proof.Machine.execBfx t r s
  | .bfi t r => Sys2Proof.Machine.execBfi t r s
  | .popc t r => Sys2Proof.Machine.execPopc t r s
  | .clz t r => Sys2Proof.Machine.execClz t r s
  | .ctz t r => Sys2Proof.Machine.execCtz t r s
  | .brev t r => Sys2Proof.Machine.execBrev t r s
  | .icmp cc t r => Sys2Proof.Machine.execIcmp cc t r s
  | .sel t r => Sys2Proof.Machine.execSel t r s
  | .mov t r => Sys2Proof.Machine.execMov t r s
  | .movi k d imm => Sys2Proof.Machine.execMovi k d imm s
  | .movl k d lit => Sys2Proof.Machine.execMovl k d lit s
  | .lea t sc r => Sys2Proof.Machine.execLea t sc r s
  | .fadd t r => Sys2Proof.Machine.execFadd t r s
  | .fsub t r => Sys2Proof.Machine.execFsub t r s
  | .fmul t r => Sys2Proof.Machine.execFmul t r s
  | .fma t r => Sys2Proof.Machine.execFma t r s
  | .fmin t r => Sys2Proof.Machine.execFmin t r s
  | .fmax t r => Sys2Proof.Machine.execFmax t r s
  | .fcmp cc t r => Sys2Proof.Machine.execFcmp cc t r s
  | .fclass t r => Sys2Proof.Machine.execFclass t r s
  | .fdiv t r => Sys2Proof.Machine.execFdiv t r s
  | .fsqrt t r => Sys2Proof.Machine.execFsqrt t r s
  | .frcp t r => Sys2Proof.Machine.execFrcp t r s
  | .frsq t r => Sys2Proof.Machine.execFrsq t r s
  | .fexp t r => Sys2Proof.Machine.execFexp t r s
  | .fexp2 t r => Sys2Proof.Machine.execFexp2 t r s
  | .flog t r => Sys2Proof.Machine.execFlog t r s
  | .flog2 t r => Sys2Proof.Machine.execFlog2 t r s
  | .ferf t r => Sys2Proof.Machine.execFerf t r s
  | .ferfc t r => Sys2Proof.Machine.execFerfc t r s
  | .fint t r => Sys2Proof.Machine.execFint t r s
  | .fscale t e8 r => Sys2Proof.Machine.execFscale t e8 r s
  | .ffrexp t exp r => Sys2Proof.Machine.execFfrexp t exp r s
  | .cvt dst src r => Sys2Proof.Machine.execCvt dst src r s
  | .fxrd r => Sys2Proof.Machine.execFxrd r s
  | .fxclr r => Sys2Proof.Machine.execFxclr r s
  | .fxen r => Sys2Proof.Machine.execFxen r s
  | .dot4 e r => Sys2Proof.Machine.execDot4 e r s
  | .dot8 e r => Sys2Proof.Machine.execDot8 e r s
  | .pack e j r => Sys2Proof.Machine.execPack e j r s
  | .unpack e j r => Sys2Proof.Machine.execUnpack e j r s
  | .mxq e scale r => Sys2Proof.Machine.execMxq e scale r s
  | .fsgn t op r => Sys2Proof.Machine.execFsgn t op r s
  | .bra imm => Sys2Proof.Machine.execBra imm s
  | .brc z a imm => Sys2Proof.Machine.execBrc z a imm s
  | .jmpi r => Sys2Proof.Machine.execJmpi r s
  | .call imm => Sys2Proof.Machine.execCall imm s
  | .calli r => Sys2Proof.Machine.execCalli r s
  | .ret r => Sys2Proof.Machine.execRet r s
  | .exit r => Sys2Proof.Machine.execExit r s
  | .nop r => Sys2Proof.Machine.execNop r s
  | .elb imm => Sys2Proof.Machine.execElb imm s
  | .ld sx a64 m => Sys2Proof.Machine.execLd sx a64 m s
  | .st a64 m => Sys2Proof.Machine.execSt a64 m s
  | .lds sx a64 m => Sys2Proof.Machine.execLds sx a64 m s
  | .sts a64 m => Sys2Proof.Machine.execSts a64 m s
  | .idrd k r => Sys2Proof.Machine.execIdrd k r s
  | .shfl mode b64 r => Sys2Proof.Machine.execShfl mode b64 r s
  | .vote op r => Sys2Proof.Machine.execVote op r s
  | .bcast mode b64 r => Sys2Proof.Machine.execBcast mode b64 r s
  | .wred t op r => Sys2Proof.Machine.execWred t op r s
  | .wscan t op excl r => Sys2Proof.Machine.execWscan t op excl r s
  | .actm run r => Sys2Proof.Machine.execActm run r s
  | .binit b r => Sys2Proof.Machine.execBinit b r s
  | .barv b r => Sys2Proof.Machine.execBarv b r s
  | .bwait b r => Sys2Proof.Machine.execBwait b r s
  | .barw b r => Sys2Proof.Machine.execBarw b r s
  | .binval b r => Sys2Proof.Machine.execBinval b r s
  | .brdf fd b r => Sys2Proof.Machine.execBrdf fd b r s
  | .mma z t r => Sys2Proof.Machine.execMma z t r s
  | .mmasp z t r => Sys2Proof.Machine.execMmasp z t r s
  | .tzero t r => Sys2Proof.Machine.execTzero t r s
  | .tld fm t r => Sys2Proof.Machine.execTld fm t r s
  | .tst fm t r => Sys2Proof.Machine.execTst fm t r s
  | .tflg op t r => Sys2Proof.Machine.execTflg op t r s
  | .lrel r => Sys2Proof.Machine.execLrel r s
  | .gath sx rp m => Sys2Proof.Machine.execGath sx rp m s
  | .scat rp m => Sys2Proof.Machine.execScat rp m s
  | .pgreq w m => Sys2Proof.Machine.execPgreq w m s
  | .dscd m => Sys2Proof.Machine.execDscd m s
  | .fence mask m => Sys2Proof.Machine.execFence mask m s
  | .atom op m => Sys2Proof.Machine.execAtom op m s
  | .cas m => Sys2Proof.Machine.execCas m s
  | .red op m => Sys2Proof.Machine.execRed op m s
  | .redx op m => Sys2Proof.Machine.execRedx op m s
  | .ordfl r => Sys2Proof.Machine.execOrdfl r s
  | .pgqry m => Sys2Proof.Machine.execPgqry m s
  | .cpyj r => Sys2Proof.Machine.execCpyj r s
  | .gatj r => Sys2Proof.Machine.execGatj r s
  | .dgstj r => Sys2Proof.Machine.execDgstj r s
  | .semadd k r => Sys2Proof.Machine.execSemadd k r s
  | .semset k r => Sys2Proof.Machine.execSemset k r s
  | .semrd st k r => Sys2Proof.Machine.execSemrd st k r s
  | .semwt k r => Sys2Proof.Machine.execSemwt k r s
  | .flgclr r => Sys2Proof.Machine.execFlgclr r s
  | .flgrd r => Sys2Proof.Machine.execFlgrd r s
  | .jcan r => Sys2Proof.Machine.execJcan r s
  | .tready r => Sys2Proof.Machine.execTready r s
  | .tstat r => Sys2Proof.Machine.execTstat r s
  | .xld sx m => Sys2Proof.Machine.execXld sx m s
  | .xst m => Sys2Proof.Machine.execXst m s
  | .folrd k r => Sys2Proof.Machine.execFolrd k r s
  | .trap code => Sys2Proof.Machine.execTrap code s
  | .rte next r => Sys2Proof.Machine.execRte next r s
  | .csrrd n d => Sys2Proof.Machine.execCsrrd n d s
  | .csrwr n a => Sys2Proof.Machine.execCsrwr n a s
  | .qrd q k => Sys2Proof.Machine.execQrd q k s
  | .qst q m => Sys2Proof.Machine.execQst q m s
  | .restart r => Sys2Proof.Machine.execRestart r s
  | .pkwr r => Sys2Proof.Machine.execPkwr r s
  | .glaunch g rel addr sten cw => Sys2Proof.Machine.execGlaunch g rel addr sten cw s
  | .gcoll g first cntm1 step sten cw => Sys2Proof.Machine.execGcoll g first cntm1 step sten cw s
  | .gphase g budget => Sys2Proof.Machine.execGphase g budget s
  | .gif g t f => Sys2Proof.Machine.execGif g t f s
  | .gwhile g off bound => Sys2Proof.Machine.execGwhile g off bound s
  | .gjmp g off => Sys2Proof.Machine.execGjmp g off s
  | .gwaitgc g mode => Sys2Proof.Machine.execGwaitgc g mode s
  | .gwaitsem g threshold cl k => Sys2Proof.Machine.execGwaitsem g threshold cl k s
  | .gsetc g cw add value => Sys2Proof.Machine.execGsetc g cw add value s
  | .gsig g wait value => Sys2Proof.Machine.execGsig g wait value s
  | .ghalt g code => Sys2Proof.Machine.execGhalt g code s
  | .blockStart wv lane => Sys2Proof.Machine.execBlockStart wv lane s
  | .roundBoundary slice => Sys2Proof.Machine.execRoundBoundary slice s
  | .resultDelivery wv k => Sys2Proof.Machine.execResultDelivery wv k s
  | .class0AccessEffect k => Sys2Proof.Machine.execClass0AccessEffect k s
  | .class1Completion k => Sys2Proof.Machine.execClass1Completion k s
  | .pageWalkRead k => Sys2Proof.Machine.execPageWalkRead k s
  | .elasticDeadline wv => Sys2Proof.Machine.execElasticDeadline wv s
  | .barrierResume wv lane => Sys2Proof.Machine.execBarrierResume wv lane s
  | .releaseStallEnd cl => Sys2Proof.Machine.execReleaseStallEnd cl s
  | .padAtomicChain k => Sys2Proof.Machine.execPadAtomicChain k s
  | .redxRedirectWrite k => Sys2Proof.Machine.execRedxRedirectWrite k s
  | .engineSpan k proofFails => Sys2Proof.Machine.execEngineSpan k proofFails s
  | .tileUpdate k => Sys2Proof.Machine.execTileUpdate k s
  | .copyChunk k => Sys2Proof.Machine.execCopyChunk k s
  | .gatherChunk k => Sys2Proof.Machine.execGatherChunk k s
  | .digestChunk k => Sys2Proof.Machine.execDigestChunk k s
  | .semaphoreResume wv lane => Sys2Proof.Machine.execSemaphoreResume wv lane s
  | .stallResume cl => Sys2Proof.Machine.execStallResume cl s
  | .stallLimitExpiry cl => Sys2Proof.Machine.execStallLimitExpiry cl s
  | .memoryRequestDispatch k => Sys2Proof.Machine.execMemoryRequestDispatch k s
  | .memorySlotService pc ecc => Sys2Proof.Machine.execMemorySlotService pc ecc s
  | .eccRetry pc ecc => Sys2Proof.Machine.execEccRetry pc ecc s
  | .refresh pc => Sys2Proof.Machine.execRefresh pc s
  | .slotTablePeriod pc => Sys2Proof.Machine.execSlotTablePeriod pc s
  | .channelHalfWidth ch => Sys2Proof.Machine.execChannelHalfWidth ch s
  | .sweepGranule ecc => Sys2Proof.Machine.execSweepGranule ecc s
  | .groomVisit base find => Sys2Proof.Machine.execGroomVisit base find s
  | .faultRecordPost asid => Sys2Proof.Machine.execFaultRecordPost asid s
  | .completionRecordRead asid => Sys2Proof.Machine.execCompletionRecordRead asid s
  | .faultRecordServed asid seq => Sys2Proof.Machine.execFaultRecordServed asid seq s
  | .mappingFenceComplete asid => Sys2Proof.Machine.execMappingFenceComplete asid s
  | .windowCloseMerge grid => Sys2Proof.Machine.execWindowCloseMerge grid s
  | .blockPlacement part => Sys2Proof.Machine.execBlockPlacement part s
  | .waveStart wv => Sys2Proof.Machine.execWaveStart wv s
  | .blockRetire grid bl => Sys2Proof.Machine.execBlockRetire grid bl s
  | .blockBudgetExpiry grid bl => Sys2Proof.Machine.execBlockBudgetExpiry grid bl s
  | .gridBudgetExpiry grid => Sys2Proof.Machine.execGridBudgetExpiry grid s
  | .queueEntryTake part => Sys2Proof.Machine.execQueueEntryTake part s
  | .launchCheck part => Sys2Proof.Machine.execLaunchCheck part s
  | .gwaitgcTargetReached part => Sys2Proof.Machine.execGwaitgcTargetReached part s
  | .gwaitsemSatisfied part k => Sys2Proof.Machine.execGwaitsemSatisfied part k s
  | .phaseDeadlineExpiry part => Sys2Proof.Machine.execPhaseDeadlineExpiry part s
  | .entryFire part e => Sys2Proof.Machine.execEntryFire part e s
  | .transmitSlotRead port frame pos => Sys2Proof.Machine.execTransmitSlotRead port frame pos s
  | .slotArrival port k => Sys2Proof.Machine.execSlotArrival port k s
  | .tagSlotArrival port frame tagBad tag slots => Sys2Proof.Machine.execTagSlotArrival port frame tagBad tag slots s
  | .syncSlotArrival port frame sync => Sys2Proof.Machine.execSyncSlotArrival port frame sync s
  | .retrySlotSend port frame => Sys2Proof.Machine.execRetrySlotSend port frame s
  | .folioBoundary => Sys2Proof.Machine.execFolioBoundary s
  | .resyncResume b => Sys2Proof.Machine.execResyncResume b s
  | .ptpMessage port msg => Sys2Proof.Machine.execPtpMessage port msg s
  | .dieLinkRetry k ok => Sys2Proof.Machine.execDieLinkRetry k ok s
  | .portTrainingFailure port => Sys2Proof.Machine.execPortTrainingFailure port s
  | .attestResponse port resp => Sys2Proof.Machine.execAttestResponse port resp s
  | .controlRequestTimeout port => Sys2Proof.Machine.execControlRequestTimeout port s
  | .heartbeat port answered => Sys2Proof.Machine.execHeartbeat port answered s
  | .preemptTakeEffect part => Sys2Proof.Machine.execPreemptTakeEffect part s
  | .waveSave wv => Sys2Proof.Machine.execWaveSave wv s
  | .preemptLimitExpiry part => Sys2Proof.Machine.execPreemptLimitExpiry part s
  | .eventRingWrite => Sys2Proof.Machine.execEventRingWrite s
  | .vfMoveComplete => Sys2Proof.Machine.execVfMoveComplete s
  | .currentLimitExceeded cl => Sys2Proof.Machine.execCurrentLimitExceeded cl s
  | .currentLowStepDown cl => Sys2Proof.Machine.execCurrentLowStepDown cl s
  | .budgetRecompute meanW => Sys2Proof.Machine.execBudgetRecompute meanW s
  | .rackCapExpiry => Sys2Proof.Machine.execRackCapExpiry s
  | .reset trained => Sys2Proof.Machine.execReset trained s
  | .bar2Access port write bound off len data => Sys2Proof.Machine.execBar2Access port write bound off len data s
  | .hostSpdmRequest msg => Sys2Proof.Machine.execHostSpdmRequest msg s
  | .qtailWrite port part value => Sys2Proof.Machine.execQtailWrite port part value s
  | .failoverWrite port value => Sys2Proof.Machine.execFailoverWrite port value s
  | .vftgtWrite port value => Sys2Proof.Machine.execVftgtWrite port value s
  | .passhostWrite port value => Sys2Proof.Machine.execPasshostWrite port value s
  | .ovrceilWrite port value => Sys2Proof.Machine.execOvrceilWrite port value s
  | .ratioWrite port value => Sys2Proof.Machine.execRatioWrite port value s
  | .slotTableWrite port pc k value => Sys2Proof.Machine.execSlotTableWrite port pc k value s
  | .registerWrite port off value => Sys2Proof.Machine.execRegisterWrite port off value s
  | .partdef port => Sys2Proof.Machine.execPartdef port s
  | .asidset port => Sys2Proof.Machine.execAsidset port s
  | .mapfence port => Sys2Proof.Machine.execMapfence port s
  | .terminate port => Sys2Proof.Machine.execTerminate port s
  | .semassign port => Sys2Proof.Machine.execSemassign port s
  | .retire port => Sys2Proof.Machine.execRetire port s
  | .preempt port => Sys2Proof.Machine.execPreempt port s
  | .resume port => Sys2Proof.Machine.execResume port s
  | .mresume port => Sys2Proof.Machine.execMresume port s
  | .gsigack port => Sys2Proof.Machine.execGsigack port s
  | .mkeyload port slot => Sys2Proof.Machine.execMkeyload port slot s
  | .mkeyunload port slot => Sys2Proof.Machine.execMkeyunload port slot s
  | .jkeyload port slot => Sys2Proof.Machine.execJkeyload port slot s
  | .jkeyunload port slot => Sys2Proof.Machine.execJkeyunload port slot s
  | .attest port => Sys2Proof.Machine.execAttest port s
  | .revoke port => Sys2Proof.Machine.execRevoke port s
  | .schedload port => Sys2Proof.Machine.execSchedload port s
  | .tmplload port => Sys2Proof.Machine.execTmplload port s
  | .widthup port clear => Sys2Proof.Machine.execWidthup port clear s
  | .mxreset port => Sys2Proof.Machine.execMxreset port s
  | .rackcap mgmt port => Sys2Proof.Machine.execRackcap mgmt port s
  | .unassignedOpcode w => Sys2Proof.Machine.execUnassignedOpcode w s
  | .illegalGraphWord w => Sys2Proof.Machine.execIllegalGraphWord w s
  | .voltageSettled => Sys2Proof.Machine.execVoltageSettled s
  | .syncSlotSend port frame ptp => Sys2Proof.Machine.execSyncSlotSend port frame ptp s
  | .tagSlotSend port frame => Sys2Proof.Machine.execTagSlotSend port frame s

end Sys2Proof.Machine
end

