-- ==== Sys2Proof/Machine/Waits.lean ====
section
/-! DEFINITION. What holds an instruction back before it issues: results in flight (01 R24, R25; 05 R100), engine slots and
tiles (09 R183, R187), order among accesses (13 R267, R271; 14 R286), barriers (08 R176), cards (17 R314, R329),
entries (20 R424) and page walks (11 R219). -/

namespace Sys2Proof.Machine

/-- One reason to wait: whether the wait re-anchors the path (07 R148). -/
abbrev Waits := List Bool

def waitIf (c anchor : Bool) : Waits := if c then [anchor] else []

/-! ## Registers (01 R24, 05 R100, 09 R187) -/

/-- Registers that an instruction waits for: those it names, THS for one that can call Flag, the tile of a tile
instruction. -/
def Wave.awaits (w : Wave) (i : Instr) : List Reg :=
  w.named i
    ++ (if canFlag i then [.ths] else [])
    ++ (match i with
        | .fxrd _ => [.ths]
        | .tzero t _ | .tld _ t _ | .tst _ t _ | .tflg _ t _ => [.tile t.val]
        | _ => [])

/-- Registers that an instruction reads in lanes other than its own (08 R164, 09 R191). -/
def Wave.crossed (w : Wave) (i : Instr) : List Reg :=
  match i with
  | .shfl _ b64 r | .bcast _ b64 r => w.regsAt r.a (wide b64)
  | .vote _ r => w.regsAt r.a 1
  | .wred t _ r | .wscan t _ _ r => w.regsAt r.a t.regs
  | .mma _ _ r | .mmasp _ _ r => w.regsAt r.a 24
  | _ => []

/-- A register that one instruction awaits in some lanes stands among those that another fills in some lanes. An
instruction with no Active lane fills no vector register; its wave-level destination is awaited all the same (log 79). -/
def regMeets (rs : List Reg) (lanes : W32) (fs : List Reg) (filled : W32) : Bool :=
  rs.any fun r => fs.contains r && match r with
    | .v _ | .ths => lanes &&& filled != 0
    | _ => true

/-- An access of the wave whose result is still to come. -/
def Access.pends (a : Access) (w : Wave) : Bool := a.uid == w.uid && !a.abandoned && !a.regs.isEmpty

/-- The instruction of a path meets registers that another fills. -/
def Wave.meets (w : Wave) (i : Instr) (lanes : W32) (fs : List Reg) (filled : W32) : Bool :=
  regMeets (w.awaits i) lanes fs filled || regMeets (w.crossed i) allLanes fs filled

def State.regWaits (s : State) (w : Wave) (i : Instr) (lanes : W32) : Waits :=
  waitIf (w.pend.any fun p => w.meets i lanes p.regs p.lanes) false
    ++ waitIf (s.accs.any fun a => a.pends w && !a.cls1 && w.meets i lanes a.regs a.act) false
    ++ waitIf (s.accs.any fun a => a.pends w && a.cls1 && w.meets i lanes a.regs a.act) true

/-- Instructions that follow every earlier result of their threads (01 R25, 08 R176). -/
def followsAll : Instr → Bool
  | .csrrd .ths _ | .csrwr .ths _ | .fxrd _ | .fxclr _ | .fxen _ | .barv .. | .barw .. => true
  | _ => false

def State.allWaits (s : State) (w : Wave) (i : Instr) (lanes : W32) : Waits :=
  if followsAll i then
    waitIf ((w.pend.any fun p => p.lanes &&& lanes != 0)
        || (s.mmas.any fun m => m.uid == w.uid && m.path &&& lanes != 0)
        || s.moves.any fun m => m.uid == w.uid && m.path &&& lanes != 0) false
      ++ waitIf (s.accs.any fun a => (a.pends w || (a.uid == w.uid && a.atomic)) && !a.cls1 && a.act &&& lanes != 0) false
      ++ waitIf (s.accs.any fun a => a.pends w && a.cls1 && a.act &&& lanes != 0) true
  else []

/-- The engine slot of an MMA or MMASP with an Active lane (09 R183), and the tiles with a write pending (09 R187). -/
def State.matrixWaits (s : State) (w : Wave) (i : Instr) (act : W32) : Waits :=
  match i with
  | .mma .. | .mmasp .. => waitIf (act != 0 && s.round w % 36 != 6 * w.slot + w.sl) false
  | .tzero t _ | .tld _ t _ | .tst _ t _ | .tflg _ t _ =>
    waitIf ((s.mmas.any fun m => m.uid == w.uid && m.tile == t.val)
      || s.moves.any fun m => m.uid == w.uid && !m.store && m.tile == t.val) false
  | _ => []

/-! ## Order among accesses -/

/-- Bit of a space in a storage mask (13 R267): slice, cluster with peer, die, main memory. -/
def spaceBit : Space → Nat | .slice => 0 | .cluster | .peer => 1 | .die => 2 | .main => 3

/-- The space in which a lane of XLD or XST lies. -/
def Loc.space : Loc → Space
  | .main .. => .main
  | .pad k => if decide (2 ^ 44 ≤ k) && decide (k < 2 ^ 45) then .cluster else .die

/-- The spaces of an access. -/
def Access.spaces (a : Access) : List Space :=
  match a.i with
  | .dscd _ | .pgreq .. | .pgqry _ => [.main]
  | .xld .. | .xst _ => if a.lanes.isEmpty then [if a.cls1 then .main else .cluster] else a.lanes.map fun l => l.loc.space
  | i => match accKind i with | some k => [k.m.space] | none => [.main]

def isDscd : Instr → Bool | .dscd _ => true | _ => false

/-- An access of a wave's threads in the spaces of a mask. -/
def Access.within (a : Access) (w : Wave) (lanes : W32) (mask : Nat) : Bool :=
  a.uid == w.uid && a.path &&& lanes != 0 && a.spaces.any fun sp => mask.testBit (spaceBit sp)

/-- An access that delivers a value. -/
def Access.loads (a : Access) : Bool :=
  match a.i with
  | .ld .. | .lds .. | .gath .. | .atom .. | .cas _ | .redx .. | .xld .. => !a.abandoned
  | _ => false

/-- The release part (13 R267): earlier stores, atomics, tile writes and DSCDs; and, since they happen before the release
(14 R288), loads that have not read yet (log 80). A class-0 store that has taken effect in the last cycle of its round
L − 1 stands until round L, as the walk-through of 17 R320 shows. -/
def State.releaseWaits (s : State) (w : Wave) (lanes : W32) (mask : Nat) : Waits :=
  let mine := s.accs.filter fun a =>
    a.within w lanes mask && (a.stores || isDscd a.i || (a.loads && (a.cls1 || !a.effected)))
  let c := mask.testBit 1
  waitIf (mine.any fun a => !a.cls1) false
    ++ waitIf (mine.any fun a => a.cls1) true
    ++ waitIf (c && ((s.mmas.any fun m => m.uid == w.uid && m.path &&& lanes != 0)
        || (s.moves.any fun m => m.uid == w.uid && m.path &&& lanes != 0)
        || w.pend.any fun p => p.lanes &&& lanes != 0 && p.wr.any fun x =>
            match x with | .tileZero _ => true | _ => false)) false

/-- The acquire part. -/
def State.acquireWaits (s : State) (w : Wave) (lanes : W32) (mask : Nat) : Waits :=
  let mine := s.accs.filter fun a => a.within w lanes mask && a.loads
  waitIf (mine.any fun a => !a.cls1) false ++ waitIf (mine.any fun a => a.cls1) true

def releases : Order → Bool | .rel | .acqRel => true | _ => false
def acquires : Order → Bool | .acq | .acqRel => true | _ => false

/-- The order of an access that carries one (14 R286). -/
def orderOf : Instr → Order
  | .ld _ _ m | .st _ m | .lds _ _ m | .sts _ m | .atom _ m | .cas m | .red _ m | .redx _ m | .xld _ m | .xst m => m.order
  | _ => .plain

/-- Instructions that act as a release over every space. The arrivals of a main-memory REDX have no fixed round. -/
def isRelease (i : Instr) : Bool :=
  match i with
  | .semadd .. | .semset .. | .tready _ | .barv .. | .barw .. => true
  | .redx _ m => releases m.order || m.space == .main
  | i => releases (orderOf i)

/-- A pad REDX without release order arrives in its round 17 (13 R274): it waits for what has not taken effect by then
(log 81). -/
def State.arrivalWaits (s : State) (w : Wave) (lanes : W32) : Waits :=
  let mine := s.accs.filter fun a =>
    a.within w lanes 15 && (a.stores || isDscd a.i || (a.loads && (a.cls1 || !a.effected)))
  waitIf (mine.any fun a => !a.cls1 && (a.abandoned || decide (s.round w + 17 < a.round + a.lat))) false
    ++ waitIf (mine.any fun a => a.cls1) true

def orderWaits (s : State) (w : Wave) (i : Instr) (lanes act : W32) : Waits :=
  match i with
  | .fence mask m =>
    if act = 0 then []
    else (if releases m.order then s.releaseWaits w lanes mask.val else [])
      ++ (if acquires m.order then s.acquireWaits w lanes mask.val else [])
  | i =>
    if isRelease i then s.releaseWaits w lanes 15
    else if isRedx i then s.arrivalWaits w lanes
    else []

/-- Instructions that touch memory, pads or tiles. -/
def isMemory (i : Instr) : Bool :=
  match i with
  | .tzero .. | .tld .. | .tst .. | .tflg .. | .mma .. | .mmasp .. | .pgreq .. | .dscd _ | .pgqry _ | .cpyj _ | .gatj _
  | .dgstj _ => true
  | i => (accKind i).isSome

def isAtomCas : Instr → Bool | .atom .. | .cas _ => true | _ => false

/-- An acquire in flight holds back the later accesses of its threads (14 R286); an ATOM or CAS, every later issue
(13 R272). -/
def State.afterAcquire (s : State) (w : Wave) (i : Instr) (lanes : W32) : Waits :=
  let mine := s.accs.filter fun a =>
    a.within w lanes 15 && acquires (orderOf a.i) && a.loads && (isMemory i || isAtomCas a.i)
  waitIf (mine.any fun a => !a.cls1) false ++ waitIf (mine.any fun a => a.cls1) true

/-- The part of it that holds back any word at all: the ATOMs and CASs with acquire order (13 R272). -/
def State.afterAtomic (s : State) (w : Wave) (lanes : W32) : Waits :=
  waitIf (s.accs.any fun a => a.within w lanes 15 && acquires (orderOf a.i) && a.loads && isAtomCas a.i && !a.cls1) false
    ++ waitIf (s.accs.any fun a => a.within w lanes 15 && acquires (orderOf a.i) && a.loads && isAtomCas a.i && a.cls1) true

/-- A pad access waits for round 18 of the path's pad atomics (13 R271). -/
def State.chainWaits (s : State) (w : Wave) (i : Instr) (lanes : W32) : Waits :=
  let pad := match i with
    | .tld .. | .tst .. => true
    | .xld _ m | .xst m => !m.flagged
    | i => match accKind i with | some k => !k.atomic && k.m.space != .main | none => false
  waitIf (pad && s.accs.any fun a => a.within w lanes 7 && a.atomic && !a.cls1) false

/-! ## Engines and entries -/

/-- The issue of a card: what 17 R314 lists, and the release part, since the issue is a release (14 R286; log 103). -/
def State.cardWaits (s : State) (w : Wave) (kind : Nat) (r : RForm) (act lanes : W32) : Waits :=
  if act = 0 then []
  else
    let off := w.rd r.a 1 (lowLane act)
    let c := s.cardAt kind off
    let q := s.queue w.uid kind
    let here := Loc.pad (cpadKey w.cl ((s.blk w).cbase + off))
    waitIf (decide (8 ≤ q.length)) (q.any fun e => e.cls1)
      ++ waitIf ((s.accs.any fun a => a.uid == w.uid && a.path &&& lanes != 0 && a.stores && !a.cls1
            && a.lanes.any fun x => !x.withheld && x.loc.overlaps a.size here 64)
          || s.moves.any fun m => m.uid == w.uid && m.path &&& lanes != 0 && m.store
            && (Loc.pad (s.moveKey m)).overlaps (2048 * tileFmtBytes m.fm) here 64) false
      ++ waitIf (s.accs.any fun a => a.uid == w.uid && a.path &&& lanes != 0 && a.cls1 && s.cardMeets c (s.accPieces a)) true
      ++ waitIf (s.accs.any fun a => a.uid == w.uid && a.path &&& lanes != 0 && a.abandoned && s.cardMeets c (s.accPieces a))
          false
      ++ waitIf (!c.cls1 && q.any fun e => e.cls1 && s.edge e c) true
      ++ s.releaseWaits w lanes 15

/-- FLGCLR (17 R329). -/
def State.flagWaits (s : State) (w : Wave) (r : RForm) (act : W32) : Waits :=
  let m := (w.rd r.a 1 (lowLane act)) % 4096
  waitIf (act != 0 && ((s.accs.any fun a => a.uid == w.uid && a.cls1 && decide (a.flag < 12) && m.testBit a.flag)
    || s.cards.any fun c => c.uid == w.uid
      && ((decide (c.setB < 12) && m.testBit c.setB) || (decide (c.flag < 12) && m.testBit c.flag)))) true

/-- XLD with .acq (20 R424), once its operands have arrived; the checks of 03 R66 and of 20 R423 come first. -/
def State.entryWaits (s : State) (i : Instr) (m : MForm) (act : W32) : Waits :=
  let ks := (lanesOf act).map fun l => s.entryLook m false l
  waitIf (m.order == .acq && (s.frontTrap i).isNone && (entryChecks m ks).isNone && ks.any fun k =>
    let t := s.tent s.g.part (entryNum k.ea)
    t.st != 3 && t.st != 4) true

def State.unitWaits (s : State) (w : Wave) (i : Instr) (act lanes : W32) : Waits :=
  match i with
  | .cpyj r => s.cardWaits w 1 r act lanes
  | .gatj r => s.cardWaits w 2 r act lanes
  | .dgstj r => s.cardWaits w 3 r act lanes
  | .flgclr r => s.flagWaits w r act
  | .xld _ m => s.entryWaits i m act
  | _ => []

/-! ## Page walks (11 R219) -/

/-- Addresses that the fetch of a header reads: its own, and with it known the last word of its block. -/
def State.fetchVas (s : State) (w : Wave) (a : W64) : List Nat :=
  a.toNat :: (if (s.gap w a.toNat).isSome then []
    else [a.toNat + 8, a.toNat + 8 * fld (s.codeWord w a.toNat).toNat 50 8])

/-- Addresses that an instruction walks before it issues. -/
def State.walkVas (s : State) (i : Instr) (act : W32) : List Nat :=
  match i with
  | .pgreq _ m | .dscd m | .pgqry m => (lanesOf act).map fun l => s.w.pageEa m l
  | .qst _ m => ((lanesOf act).take 1).map fun l => s.w.ea ⟨m, .write, true, 2, false, false⟩ l
  | .xld .. | .xst _ => []
  | i =>
    if isTransfer i then
      (s.targetsOf i act).flatMap (s.fetchVas s.w) ++ (match s.exec.join with | some j => s.fetchVas s.w j | none => [])
    else match accKind i with
      | some k => if k.m.flagged && k.m.space == .main then (k.lanes s.w act).map fun l => s.w.ea k l else []
      | none => []

/-- Every reason for which the instruction of the issuing path waits, walks aside. What its operands name is looked at once they have
arrived. -/
def State.waits (s : State) (i : Instr) : Waits :=
  let w := s.w
  let lanes := s.path.lanes
  let act := s.act i
  let first := s.regWaits w i lanes ++ s.allWaits w i lanes
  first ++ s.matrixWaits w i act ++ orderWaits s w i lanes act
    ++ s.afterAcquire w i lanes ++ s.chainWaits w i lanes ++ if first.isEmpty then s.unitWaits w i act lanes else []

end Sys2Proof.Machine
end

