-- ==== Sys2Proof/Machine/Visit.lean ====
section
/-! DEFINITION. The visit of a wave's slot (07 R139 to R144): its paths, which of them are eligible, their ranking, the
issue of one instruction or two, and the fetch of an instruction's word. -/

namespace Sys2Proof.Machine

/-! ## Paths (07 R142) -/

/-- The paths of the lanes of a list, apart from those already `seen`. -/
def Wave.pathsFrom (w : Wave) : List Nat → W32 → List W32
  | [], _ => []
  | l :: ls, seen =>
    if seen.getLsbD l then w.pathsFrom ls seen
    else
      let p := w.pathOf l
      p :: w.pathsFrom ls (seen ||| p)

def Wave.allPaths (w : Wave) : List W32 := w.pathsFrom (lanesOf w.running) 0

/-! ## The instruction of a path (01 R15) -/

/-- Index of an instruction word in its execution. -/
def Exec.index (e : Exec) (pc : W64) : Nat := (pc - e.hdr).toNat / 8 - 1

/-- The word at a path's PC and the word after it. -/
def Exec.wordsAt (e : Exec) (pc : W64) : W64 × W64 :=
  (e.code.getD (e.index pc) 0, e.code.getD (e.index pc + 1) 0)

/-- What the decoder reads there. -/
def Exec.fetch (e : Exec) (pc : W64) : Except Reject Instr :=
  decodeWave (e.wordsAt pc).1.toNat (e.wordsAt pc).2.toNat

/-- The address after the instruction: a MOVL takes two words, one with a non-zero reserved field too (03 R58, 19 R360). -/
def nextPc (pc word : W64) : Except Reject Instr → W64
  | .ok i => pc + BitVec.ofNat 64 (8 * wordsOf i)
  | .error _ => if fld word.toNat 56 8 = 0x1E then pc + 16 else pc + 8

/-- The thread that speaks for a path. -/
def Wave.lead (w : Wave) (lanes : W32) : Thread := w.th (lowLane lanes)

/-- What the instruction of a path inside a block is, where its thread stands in one. -/
def Thread.fetch (t : Thread) : Except Reject Instr :=
  match t.ex with
  | some e => e.fetch t.pc
  | none => .error .illegal

/-- The word at which a thread stands inside a block. -/
def Thread.word (t : Thread) : W64 := (t.ex.map fun e => (e.wordsAt t.pc).1).getD 0

/-- The state with a path about to issue. -/
def State.onPath (s : State) (w : Wave) (lanes : W32) : State :=
  let t := w.lead lanes
  { s with cur := some ⟨w.uid, lanes, t.pc, nextPc t.pc t.word t.fetch⟩ }

/-! ## Job cards as the slot opens (17 R311) -/

/-- The instruction at which a thread stands, or the first of the block at whose header it stands. -/
def State.standing (s : State) (w : Wave) (lanes : W32) : Except Reject Instr :=
  let t := w.lead lanes
  match t.ex with
  | some e => e.fetch t.pc
  | none => (s.readBlock w 0 t.pc).fetch (t.pc + 8)

/-- Offsets of the cards that the paths of a wave may issue in this round, and have not read yet. -/
def State.cardOffs (s : State) (w : Wave) : List Nat :=
  (w.allPaths.filterMap fun p =>
    match s.standing w p with
    | .ok (.cpyj r) | .ok (.gatj r) | .ok (.dgstj r) =>
      let act := match s.standing w p with | .ok i => (s.onPath w p).act i | .error _ => 0
      if act = 0 then none else some (w.rd r.a 1 (lowLane act))
    | _ => none).filter fun o => !w.latched.any fun x => x.1 == s.round w && x.2.1 == o

/-- The first cycle of a slot: the cards that may issue in it are read. -/
def State.latchCards (s : State) (wv : Nat) : State :=
  match s.waves[wv]? with
  | none => s
  | some w =>
    let new := (s.cardOffs w).map fun o =>
      (s.round w, o, BitVec.ofNat 512 (ofBytes (s.mem.read (cpadKey w.cl ((s.blk w).cbase + o)) 64)))
    s.updWave w.uid fun w => { w with latched := new ++ w.latched.filter fun x => x.1 == s.round w }

/-! ## Eligibility (07 R143; 01 R16, R18; 19 R387) -/

/-- A path at the join header of an elastic region before the exit round (06 R130). -/
def Wave.early (w : Wave) (t : Thread) (round : Nat) : Bool :=
  match w.region with
  | some g => decide (round < g.exit) && t.standsAt ⟨g.hdr, g.depth, 0⟩
  | none => false

/-- A path that neither waits, is held, nor stands at a save point of a pre-emption. -/
def State.free? (s : State) (w : Wave) (lanes : W32) : Bool :=
  let r := s.round w
  !w.saved && decide (w.hold ≤ r) && lanes &&& w.heldLanes == 0
    && (lanesOf lanes).all fun l =>
      let t := w.th l
      t.wait == .none && decide (t.readyAt ≤ r) && !w.early t r && !(s.leaving w && !w.handler && s.stopped w t)

/-- What a path does in its slot. -/
inductive Front where
  /-- it bubbles; `anchor` says that it waits on a class-1 item -/
  | bubble (anchor : Bool)
  /-- it waits for entries of page walks -/
  | walks (gs : List Gap)
  /-- its header makes it wait (01 R16) -/
  | flags
  /-- its header traps -/
  | trap
  /-- it enters its block, whose first instruction can issue -/
  | enter (alu : Bool)
  /-- its instruction can issue -/
  | issue (alu : Bool)
  deriving DecidableEq, Repr

/-- The vector-ALU issue class (03 R64). -/
def isAlu : Instr → Bool
  | .iadd .. | .isub .. | .imul .. | .imulhi .. | .imad .. | .idiv .. | .irem .. | .imin .. | .imax .. | .iabs ..
  | .ineg .. | .land .. | .lor .. | .lxor .. | .landn .. | .lnot .. | .shl .. | .shr .. | .sar .. | .rot .. | .bfx ..
  | .bfi .. | .popc .. | .clz .. | .ctz .. | .brev .. | .icmp .. | .sel .. | .mov .. | .movi .. | .movl .. | .lea ..
  | .fadd .. | .fsub .. | .fmul .. | .fma .. | .fmin .. | .fmax .. | .fcmp .. | .fclass .. | .fdiv .. | .fsqrt ..
  | .frcp .. | .frsq .. | .fexp .. | .fexp2 .. | .flog .. | .flog2 .. | .ferf .. | .ferfc .. | .fint .. | .fscale ..
  | .ffrexp .. | .cvt .. | .fxrd _ | .fxclr _ | .fxen _ | .dot4 .. | .dot8 .. | .pack .. | .unpack .. | .mxq ..
  | .fsgn .. => true
  | _ => false

/-- The opcodes of the vector-ALU issue class (03 R64). -/
def isAluOp (op : Nat) : Bool := decide (op ≤ 0x3E)

/-- A word that the decoder rejects: one that fails step 3 of 03 R66 waits for the registers it names, as 01 R24 has it
of every instruction (log 64), and each waits for the path's ATOMs and CASs with acquire order (13 R272). -/
def State.rejected (s : State) (w : Wave) (lanes : W32) (r : Reject) : Front :=
  match (w.lead lanes).ex with
  | none => .issue false
  | some e =>
    let x := e.wordsAt (w.lead lanes).pc
    let ws := s.afterAtomic w lanes ++ match r, looseWave x.1.toNat x.2.toNat with
      | .reserved, some i => s.regWaits w i lanes ++ s.allWaits w i lanes
      | _, _ => []
    if ws.isEmpty then .issue (isAluOp (fld x.1.toNat 56 8)) else .bubble (ws.any id)

/-- A path inside a block: its waits, its walks, or its issue. -/
def State.inside (s : State) (w : Wave) (lanes : W32) : Front :=
  match (w.lead lanes).fetch with
  | .error r => (s.onPath w lanes).rejected w lanes r
  | .ok i =>
    let u := s.onPath w lanes
    match u.waits i with
    | [] =>
      let gs := u.gaps w (u.walkVas i (u.act i))
      if gs.isEmpty then .issue (isAlu i) else .walks gs
    | ws => .bubble (ws.any id)

/-- A path at a header: the walks of its fetch, its trap, its wait mask, and whether its first instruction can issue. -/
def State.atHeader (s : State) (wv : Nat) (w : Wave) (lanes : W32) : Front :=
  let t := w.lead lanes
  let gs := s.gaps w (s.fetchVas w t.pc)
  if !gs.isEmpty then .walks gs
  else if (s.headerTrap w t.pc).isSome || (s.fetchLost w t.pc).isSome then .trap
  else if !s.flagsReady w t.flagWait (s.readBlock w 0 t.pc) then .flags
  else
    let u := s.startBlock wv (lowLane lanes)
    match u.waves[wv]? with
    | none => .bubble false
    | some x => match u.inside x lanes with
      | .issue alu => .enter alu
      | f => f

def State.front (s : State) (wv : Nat) (w : Wave) (lanes : W32) : Front :=
  if !s.free? w lanes then .bubble false
  else if (w.lead lanes).ex.isNone then s.atHeader wv w lanes
  else s.inside w lanes

def Front.eligible : Front → Bool | .trap | .enter _ | .issue _ => true | _ => false
def Front.alu : Front → Bool | .enter a | .issue a => a | _ => false

/-! ## Ranking (07 R143) -/

/-- One path with what it does. -/
structure Ranked where
  lanes : W32
  aged : Nat
  front : Front
  deriving DecidableEq, Repr

/-- The first of two ranks before the second. -/
def Ranked.before (a b : Ranked) : Bool :=
  let age := fun (x : Ranked) => if 8 ≤ x.aged then x.aged else 0
  decide (age b < age a) || (age a == age b && (decide (countLanes b.lanes < countLanes a.lanes)
    || (countLanes a.lanes == countLanes b.lanes && decide (lowLane a.lanes < lowLane b.lanes))))

def insertRank (a : Ranked) : List Ranked → List Ranked
  | [] => [a]
  | b :: bs => if a.before b then a :: b :: bs else b :: insertRank a bs

def sortRank : List Ranked → List Ranked
  | [] => []
  | a :: as => insertRank a (sortRank as)

/-- The paths of a wave. The age of one whose threads have different counts is that of its lowest lane (log 107). -/
def State.ranked (s : State) (wv : Nat) (w : Wave) : List Ranked :=
  w.allPaths.map fun p => ⟨p, (w.lead p).aged, s.front wv w p⟩

/-- A trap enable stands in some thread of a path (07 R143). -/
def Wave.enabled (w : Wave) (lanes : W32) : Bool := (lanesOf lanes).any fun l => (w.th l).enables != 0

/-- The paths that issue: the first, and with it the second where both are vector-ALU and no enable stands. -/
def issuing (w : Wave) : List Ranked → List Ranked
  | [] => []
  | [a] => [a]
  | a :: b :: _ =>
    if a.front.alu && b.front.alu && !w.enabled a.lanes && !w.enabled b.lanes then [a, b] else [a]

/-! ## What the visit changes besides -/

/-- A path that does not issue: its walks, its flag wait, its re-anchoring, and its age. -/
def State.note (s : State) (w : Wave) (p : Ranked) : State :=
  let age := if p.front.eligible then p.aged + 1 else 0
  let s := s.updWave w.uid fun w => w.updTh p.lanes fun _ t =>
    { t with
      aged := age
      flagWait := t.flagWait || p.front == .flags
      reanchor := t.reanchor || match p.front with
        | .bubble a => a
        | .walks _ | .flags => true
        | _ => false }
  match p.front with
  | .walks gs => gs.foldl (fun s g => s.askWalk w g) s
  | _ => s

/-! ## Issue -/

/-- The uncorrectable groups that an instruction of a path meets as it issues (12 R259): registers that it names, the
A-latch, a barrier object, a card. -/
def State.groupsMet (s : State) (w : Wave) (lanes : W32) (i : Instr) : List Nat :=
  if s.mem.broken.isEmpty then []
  else
    let regs := s.mem.broken.filter fun k =>
      let o := k % 2 ^ 20 / 8
      decide (2 ^ 48 ≤ k) && decide (k < 2 ^ 49) && k % 2 ^ 48 / 2 ^ 20 == w.place
        && (((w.named i).contains (.v (o / 16)) && lanes.toNat / 4 ^ (o % 16) % 4 != 0) || (w.crossed i).contains (.v (o / 16)))
    let latch := match i with
      | .mma _ _ r | .mmasp _ _ r => if r.reuse then s.brokenAt (latchKey w.place) 3072 else []
      | _ => []
    let object := match i with
      | .barv b _ | .bwait b _ | .barw b _ | .binval b _ | .brdf _ b _ => s.brokenAt (s.barKey (s.blk w) b.val) 16
      | .cpyj r | .gatj r | .dgstj r =>
        s.brokenAt (cpadKey w.cl ((s.blk w).cbase + w.rd r.a 1 (lowLane ((s.onPath w lanes).act i)))) 64
      | _ => []
    regs ++ latch ++ object

/-- The meaning of what stands on the issuing path. -/
def State.runPath (s : State) (w : Wave) (lanes : W32) : State :=
  let t := w.lead lanes
  let u := s.onPath w lanes
  match t.fetch with
  | .ok i =>
    if !(s.groupsMet w lanes i).isEmpty then u.found (s.groupsMet w lanes i)
    else match Sys2Proof.Machine.exec i u with
      | .next v => v
      | _ => u
  | .error r => match t.ex with
    | some e => u.rejectTrap (e.wordsAt t.pc).1.toNat (e.wordsAt t.pc).2.toNat r
    | none => u

/-- An instruction of the vector-ALU class trapped: its wave is gone, or has entered its handler. -/
def State.trapped (s t : State) (uid : Nat) : Bool :=
  match t.waveOf uid with
  | none => true
  | some w => w.handler && !(((s.waveOf uid).map fun w => w.handler).getD true)

/-- What is left of a write beside a write of the same round that remains: a wave-level register goes to one of them, an
m-register bit by bit (log 106). -/
def Wr.beside (a b : Wr) : Option Wr :=
  match a, b with
  | .s n _, .s k _ => if n = k then none else some a
  | .x _, .x _ => none
  | .m n k val, .m n' k' _ =>
    if n != n' then some a else if k &&& ~~~k' = 0 then none else some (.m n (k &&& ~~~k') val)
  | _, _ => some a

/-- A result without what another of its round writes of the wave-level registers; it is awaited all the same. -/
def Pend.beside (p q : Pend) : Pend := { p with wr := q.wr.foldl (fun ws y => ws.filterMap fun x => x.beside y) p.wr }

/-- Of the results after the first `n`, those of the lanes `low` prevail over the others. -/
def prevail (n : Nat) (low : W32) (ps : List Pend) : List Pend :=
  let new := ps.drop n
  let first := new.filter fun p => p.lanes &&& low != 0
  ps.take n ++ new.map fun p => if p.lanes &&& low != 0 then p else first.foldl Pend.beside p

/-- Two paths in one round (07 R144, 04 R83): of two writes to one wave-level register that of the path with the lower
Active lane remains, whenever they arrive. -/
def State.runBoth (s : State) (w : Wave) (a b : W32) : State :=
  let sa := s.runPath w a
  let sb := s.runPath w b
  let low : W32 → Nat := fun p => match (w.lead p).fetch with
    | .ok i => lowLane ((s.onPath w p).act i)
    | .error _ => 32
  if s.trapped sa w.uid then sa
  else if s.trapped sb w.uid then sb
  else
    (sa.runPath w b).updWave w.uid fun u =>
      { u with pend := prevail w.pend.length (if low a < low b then a else b) u.pend }

def State.clearCur (s : State) : State := { s with cur := none }

/-- The visit of a wave's slot. A path about to enter its block does so in a step of its own. -/
def State.visit (s : State) (wv : Nat) : State :=
  match s.waves[wv]? with
  | none => s
  | some w =>
    let ps := s.ranked wv w
    let go := issuing w (sortRank (ps.filter fun p => p.front.eligible))
    match go.find? fun p => match p.front with | .trap | .enter _ => true | _ => false with
    | some p => s.startBlock wv (lowLane p.lanes)
    | none =>
      let s := (ps.filter fun p => !go.contains p).foldl (fun s p => s.note w p) s
      let s := s.updWave w.uid fun w => { w with due := s.round w + 1 }
      match go with
      | [] => s
      | [a] => (s.runPath w a.lanes).clearCur
      | a :: b :: _ => (s.runBoth w a.lanes b.lanes).clearCur

end Sys2Proof.Machine
end

