-- ==== Sys2Proof/Machine/Sched.lean ====
section
/-! DEFINITION. Which event comes next. Every unit of the device names the events that are due, each with its nominal
time; the earliest happens, and events of one time follow the order of their kinds. An event whose time has passed while
its unit stood still happens now. -/

namespace Sys2Proof.Machine

/-- An act of the device: a row of the table, the visit of a slot, the next graph word of a partition, the environment's
next item, or the end of something under way that no row names. -/
inductive Act where
  | run (i : Instr)
  | visit (wv : Nat)
  | cardRead (wv : Nat)
  | graph (p : Nat)
  | agenda
  | stalls
  | release
  | command
  | saved (p : Nat)
  | settle (gid : Nat)
  | root (p e : Nat)
  | control (n : Nat)
  | txRead (port folio k : Nat)
  | heldRead (port : Nat)
  deriving DecidableEq, Repr

/-- An event that is due: nominal time, kind, place among the events of its kind, and the act. -/
structure Cand where
  time : Nat
  kind : Nat
  seq : Nat
  act : Act
  deriving DecidableEq, Repr

/-- The order of two events at a present time. -/
def Cand.before (now : Nat) (a b : Cand) : Bool :=
  decide (max now a.time < max now b.time) || (max now a.time == max now b.time &&
    (decide (a.kind < b.kind) || (a.kind == b.kind && decide (a.seq < b.seq))))

/-- The first event of a list. -/
def firstCand (now : Nat) : List Cand → Option Cand
  | [] => none
  | c :: cs => match firstCand now cs with
    | none => some c
    | some d => if d.before now c then some d else some c

def candIf (b : Bool) (time kind seq : Nat) (act : Act) : List Cand := if b then [⟨time, kind, seq, act⟩] else []

/-! ## Times -/

/-- Place of a slot among those of the device. -/
def slotPlace (cl sl slot : Nat) : Nat := (6 * cl + sl) * 6 + slot

/-- The first cycle of a round of a slice, once it has opened. -/
def State.openAt (s : State) (cl sl round : Nat) : Option Nat :=
  let x := s.slice cl sl
  if (s.cluster cl).frozen || decide (x.round < round) then none else some ((s.cluster cl).timeOf x.c0)

/-- The first or last cycle of a slot in a round: none before the round, at once after it. -/
def State.slotAt (s : State) (cl sl slot round : Nat) (last : Bool) : Option Nat :=
  let x := s.slice cl sl
  let c := s.cluster cl
  if c.frozen || decide (x.round < round) then none
  else if round < x.round then some s.now
  else
    let y := x.slotCycles c.pass slot
    some (c.timeOf (if last then y.2 else y.1))

def candAt (t : Option Nat) (kind seq : Nat) (act : Act) : List Cand :=
  match t with
  | some t => [⟨t, kind, seq, act⟩]
  | none => []

/-! ## Clusters and slices -/

/-- The ends of a cluster's stalls, and its next engine span, which opens after the operations of its cycle have latched. -/
def State.clusterCands (s : State) (cl : Nat) : List Cand :=
  let c := s.cluster cl
  (match c.stall with
   | some t =>
     (match c.ready with
      | some r => [⟨r, 0, cl, .run (.stallResume cl)⟩]
      | none => candIf (!s.absent cl) s.now 0 cl .stalls)
     ++ [⟨t + s.stallLimit cl * Config.cycle c.clock, 0, 32 + cl, .run (.stallLimitExpiry cl)⟩]
   | none => [])
  ++ (match c.release with
      | some t => [⟨t, 0, 64 + cl, .run (.releaseStallEnd cl)⟩]
      | none => [])
  ++ candIf (!c.frozen) (c.timeOf c.spanAt) 6 (8192 + cl) (.run (.engineSpan cl []))

/-- The boundary that ends a slice's round. -/
def State.boundaryCand (s : State) (n : Nat) : List Cand :=
  let c := s.cluster (n / 6)
  let x := s.slice (n / 6) (n % 6)
  candIf (!c.frozen) (c.timeOf (x.c0 + x.len c.pass)) 0 (128 + n) (.run (.roundBoundary n))
    ++ candIf (s.lateInRelease (n / 6) (n % 6)) s.now 0 (128 + n) (.run (.roundBoundary n))

/-! ## Waves -/

/-- Whether a result writes a tile of the block. -/
def Pend.zeroes (p : Pend) : Bool := p.wr.any fun x => match x with | .tileZero _ => true | _ => false

/-- Whether a result clears completion flags, after every set of its cycle (17 R329). -/
def Pend.clears (p : Pend) : Bool := p.wr.any fun x => match x with | .flagClr _ => true | _ => false

/-- Results of a wave that have come due. -/
def State.resultCands (s : State) (wv : Nat) (w : Wave) : List Cand :=
  let c := s.cluster w.cl
  if c.frozen then []
  else
    (w.pend.zipIdx.filter fun x => decide (x.1.due ≤ s.round w)).map fun x =>
      ⟨c.timeOf (s.slice w.cl w.sl).c0, if x.1.zeroes then 3 else if x.1.clears then 13 else 4, slotPlace w.cl w.sl w.slot, .run (.resultDelivery wv x.2)⟩

/-- Events of a wave in its slot: its start, its results, its elastic deadline, its visit, its save. A semaphore wait ends with the
cycle in which it is satisfied, after every update of the cycle (17 R328). -/
def State.waveCands (s : State) (wv : Nat) (w : Wave) : List Cand :=
  let r := s.round w
  let c := s.cluster w.cl
  let k := slotPlace w.cl w.sl w.slot
  candIf (s.startable w) s.now 1 k (.run (.waveStart wv))
  ++ s.resultCands wv w
  ++ (match w.region with
      | some g => if w.started.isSome && !w.saved then candAt (s.openAt w.cl w.sl g.exit) 4 k (.run (.elasticDeadline wv)) else []
      | none => [])
  ++ (if w.started.isSome && !w.saved then
        candAt (s.slotAt w.cl w.sl w.slot (max w.due r) true) 8 k (.visit wv)
        ++ (if (s.cardOffs w).isEmpty then [] else candAt (s.slotAt w.cl w.sl w.slot (max w.due r) false) 6 k (.cardRead wv))
      else [])
  ++ (if w.started.isSome && !c.frozen && !(s.leaving w && !w.handler) then
        (lanesOf w.running).flatMap fun l =>
          match (w.th l).wait with
          | .none => []
          | .bar .. => candIf (s.barOver w (w.th l)) s.now 11 k (.run (.barrierResume wv l))
          | .sem .. => candIf (s.semOver w (w.th l)) (c.timeOf (s.cycle w.cl + 1) - 1) 11 k (.run (.semaphoreResume wv l))
      else [])
  ++ candIf (s.leaving w && s.savable w) s.now 11 k (.run (.waveSave wv))

/-! ## Matrix engines and tile transfers (09 R184, R186, R201, R202) -/

def State.mmaCands (s : State) (i : Nat) (m : Mma) : List Cand :=
  let k := slotPlace m.cl m.sl m.slot
  if m.latched.isNone then candAt (s.openAt m.cl m.sl (m.round + 2)) 6 k (.run (.engineSpan (32 + i) []))
  else candAt (s.openAt m.cl m.sl (m.round + 8)) 2 k (.run (.tileUpdate i))

def State.moveCands (s : State) (i : Nat) (m : TileMove) : List Cand :=
  let k := slotPlace m.cl m.sl m.slot
  let tile := Act.run (.tileUpdate (s.mmas.length + i))
  let pad := Act.run (.class0AccessEffect (s.accs.length + i))
  match m.store, m.img with
  | false, none => candAt (s.slotAt m.cl m.sl m.slot (m.round + 2) false) 6 k pad
  | false, some _ => candAt (s.openAt m.cl m.sl (m.round + 3)) 3 k tile
  | true, none => candAt (s.openAt m.cl m.sl (m.round + 2)) 3 (k + 1152) tile
  | true, some _ =>
    if m.done then candAt (s.openAt m.cl m.sl (m.round + 3)) 4 k pad
    else candAt (s.slotAt m.cl m.sl m.slot (m.round + 2) true) 7 k pad

/-! ## Accesses (06 R135, 13 R270) -/

/-- A main-memory access that may act while its cluster stands still: a late one, or one abandoned. -/
def State.accFree (s : State) (a : Access) : Bool :=
  a.mainSpace && (a.abandoned || ((s.cluster a.cl).stall.isSome && s.accLate a))

def State.accCands (s : State) (i : Nat) (a : Access) : List Cand :=
  let k := slotPlace a.cl a.sl a.slot
  let due := a.round + a.lat - 1
  if a.cls1 then
    if isRedx a.i && a.effected then candIf (!(s.cluster a.cl).frozen) s.now 9 k (.run (.redxRedirectWrite i))
    else candIf (!(s.cluster a.cl).frozen && s.completes a) s.now 3 k (.run (.class1Completion i))
  else if a.effected then
    if isRedx a.i then candIf (!(s.cluster a.cl).frozen) s.now 9 k (.run (.redxRedirectWrite i))
    else candAt (s.openAt a.cl a.sl (a.round + a.lat)) 4 k (.run (.class0AccessEffect i))
  else if a.atomic then candAt (s.slotAt a.cl a.sl a.slot due true) 5 k (.run (.padAtomicChain i))
  else if !s.clear a then []
  else if s.accFree a then [⟨s.now, 6, k, .run (.class0AccessEffect i)⟩]
  else candAt (s.slotAt a.cl a.sl a.slot due a.stores) (if a.stores then 7 else 6) k (.run (.class0AccessEffect i))

/-! ## Cards (17 R318, R319) -/

def cardRow (kind i : Nat) : Instr := if kind = 1 then .copyChunk i else if kind = 2 then .gatherChunk i else .digestChunk i

/-- Events of a card. In a stalled cluster a late chunk acts at once; what it has left to do at the boundary at which it was late
comes before that boundary. -/
def State.cardCands (s : State) (i : Nat) (c : Card) : List Cand :=
  let r := (s.slice c.cl c.sl).round
  let k := slotPlace c.cl c.sl c.slot
  let act := Act.run (cardRow c.kind i)
  match c.code with
  | some (_, t) => candIf (!(s.cluster c.cl).frozen) t 4 k act
  | none =>
    if c.cancelled then [⟨s.now, 4, k, act⟩]
    else
      let at' := fun (last : Bool) (kind seq : Nat) =>
        if (s.cluster c.cl).frozen then [⟨s.now, kind, seq, act⟩]
        else if s.cardLate c then [⟨s.now, 0, 100, act⟩]
        else candAt (s.slotAt c.cl c.sl c.slot r last) kind seq act
      match s.stepIn c true with
      | some (.send cl sl slot) =>
        if c.cls1 then [⟨s.slotTime cl sl slot false, 6, k, act⟩] else candAt (s.slotAt c.cl c.sl c.slot r false) 6 k act
      | some _ => at' false 6 k
      | none => match s.stepIn c false with
        | some _ => at' true 10 (8192 * c.kind + k)
        | none => []

/-! ## Main memory -/

/-- A request that a memory-side unit can tag now. -/
def State.dispatchable (s : State) (r : Req) : Bool :=
  (r.tag.isNone || s.mem.stale r) && !r.read && s.unheld r
    && !(r.tag.isNone && match s.mem.sweep with | some sw => r.granule == sw.f | none => false)

def State.reqCands (s : State) (i : Nat) (r : Req) : List Cand :=
  candIf (s.dispatchable r) s.now 11 i (.run (.memoryRequestDispatch i))
  ++ candIf (r.read && r.walk.isSome) s.now 11 i (.run (.pageWalkRead i))

/-- The first slot from `k` on, within `n`, that passes a test. -/
def slotFrom (p : Nat → Bool) : Nat → Nat → Option Nat
  | 0, _ => none
  | n + 1, k => if p k then some k else slotFrom p n (k + 1)

/-- The first slot that no transfer has claimed and that has not begun. -/
def State.slotNext (s : State) (pc : Nat) : Nat := max (s.chan pc).next ((s.now + Config.memSlot - 1) / Config.memSlot)

/-- Something can be claimed in a slot. -/
def State.claimed (s : State) (pc k : Nat) : Bool :=
  match (s.chan pc).entry k with
  | (kind, owner, donate) => s.claim pc kind owner donate false != .idle

/-- Pseudo-channels with something to serve. -/
def State.busyChans (s : State) : List Nat :=
  ((s.mem.reqs.filterMap fun r => r.tag.map fun t => t.2.1)
    ++ (match s.mem.sweep with | some sw => [(home s.mem.live sw.f).1, (home sw.live sw.f).1] | none => [])).eraseDups

def State.chanCands (s : State) (pc : Nat) : List Cand :=
  (match slotFrom (s.claimed pc) 64 (s.slotNext pc) with
   | some k => [⟨k * Config.memSlot, 11, pc, .run (.memorySlotService pc [])⟩]
   | none => [])
  ++ (if (s.oldestRetry pc).isSome || !(s.sweepAgain pc).isEmpty then
        if (s.chan pc).spare && (s.chan pc).next == s.slotNow + 1 then
          [⟨s.slotNow * Config.memSlot + Config.memSlot / 2, 11, pc, .run (.eccRetry pc [])⟩]
        else match slotFrom (fun k => ((s.chan pc).entry k).1 == 2) 64 (s.slotNext pc) with
        | some k => [⟨k * Config.memSlot, 11, pc, .run (.eccRetry pc [])⟩]
        | none => []
      else [])

/-- Period of a slot table. -/
def tablePeriod : Nat := 64 * Config.memSlot

def periodCand (now : Nat) (x : Nat × Option Chan) : List Cand :=
  match x.2 with
  | some c => candIf (c.table != c.tableNext || c.half != c.halfNext) ((now + tablePeriod - 1) / tablePeriod * tablePeriod) 10
      x.1 (.run (.slotTablePeriod x.1))
  | none => []

/-- One granule of a sweep with its reads or all its transfers made, or one that does not move, in each following cycle of the
fastest clock. -/
def State.sweepCand (s : State) : List Cand :=
  match s.mem.sweep with
  | some sw =>
    let a := home s.mem.live sw.f
    let b := home sw.live sw.f
    candIf (a == b || decide (8 ≤ sw.xfers) || (sw.xfers == 4 && !sw.checked)) ((s.now / Config.cycle 36 + 1) * Config.cycle 36) 11 0 (.run (.sweepGranule []))
  | none => []

def State.memCands (s : State) : List Cand :=
  (s.mem.reqs.zipIdx.flatMap fun x => s.reqCands x.2 x.1) ++ s.busyChans.flatMap s.chanCands
    ++ s.mem.chans.flatMap (periodCand s.now) ++ s.sweepCand

/-! ## Page service (11 R226 to R230) -/

def State.asidCands (s : State) (e : AsidSt) : List Cand :=
  candIf ((e.recs.any fun r => !r.posted) && e.slotFree && !s.mem.atF (e.fqbase + 32 * (e.prod % 2 ^ e.fqn))) s.now 11 e.asid (.run (.faultRecordPost e.asid))
  ++ (match e.recs.find? s.servable with
      | some r => [⟨s.now, 11, e.asid, .run (.faultRecordServed e.asid r.seq)⟩]
      | none => [])
  ++ candIf (s.complReady e && !s.mem.atF e.complAddr) s.now 11 e.asid (.run (.completionRecordRead e.asid))
  ++ (match e.fences with
      | f :: _ => candIf (!s.fenceWaits f) s.now 11 e.asid (.run (.mappingFenceComplete e.asid))
      | [] => [])

/-! ## Grids, blocks and the marshal -/

def State.gridCands (s : State) (g : Grid) : List Cand :=
  candIf (g.phase == .run && s.closable g) s.now 11 0 (.run (.windowCloseMerge g.gid))
  ++ candIf (g.phase == .run && g.l.gbudget != 0 && g.saved.isNone) (s.gcTime (g.start + g.l.gbudget.toNat)) 11 1
      (.run (.gridBudgetExpiry g.gid))
  ++ candIf (g.isDone && !s.held.any fun h => h.gid == g.gid) s.now 12 0 (.settle g.gid)

def State.blockCands (s : State) (b : Block) : List Cand :=
  candIf (s.blockLate b) s.now 4 0 (.run (.blockBudgetExpiry b.gid b.bl))
  ++ candIf (s.retirable b) s.now 12 0 (.run (.blockRetire b.gid b.bl))

/-- The graph word that a partition issues next is a boundary that waits for nodes. -/
def State.wordWaits (s : State) (p : Nat) : Bool :=
  isBoundaryOp (fld (s.mem.word (s.part p).gpc.toNat 8) 56 8) && s.outstanding p

/-- Events of a pre-emption: it takes effect, its limit passes, its save completes (19 R386, R388). -/
def State.preemptCands (s : State) (p : Nat) : List Cand :=
  match (s.part p).preempt, (s.part p).preemptAt with
  | some _, none =>
    [⟨match (s.part p).gutter with
      | some g => s.gcTime g
      | none => (s.host.busy.map Prod.fst).getD s.now, 11, p, .run (.preemptTakeEffect p)⟩]
  | some (_, limit), some t =>
    candIf (s.allSaved p) s.now 11 p (.saved p)
    ++ candIf ((s.partWaves p).any fun w => !w.saved && !w.forced)
        (s.gcTime (t + limit)) 11 p (.run (.preemptLimitExpiry p))
  | none, _ => []

/-- The step after a graph word's tick, or at once. -/
def State.wordTime (s : State) (p : Nat) : Nat :=
  match (s.part p).lastIssue with
  | some t => s.gcTime (t + 1)
  | none => s.now

/-- A running graph: its next word, the target it waits for, the deadline of its phase. -/
def State.graphCands (s : State) (p : Nat) : List Cand :=
  let q := s.part p
  if q.mstate != .running || q.preemptAt.isSome then []
  else
    (match q.waitgc with
     | some t => [⟨s.gcTime t, 11, p, .run (.gwaitgcTargetReached p)⟩]
     | none => candIf (!s.wordWaits p) (s.wordTime p) 11 p (.graph p))
    ++ (match q.deadline with
        | some d => candIf (s.outstanding p || !isBoundaryOp (fld (s.mem.word q.gpc.toNat 8) 56 8)) (s.gcTime (d + 1)) 11 p
            (.run (.phaseDeadlineExpiry p))
        | none => [])

def State.partCands (s : State) (p : Nat) : List Cand :=
  let q := s.part p
  candIf (q.mstate == .idle && q.qhead != q.qtail && q.preemptAt.isNone) s.now 11 p (.run (.queueEntryTake p))
  ++ candIf (s.grids.any fun g => g.part == p && g.phase == .check) s.now 11 p (.run (.launchCheck p))
  ++ candIf (if (s.nextSaved p).isSome then (s.placeSaved p).isSome else (s.placeNext p).isSome) s.now 11 p
      (.run (.blockPlacement p))
  ++ s.graphCands p
  ++ (q.nodes.zipIdx.filter fun x => s.watched x.1).map (fun x => ⟨s.now, 11, p, .run (.gwaitsemSatisfied p x.2)⟩)
  ++ s.preemptCands p

/-! ## The fabric (20 R401 to R413) -/

/-- Fabric arrivals follow the increments of the engines in their cycle (17 R328). -/
def fabricSeq : Nat := 40960

/-- First transmit read of a port that is still to come: from `dataAt` on, and not past. -/
def State.nextRead (s : State) (pl : Plan) (q : Port) : Option (Nat × Nat × Nat) :=
  [s.fabric.folio, s.fabric.folio + 1, s.fabric.folio + 2].findSome? fun n =>
    (q.tx.find? fun x => decide (q.dataAt.1 < n ∨ (q.dataAt.1 = n ∧ q.dataAt.2 ≤ x.1)) && x.1 % 256 != 0
      && (tslot x.2).kind != 0 && decide (s.gc ≤ pl.readPoint n (x.1 / 256) (x.1 % 256))).map fun x =>
        (n, x.1, pl.readPoint n (x.1 / 256) (x.1 % 256))

/-- The tick and the row of a port's next sync, tag or retry slot (20 R402, R404). -/
def ctlRow (pl : Plan) (n folio k : Nat) : Nat × Instr :=
  if k < 3 * pl.f then
    match k % 3 with
    | 0 => (pl.slotTick folio (k / 3) 0, .syncSlotSend n (k / 3) 0)
    | 1 => (pl.slotTick folio (k / 3) 256, .tagSlotSend n (k / 3))
    | _ => (pl.slotTick folio (k / 3) 257, .retrySlotSend n (k / 3))
  else
    match k - 3 * pl.f with
    | 0 => (pl.flit folio (1040 * pl.f), .syncSlotSend n pl.f 0)
    | 1 => (pl.flit folio (1040 * pl.f + 320), .syncSlotSend n (pl.f + 1) 0)
    | 2 => (pl.flit folio (1040 * pl.f + 324), .retrySlotSend n pl.f)
    | 3 => (pl.flit folio (1040 * pl.f + 640), .retrySlotSend n (pl.f + 1))
    | _ => (pl.flit folio (1040 * pl.f + 652), .tagSlotSend n pl.f)

def State.sessionCands (s : State) (n : Nat) (x : Session) : List Cand :=
  candIf (x.step.isSome && decide (x.sentAt + 8 ≤ s.fabric.folio)) s.now 11 n (.run (.controlRequestTimeout n))
  ++ candIf (x.live && decide (x.beat + 256 ≤ s.fabric.folio)) s.now 11 n (.run (.heartbeat n false))

/-- The control channel of the next gutter (21 R426), when something waits or the last one carried something. -/
def State.controlCands (s : State) (pl : Plan) (n : Nat) : List Cand :=
  let q := s.port n
  let at' := fun f => pl.flit f (1040 * pl.f + 656)
  let now := decide (s.gc ≤ at' s.fabric.folio) && q.ctlFolio != some s.fabric.folio
  candIf (q.trained && !(q.queue.isEmpty && q.flits.isEmpty)) (s.gcTime (at' (if now then s.fabric.folio else s.fabric.folio + 1)))
    11 n (.control n)

/-- A transmit read that waits for a sweep has to wait still. -/
def State.heldStill (s : State) (q : Port) (k : Nat) : Bool :=
  let ts := tslot (q.tx.get 0 k)
  let t := s.tent ts.part ts.e
  match t.word with
  | some w => (t.st == 2 || t.st == 3) && s.chunkHeld t.part w.sspace w.sloc w.skey w.src w.bytes ts.chunk
  | none => false

/-- Events of a port. Its sync, tag and retry slots follow the folio boundary of their tick, with which a marker begins (19 R384). -/
def State.portCands (s : State) (pl : Plan) (n : Nat) : List Cand :=
  let q := s.port n
  let ctl := ctlRow pl n q.ctlAt.1 q.ctlAt.2
  (if q.trained then
    (match s.nextRead pl q with
     | some (f, k, t) => [⟨s.gcTime t, 10, fabricSeq + 16 + n, .txRead n f k⟩]
     | none => [])
   else [])
  ++ (match q.held with
      | (_, k) :: _ => candIf (!s.heldStill q k) s.now 10 (fabricSeq + 16 + n) (.heldRead n)
      | [] => [])
  ++ [⟨s.gcTime ctl.1, 11, 128 + n, .run ctl.2⟩]
  ++ (match q.arrived with | (t, _) :: _ => [⟨t, 10, fabricSeq + n, .run (.slotArrival n 0)⟩] | [] => [])
  ++ (match q.session with | some x => s.sessionCands n x | none => [])
  ++ s.controlCands pl n

/-- A root chunk that a stalled cluster or a sweep has held back can be written now (20 R414, 12 R251). -/
def State.rootReady (s : State) (t : Tent) : Bool :=
  match t.word with
  | some w => t.st == 2 && w.recv && !s.destStalled t.part w
      && (List.range w.nslots).any fun c => !t.written.contains c && (s.rootFrom t w c).isSome && !s.rootHeld t w c
  | none => false

def State.fabricCands (s : State) : List Cand :=
  match s.fabric.plan with
  | none => []
  | some pl =>
    ((List.range 12).flatMap (s.portCands pl))
    ++ ((s.fabric.ents.filter fun t => t.st == 1 && !s.inHold t.folio).map fun t =>
        ⟨s.gcTime (s.firstRead pl t.folio t.part t.e), 10, fabricSeq, .run (.entryFire t.part t.e)⟩)
    ++ (s.fabric.ents.filter fun t => s.rootReady t).map (fun t => ⟨s.now, 10, fabricSeq, .root t.part t.e⟩)
    ++ (match s.fabric.hold, s.fabric.resume with
        | some _, some b => candIf (decide (b ≤ s.fabric.folio)) s.now 11 65 (.run (.resyncResume b))
        | _, _ => [])
    ++ [⟨s.gcTime (pl.start (s.fabric.folio + 1)), 11, 64, .run .folioBoundary⟩]

/-! ## Power and the host -/

/-- Nominal time in which a voltage settles (log 40). -/
def settleTime : Nat := 100000 * Config.gcTick

def State.powerCands (s : State) : List Cand :=
  let v := s.host.vf
  (match v.target, v.pending with
   | some b, _ => candIf (s.moveDone b || s.voltDue b) s.now 11 0 (.run .vfMoveComplete)
       ++ (match v.voltAt with
           | some t => candIf (!v.settled) (t + settleTime) 11 0 (.run .voltageSettled)
           | none => [])
   | none, some _ => [⟨v.since + Config.gcTick, 11, 0, .run .vfMoveComplete⟩]
   | none, none => [])
  ++ (match s.host.capUntil with
      | some t => [⟨s.gcTime t, 11, 0, .run .rackCapExpiry⟩]
      | none => [])
  ++ [⟨s.gcTime s.host.budgetAt, 11, 1, .run (.budgetRecompute s.meanPower)⟩]
  ++ (List.range 32).flatMap fun cl =>
      let c := s.cluster cl
      (match c.overAt with
       | some t => candIf (decide (c.overDue < c.ceil) || !c.unmet) (t + s.cyclesOf cl 64) 11 cl (.run (.currentLimitExceeded cl))
       | none => [])
      ++ (match c.lowAt with
          | some t => candIf (decide (1 < c.overDue) && !s.host.raised.contains cl) (t + s.cyclesOf cl 65536) 11 cl
              (.run (.currentLowStepDown cl))
          | none => [])

def State.hostCands (s : State) : List Cand :=
  (match s.host.busy with
   | some (t, _) => [⟨t, 0, 0, .command⟩]
   | none => [])
  ++ (match s.host.moveAt with
      | some t => [⟨t, 0, 0, .command⟩]
      | none => [])
  ++ (match s.completed with
      | d :: _ => [⟨d.time + Config.cycle (s.cluster d.cl).clock, 0, 0, .release⟩]
      | [] => [])
  ++ candIf s.arb.busy s.now 12 0 (.run .eventRingWrite)
  ++ s.powerCands

/-! ## The choice -/

/-- The port of the host whose register or aperture an item writes. -/
def hostPort : Instr → Option Bool
  | .qtailWrite p .. | .failoverWrite p _ | .vftgtWrite p _ | .passhostWrite p _ | .ovrceilWrite p _ | .ratioWrite p _
  | .slotTableWrite p .. | .registerWrite p .. | .partdef p | .asidset p | .mapfence p | .terminate p | .semassign p | .retire p
  | .preempt p | .resume p | .mresume p | .gsigack p | .mkeyload p _ | .mkeyunload p _ | .jkeyload p _ | .jkeyunload p _
  | .attest p | .revoke p | .schedload p | .tmplload p | .widthup p _ | .mxreset p | .rackcap none p => some p
  | .bar2Access p true .. => some p
  | _ => none

/-- Rank of an item among those that arrive in one cycle of the host interface: the management port's rack cap, then port 0, then
port 1 (23 R449, R462; log 119). -/
def hostRank : Instr → Option Nat
  | .rackcap (some _) _ => some 0
  | i => (hostPort i).map fun p => 1 + bit p

/-- Place among the updates of its instant of an item of the fabric that can fail an entry: its port's arrivals (17 R328, 20 R415). -/
def fabricRank : Instr → Option Nat
  | .tagSlotArrival n .. | .syncSlotArrival n .. | .portTrainingFailure n => some (fabricSeq + n)
  | _ => none

/-- An item that waits: an access of the aperture to the granule that a sweep is moving (12 R251). -/
def State.itemHeld (s : State) : Instr → Bool
  | .bar2Access _ _ _ off n _ =>
    s.mem.atF (s.host.apbase.toNat + off) || s.mem.atF (s.host.apbase.toNat + off + n - 1)
  | _ => false

/-- The environment's next item with its place: the first that does not wait, or one of its GC tick that ranks before it. -/
def State.nextItem (s : State) : Option ((Nat × Instr) × Nat) :=
  match s.agenda.zipIdx.filter fun x => !s.itemHeld x.1.2 with
  | [] => none
  | x :: xs =>
    match hostRank x.1.2 with
    | none => some x
    | some _ => some (xs.foldl (fun b y =>
        match hostRank b.1.2, hostRank y.1.2 with
        | some m, some n => if n < m && s.tickOf y.1.1 == s.tickOf x.1.1 then y else b
        | _, _ => b) x)

def State.agendaCand (s : State) : List Cand :=
  match s.agenda.find? fun x => !s.itemHeld x.2 with
  | some (t, i) => match fabricRank i with
    | some k => [⟨t, 10, k, .agenda⟩]
    | none => [⟨t, 0, 0, .agenda⟩]
  | none => []

/-- Every event that is due. The environment's item comes ahead of the events of its time, but for one of the fabric. -/
def State.cands (s : State) : List Cand :=
  s.agendaCand ++ s.hostCands
    ++ (List.range 32).flatMap s.clusterCands ++ (List.range 192).flatMap s.boundaryCand
    ++ (s.waves.zipIdx.flatMap fun x => s.waveCands x.2 x.1)
    ++ (s.ended.zipIdx.flatMap fun x => s.resultCands (s.waves.length + x.2) x.1)
    ++ (s.mmas.zipIdx.flatMap fun x => s.mmaCands x.2 x.1) ++ (s.moves.zipIdx.flatMap fun x => s.moveCands x.2 x.1)
    ++ (s.accs.zipIdx.flatMap fun x => s.accCands x.2 x.1) ++ (s.cards.zipIdx.flatMap fun x => s.cardCands x.2 x.1)
    ++ s.memCands ++ s.asids.flatMap s.asidCands ++ s.grids.flatMap s.gridCands ++ s.blocks.flatMap s.blockCands
    ++ (List.range 8).flatMap s.partCands ++ s.fabricCands

/-! ## Acts -/

/-- A partition's next graph word, fetched and issued; a fetch outside its graph region is the protection fault. -/
def State.graphWord (s : State) (p : Nat) : State :=
  let a := (s.part p).gpc.toNat
  if s.inRegion p a 8 then
    let w := s.mem.word a 8
    let u := { s with curPart := Fin.ofNat 8 p }
    match Sys2Proof.Machine.exec (match decodeGraph w with | .ok i => i | .error _ => .illegalGraphWord (BitVec.ofNat 64 w)) u with
    | .next v => v
    | _ => u
  else s.gstop p 0x04 []

/-- The outcome of a row, as a state. -/
def State.event (s : State) (i : Instr) : State :=
  match Sys2Proof.Machine.exec i s with
  | .next t => t
  | _ => s

/-- The environment's next item. A wave instruction or graph word is none; an engine span says how the proofs of the next
one end. -/
def State.takeAgenda (s : State) : State :=
  match s.nextItem with
  | some ((_, i), k) =>
    let s := { s with agenda := s.agenda.eraseIdx k }
    match i with
    | .engineSpan cl fails => s.updCluster cl fun c => { c with fails := c.fails ++ fails }
    | i => if (encode i).isEmpty then s.event i else s
  | none => s

def State.doAct (s : State) : Act → State
  | .run i => s.event i
  | .visit wv => s.visit wv
  | .cardRead wv => s.latchCards wv
  | .graph p => s.graphWord p
  | .agenda => s.takeAgenda
  | .stalls => s.noteStalls
  | .release => s.beginRelease
  | .command => s.endCommand
  | .saved p => s.finishSave p
  | .settle gid => s.settleGrid gid
  | .root p e => s.settleEntry p e
  | .control n => s.controlSend n
  | .heldRead n => s.heldRead n
  | .txRead n f k => (s.updPort n fun q => { q with dataAt := (f, k) }).event (.transmitSlotRead n (k / 256) (k % 256))

/-- The device before its boot, or after one that failed: the environment's item, or the boot that power-on begins. -/
def State.dark (s : State) : State :=
  match s.agenda with
  | (t, _) :: _ => if s.host.bootCode.isNone && decide (s.now < t) then s.boot true
      else ({ s with now := max s.now t }).takeAgenda
  | [] => if s.host.bootCode.isNone then s.boot true else s

/-- The next event happens, after the readings of the sensors up to its time. -/
def State.tick (s : State) : State :=
  if !s.booted then s.dark
  else match firstCand s.now s.cands with
    | some c => (({ s with now := max s.now c.time }).sensed).doAct c.act
    | none => s

end Sys2Proof.Machine
end

