-- ==== Sys2Proof/Machine/Load.lean ====
section
/-! DEFINITION. The machine with one instruction where the next fetch takes it (log 41): a booted device on which a wave
has entered a block of that instruction, or a partition whose graph stands at that word. -/

namespace Sys2Proof.Machine

/-- The device of a state as a boot leaves it, with nothing placed and no item of the environment waiting. -/
def State.fresh (s : State) : State :=
  { s.cleared with
    booted := true, agenda := [], sensors := []
    clusters := List.replicate 32 { Cluster.reset 36 with t0 := s.now, spanAt := 6 }
    mem := { Mem.reset with live := liveList s.flash.retire } }

/-- A launch with every resource of a block of one wave. -/
def loadedLaunch : Launch :=
  { (default : Launch) with
    gx := 1, gy := 1, gz := 1, waves := 1, regs := 256, barriers := 32, tiles := 16, team := 1, spad := 65536
    cpad := 65536, dpad := 65536, spill := 0 }

def loadedGrid : Grid :=
  { (default : Grid) with gid := 0, phase := .run, l := loadedLaunch, pace := 1, blocks := 1, next := 1 }

def loadedBlock : Block :=
  { (default : Block) with
    bid := 0, gid := 0, cl := 0, sbase := Vector.replicate 6 0, tiles := List.range 16
    flagAt := Vector.replicate 12 0, live := 1 }

/-- The execution of a block of one instruction, of two words for MOVL. The header covers both directions by prefetch; an
ELB stands in an elastic block with a join. -/
def loadedExec (w : Nat) : Exec :=
  let op := fld w 56 8
  let n := if op = 0x1E then 2 else 1
  let h := 63 * 2 ^ 58 + n * 2 ^ 50 + 15 * 2 ^ 10 + 15 * 2 ^ 6 + 3 * 4 + (if op = 0x48 then 2 ^ 27 + 16 else 0)
  ⟨0, 0x1000, BitVec.ofNat 64 h, [BitVec.ofNat 64 w, BitVec.ofNat 64 (w / 2 ^ 64)]⟩

def loadedThread (w : Nat) : Thread := { Thread.reset with pc := 0x1008, ex := some (loadedExec w), reanchor := false }

/-- A wave in slot 0 of slice 0 of cluster 0, with nothing in its registers. -/
def loadedWave (w : Nat) : Wave :=
  { uid := 0, cl := 0, sl := 0, slot := 0, bank := 0, bid := 0, widx := 0, spill := 0, started := some 0
    threads := Vector.replicate 32 (loadedThread w), v := [], s := Vector.replicate 64 0, m := Vector.replicate 16 0
    x := 0, q := Vector.replicate 8 0, pend := [], joins := [], savedJoins := [], handler := false, region := none
    latch := none, marks := [], hold := 0, due := 0, cards := Vector.replicate 3 0, latched := [], walked := [], saved := false
    forced := false }

/-- A wave's instruction placed. -/
def State.withWaveWord (s : State) (w : Nat) : State :=
  { s.fresh with
    nextUid := 1, waves := [loadedWave w], blocks := [loadedBlock], grids := [loadedGrid] }

/-- A graph word placed at address 0, in the graph region of partition 0. -/
def State.withGraphWord (s : State) (w : Nat) : State :=
  let u := s.fresh
  { u with mem := u.mem.writeMany 0 (toBytes 8 w) }.updPart 0 fun q => { q with grsize := 1, mstate := .running }

/-- The instruction of a word, placed where the next step fetches. -/
def State.withWord (s : State) (w : Nat) : State :=
  if 0xC0 ≤ fld w 56 8 ∧ fld w 56 8 ≤ 0xCA then s.withGraphWord w else s.withWaveWord w

end Sys2Proof.Machine
end

