-- ==== Sys2Proof/Machine/Step.lean ====
section
/-! DEFINITION. One step of the device: its next event. -/

namespace Sys2Proof.Machine

/-- One step: the next event in nominal time happens (Sched.lean). -/
def step (s : State) : Host.Outcome State Fault Refusal := .next s.tick

/-- The state with an instruction placed where the next step fetches it. -/
def State.withFetchWord (s : State) (_nbits w : Nat) : State := s.withWord w

end Sys2Proof.Machine
end

