-- ==== Sys2Proof/Machine/Regs.lean ====
section
/-! DEFINITION. What a read of a BAR0 register returns (23 R450, R451, R456, R468; 12 R242, R249; 18 R332). A read changes
nothing. -/

namespace Sys2Proof.Machine

/-- A pass count or override as PASSHOST codes it. -/
def codeOf (n : Nat) : Nat := if n = 4 then 2 else if n = 2 then 1 else 0

/-- Two bits for each cluster. -/
def State.coded32 (s : State) (f : Cluster → Nat) : Nat :=
  (List.range 32).foldl (fun v c => v + codeOf (f (s.cluster c)) * 2 ^ (2 * c)) 0

/-- BOOTSTAT. -/
def State.bootstat (s : State) : Nat :=
  bit s.booted * 2 ^ 31 + bit s.host.bootCode.isSome * 2 ^ 30 + s.host.stage % 256 * 2 ^ 8 + s.host.bootCode.getD 0 % 256

/-- CMDSTAT. A command past its end has cleared busy and written its status. -/
def State.cmdstat (s : State) : Nat :=
  let h := s.endCommand.host
  bit h.busy.isSome * 2 ^ 31 + bit h.overrun * 2 ^ 30 + h.status % 256 * 2 ^ 16 + h.op % 2 ^ 16

/-- VFSTAT. -/
def State.vfstat (s : State) : Nat :=
  let v := s.host.vf
  bit v.target.isSome * 2 ^ 31 + bit v.pending.isSome * 2 ^ 30 + (v.pending.map Fin.val).getD 0 * 2 ^ 20
    + (v.target.map Fin.val).getD 0 * 2 ^ 16 + s.clusters.foldl (fun m c => max m c.clock) 0 % 256 * 2 ^ 8 + v.current.val

/-- BUDGET. -/
def State.budgetReg (s : State) : Nat := bit (!s.capStands) * 2 ^ 31 + s.budget % 2 ^ 16

/-- MSTAT. -/
def Part.mstat (q : Part) : Nat :=
  (match q.mstate with | .idle => 0 | .running => 1 | .stopped => 2) + q.mcode.toNat * 2 ^ 8

/-- A register of a partition's page. -/
def Part.reg (q : Part) (off : Nat) : Nat :=
  match off with
  | 0x000 => q.qbase.toNat
  | 0x008 => q.qsize.toNat
  | 0x010 => q.qtail.toNat
  | 0x018 => q.qhead.toNat
  | 0x020 => q.grbase.toNat
  | 0x028 => q.grsize.toNat
  | 0x030 => q.cwbase.toNat
  | 0x038 => q.gpc.toNat
  | 0x040 => q.epoch.toNat
  | 0x048 => q.mstat
  | 0x080 => q.clusters.foldl (fun v c => v + 2 ^ c) 0
  | 0x088 => q.stalllim
  | 0x090 => q.spillbase.toNat
  | 0x098 => q.spillcnt.toNat
  | 0x0A0 => q.wstbase.toNat
  | 0x0A8 => q.ttbase.toNat
  | 0x0B0 => q.ttsize
  | 0x0B8 => q.rtbase.toNat
  | 0x0C0 => q.ssbase.toNat
  | 0x0C8 => q.policy.toNat
  | _ => 0

/-- `n` fields of `w` bits each, the first lowest. -/
def packed (w n : Nat) (f : Nat → Nat) : Nat := (List.range n).foldl (fun v k => v + f k % 2 ^ w * 2 ^ (w * k)) 0

/-- The doubleword at an offset, a multiple of 8, as a port reads it. -/
def State.readReg (s : State) (port : Bool) (off : Nat) : Nat :=
  let h := s.host
  if off = 0x0000 then 0x4B34 * 2 ^ 48 + 1 * 2 ^ 40 + 2 * 2 ^ 32 + s.flash.devid.toNat
  else if off = 0x0008 then s.bootstat
  else if !s.booted then 0
  else if 0x20000 ≤ off ∧ off < 0x28000 then (s.part ((off - 0x20000) / 0x1000)).reg (off % 0x1000)
  else if 0x10000 ≤ off ∧ off < 0x10800 then
    packed 8 8 fun j => match ((s.cluster ((off - 0x10000) / 64)).sem (off % 64 + j)).owner with
      | some p => 0x80 + p.val
      | none => 0
  else if 0x8000 ≤ off ∧ off < 0x10000 then
    packed 8 8 fun j => ((s.chan ((off - 0x8000) / 64)).tableNext[off % 64 + j]?.getD 0).toNat
  else if 0x4400 ≤ off ∧ off < 0x4800 then packed 16 4 fun j => s.mem.live.getD ((off - 0x4400) / 2 + j) 0
  else if 0x2050 ≤ off ∧ off < 0x2078 then packed 8 8 fun j => (h.temps[off - 0x2050 + j]?.getD 0).toNat
  else if 0x2028 ≤ off ∧ off < 0x2040 then
    packed 1 64 fun j => (s.slices.getD (8 * (off - 0x2028) + j) default).ratioNext - 1
  else match off with
    | 0x0010 => bit s.endCommand.host.owner
    | 0x0020 => h.ign[portIx port]?.getD 0
    | 0x1048 => s.cmdstat
    | 0x1050 => s.endCommand.host.res.toNat
    | 0x2008 => s.vfstat
    | 0x2010 => s.coded32 Cluster.hostPass
    | 0x2018 => s.coded32 Cluster.ceil
    | 0x2020 => s.coded32 Cluster.pass
    | 0x2040 => h.rota.toNat
    | 0x2048 => h.templim.toNat
    | 0x2100 => (h.rcap.map fun m => fld m.toNat 0 64).getD 0
    | 0x2108 => (h.rcap.map fun m => fld m.toNat 64 64).getD 0
    | 0x2110 => s.budgetReg
    | 0x2118 => h.rcapIgn
    | 0x3000 => s.arb.base.toNat
    | 0x3008 => s.arb.size
    | 0x3010 => s.arb.head.toNat
    | 0x3018 => s.arb.tail.toNat
    | 0x3020 => h.asidtbl.toNat
    | 0x3028 => h.apbase.toNat
    | 0x4000 => s.mem.impgen
    | 0x4008 => s.mem.live.length
    | 0x4010 => (s.mem.sweep.map Sweep.f).getD (2 ^ 64 - 1)
    | _ => 0

end Sys2Proof.Machine
end

