-- ==== Sys2Proof/Safety.lean ====
section
/-! DEFINITION. What claims about the device speak of: its invariant, the path that issues, what a step leaves as it was,
and the addresses that a store writes. -/

namespace Sys2Proof.Machine

/-! ## The invariant -/

/-- The store, the tiles and the pseudo-channels are in canonical form, and the device has its 192 slices and 32 clusters
(00 R1). -/
structure State.Inv (s : State) : Prop where
  mem : s.mem.wf = true
  tiles : s.tiles.wf Tile.none = true
  chans : s.mem.chans.wf none = true
  slices : s.slices.length = 192
  clusters : s.clusters.length = 32

/-! ## The path that issues -/

/-- A path of running threads of a resident wave stands ready to issue. -/
structure State.Stands (s : State) (c : Cur) (w : Wave) : Prop where
  cur : s.cur = some c
  wave : s.waveOf c.uid = some w
  lanes : c.lanes ≠ 0
  run : ∀ l, l < 32 → c.lanes.getLsbD l = true → (w.th l).status = .run

/-- An instruction passes the checks of 03 R66 on that path. -/
structure State.Issues (s : State) (i : Instr) (c : Cur) (w : Wave) : Prop extends s.Stands c w where
  front : s.frontTrap i = none

/-! ## What an issue leaves as it was -/

/-- A thread apart from where it stands: its place, its block, and the counts that rank its path. -/
def Thread.core (t : Thread) : Thread :=
  { t with pc := 0, ex := none, readyAt := 0, reanchor := false, anchor := 0, aged := 0, runsOn := none, flagWait := false }

/-- A wave apart from its threads, the results in flight, the join list, the rounds that it holds for, and the walks of
its next instruction: its registers, its latch, its marks and its place among them. -/
def Wave.core (w : Wave) : Wave :=
  { w with threads := Vector.replicate 32 Thread.reset, pend := [], joins := [], hold := 0, walked := [] }

/-- A block apart from its completion flags. -/
def Block.core (b : Block) : Block := { b with flags := 0, armed := 0, flagAt := Vector.replicate 12 0 }

/-- Registers, latch and marks of a wave, and every thread's depth, return stack, status word, trap registers, restart
record and waits are as they were. -/
structure Wave.Keeps (w u : Wave) : Prop where
  core : u.core = w.core
  threads : ∀ l, (u.th l).core = (w.th l).core

/-- From `s` to `t` wave `w` becomes `u`, completion flags may be set, and nothing else changes: no other wave, no byte
of memory, no tile, no register of the device. -/
structure State.Keeps (s t : State) (c : Cur) (u : Wave) : Prop where
  rest : t = { s with waves := modifyFirst (fun x => x.uid == c.uid) (fun _ => u) s.waves, blocks := t.blocks }
  blocks : t.blocks.map Block.core = s.blocks.map Block.core

/-- Every thread of a path has gone on to an address. -/
def Wave.WentOn (u : Wave) (lanes : W32) (a : W64) : Prop :=
  ∀ l, l < 32 → lanes.getLsbD l = true → (u.th l).pc = a

/-- From `s` to `t` the path has issued an instruction whose one effect is a result in flight, with the wave holding its
issue until a round, and has gone on to the next word. -/
def State.Yields (s t : State) (c : Cur) (w : Wave) (p : Pend) (hold : Nat) : Prop :=
  ∃ u, s.Keeps t c u ∧ w.Keeps u ∧ u.pend = w.pend ++ [p] ∧ u.hold = hold ∧ u.WentOn c.lanes c.next

/-- A result of the issuing path without flags, `lat` rounds after its issue (01 R23). -/
def State.resultAt (s : State) (c : Cur) (w : Wave) (act : W32) (lat : Nat) (regs : List Reg) (wr : List Wr) : Pend :=
  ⟨s.round w + lat, act, regs, wr, [], none, [], c.pc, c.next, (w.th (lowLane c.lanes)).ex⟩

/-- From `r` to `t` the path has gone on to the next word, and nothing else has happened: `r` is the state at the issue
with the instruction's own effect. -/
def State.WentFrom (r t : State) (c : Cur) (w : Wave) : Prop :=
  ∃ u, r.Keeps t c u ∧ w.Keeps u ∧ u.pend = w.pend ∧ u.hold = w.hold ∧ u.WentOn c.lanes c.next

/-- A result with flags: the flags each lane raises, beside the enables in force in the issue round (05 R100). -/
def State.flResultAt (s : State) (c : Cur) (w : Wave) (act : W32) (lat : Nat) (regs : List Reg) (wr : List Wr)
    (fl : Nat → Fl) : Pend :=
  { s.resultAt c w act lat regs wr with
    fl := ((lanesOf act).map fun l => (l, fl l)).filter fun e => e.2 != 0
    en := ((lanesOf act).map fun l => (l, (w.th l).enables)).filter fun e => e.2 != 0 }

/-- 01 R26: with an enable set in an Active lane, the wave issues nothing before the result round. -/
def State.flHold (s : State) (w : Wave) (act : W32) (lat : Nat) : Nat :=
  if (lanesOf act).any fun l => (w.th l).enables != 0 then max w.hold (s.round w + lat) else w.hold

/-! ## What the integer rules say of a lane's result -/

/-- A register value that holds the result of an exact value in a type (04 R81): clamped to the range of the type when
`sat` is set and reduced modulo 2^w otherwise, with a narrow type extended to 32 bits by its signedness (02 R29). -/
structure IntWrites (t : IType) (sat : Bool) (x : Int) (v : Nat) : Prop where
  size : v < 2 ^ (32 * t.regs)
  value : if sat then ival t v = min (max x (ilow t)) (ihigh t) else ((v : Int) - x) % 2 ^ t.bits = 0
  extend : ∀ i, t.bits ≤ i → i < 32 → v.testBit i = (t.signed && v.testBit (t.bits - 1))

/-- A register value whose low w bits are given, extended in the same way. -/
structure IntHasBits (t : IType) (b : Nat → Bool) (v : Nat) : Prop where
  size : v < 2 ^ (32 * t.regs)
  low : ∀ i, i < t.bits → v.testBit i = b i
  extend : ∀ i, t.bits ≤ i → i < 32 → v.testBit i = (t.signed && b (t.bits - 1))

/-- 04 R84: instruction, rounds, and the exact result from the exact values of A, B and C. -/
def arithRule (t : IType) (r : RForm) : List (Instr × Nat × (Int → Int → Int → Int)) :=
  [(.iadd t r, 1, fun a b _ => a + b), (.isub t r, 1, fun a b _ => a - b),
   (.imul t r, (if t.bits = 64 then 2 else 1), fun a b _ => a * b),
   (.imulhi t r, (if t.bits = 64 then 2 else 1), fun a b _ => a * b / 2 ^ t.bits),
   (.imad t r, (if t.bits = 64 then 2 else 1), fun a b c => a * b + c),
   (.imin t r, 1, fun a b _ => if a ≤ b then a else b), (.imax t r, 1, fun a b _ => if a ≤ b then b else a),
   (.iabs t r, 1, fun a _ _ => if 0 ≤ a then a else -a), (.ineg t r, 1, fun a _ _ => -a)]

/-- 04 R85: quotient and remainder. -/
def divRule (t : IType) (r : RForm) : List (Instr × Nat × (Int → Int → Int → Int)) :=
  [(.idiv t r, (if t.bits = 64 then 12 else 6), fun a b _ =>
      if b = 0 then (if t.signed then (if 0 ≤ a then -1 else 1) else 2 ^ t.bits - 1) else Int.tdiv a b),
   (.irem t r, (if t.bits = 64 then 12 else 6), fun a b _ => if b = 0 then a else a - b * Int.tdiv a b)]

/-- 04 R86, R87 but for SHL, R88 and BREV of R89: bit `i` of the result from the bits of A and B and the 32-bit counts or
control words in B and C. -/
def bitRule (t : IType) (r : RForm) : List (Instr × ((Nat → Bool) → (Nat → Bool) → Nat → Nat → Nat → Bool)) :=
  [(.land t r, fun a b _ _ i => a i && b i), (.lor t r, fun a b _ _ i => a i || b i),
   (.lxor t r, fun a b _ _ i => a i != b i), (.landn t r, fun a b _ _ i => a i && !b i),
   (.lnot t r, fun a _ _ _ i => !a i),
   (.shr t r, fun a _ n _ i => decide (i + n < t.bits) && a (i + n)),
   (.sar t r, fun a _ n _ i => a (min (i + n) (t.bits - 1))),
   (.rot t false r, fun a _ n _ i => a ((i + t.bits - n % t.bits) % t.bits)),
   (.rot t true r, fun a _ n _ i => a ((i + n) % t.bits)),
   (.bfx t r, fun a _ k _ i =>
      let len := fieldLen t.bits k
      if i < len then a (k % 256 + i) else t.signed && decide (0 < len) && a (k % 256 + len - 1)),
   (.bfi t r, fun a b _ k i =>
      if k % 256 ≤ i ∧ i < k % 256 + fieldLen t.bits k then b (i - k % 256) else a i),
   (.brev t r, fun a _ _ _ i => a (t.bits - 1 - i))]
where
  /-- len' of 04 R88 -/
  fieldLen (w k : Nat) : Nat := if k % 256 < w then min (k / 256 % 256) (w - k % 256) else 0

/-- 04 R87, R91, R95: SHL and LEA by their exact result, and whether the saturate bit counts. -/
def scaleRule (t : IType) (r : RForm) (w : Wave) : List (Instr × Bool × (Nat → Int)) :=
  [(.shl t r, r.sat, fun l => w.iv t r.a l * 2 ^ w.rd r.b 1 l)] ++
  [0, 1, 2, 3, 4].map fun k => (.lea t k r, false, fun l =>
    w.iv t r.a l + (if t.signed then (BitVec.ofNat 32 (w.rd r.b 1 l)).toInt else w.rd r.b 1 l) * 2 ^ k.val
      + (BitVec.ofNat 32 (w.rd r.c 1 l)).toInt)

/-- 04 R89: what POPC, CLZ and CTZ say of a w-bit value, given by its bits, and their count. -/
def countRule (t : IType) (r : RForm) : List (Instr × ((Nat → Bool) → Nat → Prop)) :=
  [(.popc t r, fun a n => n = (List.range t.bits).countP a),
   (.clz t r, fun a n => n ≤ t.bits ∧ (∀ i, t.bits - n ≤ i → i < t.bits → a i = false)
      ∧ (n < t.bits → a (t.bits - 1 - n) = true)),
   (.ctz t r, fun a n => n ≤ t.bits ∧ (∀ i, i < n → a i = false) ∧ (n < t.bits → a n = true))]

/-- 04 R90: the conditions of ICMP. -/
def icmpRule : List (ICond × (Int → Int → Prop)) :=
  [(.eq, fun a b => a = b), (.ne, fun a b => a ≠ b), (.lt, fun a b => a < b), (.le, fun a b => a ≤ b),
   (.gt, fun a b => a > b), (.ge, fun a b => a ≥ b)]

/-! ## What the floating-point rules say of a result -/

/-- The values of a format's encodings, as multiples of 2^q / d. -/
def Fmt.HasVal (f : Fmt) (d : Nat) (q z : Int) : Prop :=
  ∃ y n m e, y < 2 ^ f.bits ∧ f.read y = .fin n m e ∧ z = scaled n m e q * d

/-- `v` is where an attribute rounds `x` among some values (02 R37); `even` says that the encoding of `v` is even. -/
def RoundsTo (rm : Rm) (has : Int → Prop) (even : Bool) (x v : Int) : Prop :=
  match rm with
  | .rne => ∀ z, has z → (v - x).natAbs ≤ (z - x).natAbs ∧ (z ≠ v → (v - x).natAbs = (z - x).natAbs → even = true)
  | .rna => ∀ z, has z → (v - x).natAbs ≤ (z - x).natAbs ∧ ((v - x).natAbs = (z - x).natAbs → z.natAbs ≤ v.natAbs)
  | .rtz => v.natAbs ≤ x.natAbs ∧ ∀ z, has z → z.natAbs ≤ x.natAbs → z.natAbs ≤ v.natAbs
  | .rup => x ≤ v ∧ ∀ z, has z → x ≤ z → v ≤ z
  | .rdn => v ≤ x ∧ ∀ z, has z → z ≤ x → z ≤ v

/-- A result and its flags are RoundTo of the exact value (-1)^neg * m / d * 2^e, which is not zero, with the overflow
outcome of 02 R39 at saturate 0. -/
def Fmt.Rounded (f : Fmt) (rm : Rm) (neg : Bool) (m d : Nat) (e : Int) (x : Nat × Fl) : Prop :=
  ∀ q : Int, q ≤ e → q ≤ 1 - (f.bias : Int) - f.mbits →
    x.2.getLsbD 0 = false ∧ x.2.getLsbD 1 = false ∧
    if x.2.getLsbD 2 then
      x.1 = f.overflow rm false neg ∧ x.2.getLsbD 4 = true ∧
        ∀ z, f.HasVal d q z → z.natAbs < (scaled neg m e q).natAbs
    else ∃ m' e', f.read x.1 = .fin neg m' e' ∧ x.1 < 2 ^ f.bits
      ∧ (x.2.getLsbD 4 = true ↔ scaled neg m' e' q * d ≠ scaled neg m e q)
      ∧ RoundsTo rm (f.HasVal d q) (x.1 % 2 == 0) (scaled neg m e q) (scaled neg m' e' q * d)

/-- A code stands for (-1)^neg * m * 2^e, exactly. -/
def Fmt.Exactly (f : Fmt) (code : Nat) (neg : Bool) (m : Nat) (e : Int) : Prop :=
  code < 2 ^ f.bits ∧ ∃ m' e', f.read code = .fin neg m' e' ∧ ∀ q, q ≤ e → q ≤ e' → scaled neg m' e' q = scaled neg m e q

/-- A conversion is tiny after rounding (00 R8): rounded to the format's precision with the exponent range left open, the
value (-1)^neg * m * 2^e lies below the smallest normal. -/
def Fmt.Tiny (f : Fmt) (rm : Rm) (neg : Bool) (m : Nat) (e : Int) : Prop :=
  ∀ q : Int, q ≤ e → q ≤ e + Nat.log2 m - f.mbits → q ≤ 1 - (f.bias : Int) - f.mbits →
    let has := fun (z : Int) => ∃ n j : Nat, n < 2 ^ (f.mbits + 1) ∧ z.natAbs = n * 2 ^ j
    ∃ v, has v ∧ v.natAbs < 2 ^ (1 - (f.bias : Int) - q).toNat ∧
      RoundsTo rm has (v.natAbs / 2 ^ (Nat.log2 v.natAbs - f.mbits) % 2 == 0) (scaled neg m e q) v

/-- `v` is where an attribute rounds a positive number that `c` tells from others: `c k` compares an integer k with twice the
number. -/
def RoundsCut (rm : Rm) (has : Int → Prop) (even : Bool) (c : Int → Ordering) (v : Int) : Prop :=
  match rm with
  | .rne | .rna => ∀ z, has z → z ≠ v → (v < z → c (v + z) ≠ .lt) ∧ (z < v → c (v + z) ≠ .gt) ∧
      (c (v + z) = .eq → if rm = .rne then even = true else z.natAbs ≤ v.natAbs)
  | .rtz | .rdn => c (2 * v) ≠ .gt ∧ ∀ z, has z → c (2 * z) ≠ .gt → z ≤ v
  | .rup => c (2 * v) ≠ .lt ∧ ∀ z, has z → c (2 * z) ≠ .lt → v ≤ z

/-- A result and its flags under saturate 1 (02 R39), from those under saturate 0: an overflow gives the largest value. -/
def Fmt.saturated (f : Fmt) (neg : Bool) (x : Nat × Fl) : Nat × Fl :=
  if x.2.getLsbD 2 then ((if neg then 2 ^ (f.ebits + f.mbits) else 0) + f.largest, x.2) else x

/-- 02 R33: the formats with their largest finite values, and their infinities and canonical NaNs (R35) where they have them. -/
def fmtRule : List (Fmt × Nat × Option Nat × Option Nat) :=
  [(binary64, 0x7FEF_FFFF_FFFF_FFFF, some 0x7FF0_0000_0000_0000, some 0x7FF8_0000_0000_0000),
   (binary32, 0x7F7F_FFFF, some 0x7F80_0000, some 0x7FC0_0000), (binary16, 0x7BFF, some 0x7C00, some 0x7E00),
   (bf16, 0x7F7F, some 0x7F80, some 0x7FC0), (e5m2, 0x7B, some 0x7C, some 0x7E), (e4m3, 0x7E, none, some 0x7F),
   (e3m2, 0x1F, none, none), (e2m3, 0x1F, none, none), (e2m1, 0x7, none, none)]

/-- 05 R97: the instructions that can call Flag, with destination registers, rounds, and value and flags of a lane. -/
def floatRule (t : FType) (r : RForm) (w : Wave) : List (Instr × Nat × Nat × (Nat → Nat × Fl)) :=
  let a := w.fv t r.a
  let b := w.fv t r.b
  let c := w.fv t r.c
  let lat (short long : Nat) := if t = .d then long else short
  [(.fadd t r, t.regs, lat 1 2, fun l => fAdd t r.rm r.sat (a l) (b l)),
   (.fsub t r, t.regs, lat 1 2, fun l => fSub t r.rm r.sat (a l) (b l)),
   (.fmul t r, t.regs, lat 1 2, fun l => fMul t r.rm r.sat (a l) (b l)),
   (.fma t r, t.regs, lat 1 2, fun l => fFma t r.rm r.sat (a l) (b l) (c l)),
   (.fdiv t r, t.regs, lat 3 6, fun l => fDiv t r.rm r.sat (a l) (b l)),
   (.fmin t r, t.regs, lat 1 2, fun l => fMinMax t false (a l) (b l)),
   (.fmax t r, t.regs, lat 1 2, fun l => fMinMax t true (a l) (b l)),
   (.fsqrt t r, t.regs, lat 3 6, fun l => fSqrt t r.rm (a l)),
   (.frcp t r, t.regs, lat 3 6, fun l => fRcp t r.rm r.sat (a l)),
   (.frsq t r, t.regs, lat 3 6, fun l => fRsq t r.rm (a l)),
   (.fexp t r, t.regs, lat 4 10, fun l => fExp t r.rm r.sat (a l)),
   (.fexp2 t r, t.regs, lat 4 10, fun l => fExp2 t r.rm r.sat (a l)),
   (.flog t r, t.regs, lat 4 10, fun l => fLog t false r.rm (a l)),
   (.flog2 t r, t.regs, lat 4 10, fun l => fLog t true r.rm (a l)),
   (.ferf t r, t.regs, lat 4 10, fun l => fErf t r.rm (a l)),
   (.ferfc t r, t.regs, lat 4 10, fun l => fErfc t r.rm (a l)),
   (.fint t r, t.regs, lat 1 2, fun l => fInt t r.rm (a l)),
   (.fscale t false r, t.regs, lat 1 2, fun l => fScale t false r.rm r.sat (a l) (w.rd r.b 1 l)),
   (.fscale t true r, t.regs, lat 1 2, fun l => fScale t true r.rm r.sat (a l) (w.rd r.b 1 l)),
   (.ffrexp t false r, t.regs, lat 1 2, fun l => fFrexp t false (a l)),
   (.ffrexp t true r, 1, lat 1 2, fun l => fFrexp t true (a l))]

/-- 05 R117 to R119: the packed instructions of an element code, with destination registers, and value and flags. -/
def packedRule (e : Elem) (j : Fin 4) (r : RForm) (w : Wave) : List (Instr × Nat × (Nat → Nat × Fl)) :=
  [(.dot4 e r, 1, fun l => dotVal e r.rm r.sat (w.rd r.a 1 l) (w.rd r.b 1 l) (w.rd r.c 1 l)),
   (.dot8 e r, 1, fun l => dotVal e r.rm r.sat (w.rd r.a 1 l) (w.rd r.b 1 l) (w.rd r.c 1 l)),
   (.pack e j r, 1, fun l => packVal e j.val r.rm r.sat (w.rd r.d 1 l) (w.rd r.a 1 l) (w.rd r.b 1 l)),
   (.unpack e j r, 2, fun l => unpackVal e j.val (w.rd r.a 1 l))]

/-- 05 R103: the conditions of FCMP from the exact values, when neither operand is a NaN. -/
def fcmpRule : List (FCond × (Int → Int → Prop)) :=
  [(.eq, fun a b => a = b), (.ne, fun a b => a ≠ b), (.lt, fun a b => a < b), (.le, fun a b => a ≤ b),
   (.gt, fun a b => a > b), (.ge, fun a b => a ≥ b), (.un, fun _ _ => False), (.ord, fun _ _ => True)]

/-! ## Wave, reduction and barrier instructions (08) -/

/-- 08 R165, R166, R168 and R169: instruction, destination registers, and the value of a lane. -/
def laneRule (s : State) (c : Cur) (w : Wave) (r : RForm) (act : W32) : List (Instr × Nat × (Nat → Nat)) :=
  let b := s.blk w
  let g := (s.grd b).l
  let gtid := fun l => (b.bl * g.waves + w.widx) * 32 + l
  [(.idrd .lane r, 1, fun l => l), (.idrd .wave r, 1, fun _ => w.widx),
   (.idrd .bx r, 1, fun _ => b.bl % g.gx), (.idrd .by r, 1, fun _ => b.bl / g.gx % g.gy),
   (.idrd .bz r, 1, fun _ => b.bl / (g.gx * g.gy)), (.idrd .gx r, 1, fun _ => g.gx), (.idrd .gy r, 1, fun _ => g.gy),
   (.idrd .gz r, 1, fun _ => g.gz), (.idrd .bl r, 1, fun _ => b.bl % 2 ^ 32), (.idrd .rank r, 1, fun _ => b.bl % g.team),
   (.idrd .gtid r, 2, gtid), (.idrd .nw r, 1, fun _ => g.waves), (.idrd .tsize r, 1, fun _ => g.team),
   (.idrd .blw r, 2, fun _ => b.bl)] ++
  ([(false, 1), (true, 2)].flatMap fun (x : Bool × Nat) =>
    let k := fun l => w.rd r.b 1 l
    [(.shfl .idx x.1 r, x.2, fun l => w.rd r.a x.2 (k l % 32)),
     (.shfl .up x.1 r, x.2, fun l => w.rd r.a x.2 (if k l ≤ l then l - k l else l)),
     (.shfl .down x.1 r, x.2, fun l => w.rd r.a x.2 (if l + k l < 32 then l + k l else l)),
     (.shfl .xor x.1 r, x.2, fun l => w.rd r.a x.2 (l ^^^ (k l % 32))),
     (.bcast .lane x.1 r, x.2, fun _ => w.rd r.a x.2 (w.rd r.b 1 0 % 32)),
     (.bcast .first x.1 r, x.2, fun _ => w.rd r.a x.2 (lowLane act)),
     (.bcast .last x.1 r, x.2, fun _ => w.rd r.a x.2 (highLane act))]) ++
  [(.actm false r, 1, fun _ => c.lanes.toNat), (.actm true r, 1, fun _ => w.running.toNat)]

/-- The reduction of a list of contributions by the canonical tree, or the identity of an empty scan. -/
def prefixOf (t : RType) (op : RedOp) (vs : List Nat) : Nat × Fl := (redTree t op vs).getD (redIdent t op, 0)

/-- The wave with its path waiting at a barrier. -/
def Wave.barWaiting (w : Wave) (c : Cur) (b tok : Nat) : Wave :=
  w.updTh c.lanes fun _ t => { t with wait := .bar b (BitVec.ofNat 32 tok) }

/-- THS flags of the Active threads (08 R176). -/
def Wave.flagsOf (w : Wave) (act : W32) : Nat := (lanesOf act).foldl (fun f l => f ||| ((w.th l).flags).toNat) 0

/-! ## Control transfers (06 R121 to R128) -/

/-- From `s` to `t` the threads of the path have left their block: each stands at the header that `to` gives it, at the
depth there, with its return stack; or it has ended. The store becomes `m`; every other thread stays where it was. -/
def State.Leaves (s t : State) (c : Cur) (w : Wave) (m : Mem) (stack : Nat → List W64) (dest : Nat → Succ) : Prop :=
  ∃ u, t = { s with mem := m, waves := modifyFirst (fun x => x.uid == c.uid) (fun _ => u) s.waves, blocks := t.blocks }
    ∧ t.blocks.map Block.core = s.blocks.map Block.core ∧ u.core = w.core ∧ u.pend = w.pend ∧ u.hold = w.hold
    ∧ ∀ l, l < 32 →
      if c.lanes.getLsbD l then
        match dest l with
        | some (a, d, _) => (u.th l).pc = a ∧ (u.th l).ex = none
            ∧ (u.th l).core = { (w.th l).core with depth := d, rstack := stack l, restart := (u.th l).restart }
        | none => (u.th l).core = { (w.th l).core with status := .ended, wait := .none }
      else (u.th l).pc = (w.th l).pc ∧ (u.th l).core = (w.th l).core

/-- A thread of the wave still runs after the path has left. -/
def Wave.goesOn (w : Wave) (c : Cur) (dest : Nat → Succ) : Prop :=
  ∃ l, l < 32 ∧ if c.lanes.getLsbD l then (dest l).isSome = true else (w.th l).status = .run

/-- The target of an I-format transfer: pc + 8 * imm (06 R121). -/
def target (c : Cur) (imm : W32) : W64 := c.pc + BitVec.ofInt 64 (8 * imm.toInt)

/-- The entries that calls at depth 8 and deeper spill (06 R125, R126). -/
def Wave.spills (w : Wave) (act : W32) (m : Mem) : Mem :=
  (lanesOf act).foldl (fun m l =>
    if 8 ≤ (w.th l).depth then
      m.writeLoc (w.spillLoc ((w.th l).depth - 7) l) (toBytes 8 ((w.th l).rstack.getLastD 0).toNat)
    else m) m

/-- The return stack after a call, and after a return (06 R125, R127). -/
def Wave.pushed (w : Wave) (c : Cur) (act : W32) (l : Nat) : List W64 :=
  if act.getLsbD l then c.next :: (if 8 ≤ (w.th l).depth then (w.th l).rstack.dropLast else (w.th l).rstack)
  else (w.th l).rstack
def State.popped (s : State) (w : Wave) (act : W32) (l : Nat) : List W64 :=
  if act.getLsbD l ∧ (w.th l).depth ≠ 0 then
    (w.th l).rstack.tail ++ (if 9 ≤ (w.th l).depth then
      [BitVec.ofNat 64 (s.readLoc (w.spillLoc ((w.th l).depth - 8) l) 8)] else [])
  else (w.th l).rstack

/-- A transfer by its Active lanes: the trap of its own description, the store after it, the return stacks, and where
each thread goes. -/
structure TransferRule where
  i : Instr
  own : W32 → Option Trap
  mem : W32 → Mem
  stack : W32 → Nat → List W64
  dest : W32 → Nat → Succ

/-- The headers and the spill slots that a transfer reads can all be read (12 R245, R259). -/
def State.Readable (s : State) (w : Wave) (x : TransferRule) : Prop :=
  s.lostTarget x.i (s.act x.i) (x.dest (s.act x.i)) = none ∧ s.spillsLost w (s.spillsOf x.i (s.act x.i)) = []

/-- The traps of a transfer's own description, and then that of its join target, do not apply. -/
def State.Passes (s : State) (x : TransferRule) : Prop :=
  (x.own (s.act x.i)).orElse (fun _ => s.divergeTrap (x.dest (s.act x.i))) = none

/-- 06 R123 to R128. -/
def transferRule (s : State) (c : Cur) (w : Wave) (imm : W32) (z : Bool) (a : Opnd) (r : RForm) : List TransferRule :=
  let d := fun l => (w.th l).depth
  let keep := fun (_ : W32) => s.mem
  let same := fun (_ : W32) l => (w.th l).rstack
  let here := fun l => some (c.next, d l, s.exec.fallCovered)
  let ind := fun l => BitVec.ofNat 64 (w.rd r.a 2 l)
  let taken := fun (act : W32) l => act.getLsbD l && (w.cond a l != z)
  let toInd := fun (act : W32) => if (lanesOf act).any fun l => (ind l).toNat % 8 != 0 then some (trapOf 0x10)
    else s.targetTrap act ind
  [⟨.bra imm, fun act => s.targetTrap act fun _ => target c imm, keep, same,
    fun _ l => some (target c imm, d l, s.exec.targetCovered)⟩,
   ⟨.brc z a imm, fun act => s.targetTrap (maskOf (taken act)) fun _ => target c imm, keep, same,
    fun act l => if taken act l then some (target c imm, d l, s.exec.targetCovered) else here l⟩,
   ⟨.jmpi r, toInd, keep, same, fun act l => if act.getLsbD l then some (ind l, d l, false) else here l⟩,
   ⟨.call imm, fun act => (s.targetTrap act fun _ => target c imm).orElse fun _ => callTrap s act,
    fun act => w.spills act s.mem, w.pushed c, fun _ l => some (target c imm, d l + 1, s.exec.targetCovered)⟩,
   ⟨.calli r, fun act => (toInd act).orElse fun _ => callTrap s act,
    fun act => w.spills act s.mem, w.pushed c,
    fun act l => if act.getLsbD l then some (ind l, d l + 1, false) else here l⟩,
   ⟨.ret r, fun act => s.targetTrap (maskOf fun l => act.getLsbD l && d l != 0) fun l => (w.th l).rstack.headD 0,
    keep, s.popped w,
    fun act l => if act.getLsbD l then
        (if d l = 0 then none else some ((w.th l).rstack.headD 0, d l - 1, s.exec.targetCovered))
      else here l⟩,
   ⟨.exit r, fun _ => none, keep, same, fun act l => if act.getLsbD l then none else here l⟩]

/-- The instructions of 03 R64, without the graph words. -/
def isWaveInstr (i : Instr) : Bool :=
  (predOf i).isSome || match i with
    | .movi .. | .movl .. | .bra _ | .brc .. | .call _ | .elb _ | .trap _ | .csrrd .. | .csrwr .. | .qrd .. => true
    | _ => false

/-! ## Accesses (06 R131 to R138, 13) -/

/-- The wave after an ordered RED has counted it in program order (13 R276). -/
def Wave.counted (w : Wave) (act : W32) : Wave := w.updTh act fun _ t => { t with seq := t.seq + 1 }

/-- What an access carries from its issue: instruction, wave, path, Active lanes, round, class, and for each lane the
location, whether it is withheld, and the data. -/
structure Access.IssuedBy (a : Access) (s : State) (i : Instr) (c : Cur) (w : Wave) (act : W32) (cls1 : Bool)
    (lanes : List (Nat × Loc × Bool × Nat)) : Prop where
  i : a.i = i
  uid : a.uid = c.uid
  path : a.path = c.lanes
  act : a.act = act
  round : a.round = s.round w
  cls1 : a.cls1 = cls1
  waits : a.effected = false ∧ a.abandoned = false
  lanes : a.lanes.map (fun x => (x.lane, x.loc, x.withheld, x.data)) = lanes
  fresh : ∀ x ∈ a.lanes, x.done = false

/-- The wave with its path waiting on a semaphore. -/
def Wave.semWaiting (w : Wave) (c : Cur) (s : State) (k : Nat) (th : W32) (d : Option (Fin 64)) : Wave :=
  w.updTh c.lanes fun _ t => { t with wait := .sem k th d (s.cycle w.cl) }

/-! ## Leaving the handler (19 R367, R368) -/

/-- From `s` to `t` wave `w` becomes `u`, its registers, latch and marks as they were but for the handler's own; the
completion flags may be set, and nothing else of the device changes. -/
def State.Returns (s t : State) (c : Cur) (w u : Wave) : Prop :=
  t = { s with waves := modifyFirst (fun x => x.uid == c.uid) (fun _ => u) s.waves, blocks := t.blocks }
    ∧ t.blocks.map Block.core = s.blocks.map Block.core ∧ u.pend = w.pend ∧ u.hold = w.hold
    ∧ { u.core with handler := w.handler, savedJoins := w.savedJoins } = w.core

/-! ## The marshal's graph words (18) -/

/-- What the partition bounds of a node's fields (18 R337): the table's entries, and its clusters. -/
def State.nodeBounds (s : State) (i : Instr) : Bool :=
  let q := s.part s.curPart.val
  match i with
  | .gcoll _ first cntm1 _ _ _ => decide (first.toNat + cntm1.toNat + 1 ≤ q.ttsize)
  | .gwaitsem _ _ cl _ => decide (cl.toNat < q.clusters.length)
  | _ => true

/-- A graph word of the current partition passes the tests before its act: the boundary it is finds no node outstanding,
its fields are those of its form, and its guard reads as `b`. -/
structure State.GraphReady (s : State) (i : Instr) (g : Guard) (boundary b : Bool) : Prop where
  clear : boundary = true → s.outstanding s.curPart.val = false
  fields : i.fieldsOk = true
  bounds : s.nodeBounds i = true
  guard : s.guard s.curPart.val g = some b

/-- The partition after a node has issued: the GC tick of the issue, and the phase that a boundary opens (18 R335, R342),
with a change of its own. -/
def State.passed (s : State) (boundary : Bool) (f : Part → Part) : State :=
  s.updPart s.curPart.val fun q =>
    f { q with
      lastIssue := some s.gc, phase := if boundary then q.phase + 1 else q.phase
      deadline := if boundary then none else q.deadline }

/-- 07 R154: the fields of a launch record in the 128 bytes of main memory at an address, byte 0 the least significant. -/
def launchRule (m : Mem) (a : Nat) (l : Launch) : Prop :=
  ∃ x, x = ((List.range 128).map fun k => ((m.readPa (a + k) 1).headD 0).toNat * 256 ^ k).sum ∧
    ∀ v lo n, (v, lo, n) ∈ [(l.code.toNat, 0, 64), (l.startgc.toNat, 64, 64), (l.param.toNat, 128, 64), (l.handler.toNat, 192, 64),
        (l.bbudget.toNat, 256, 64), (l.gbudget.toNat, 320, 64), (l.gx, 384, 16), (l.gy, 400, 16), (l.gz, 416, 16), (l.spill, 432, 16),
        (l.entry, 448, 32), (l.waves, 480, 6), (l.regs, 486, 9), (l.barriers, 495, 6), (l.tiles, 501, 5), (l.pace, 506, 3),
        (l.team - 1, 509, 3), (l.spad, 512, 32), (l.cpad, 544, 32), (l.dpad, 576, 32), (l.winset, 608, 12), (l.asid, 620, 13),
        (l.part, 633, 3), (bit l.ordered, 636, 1), (l.nparam, 640, 7)] →
      v = x / 2 ^ lo % 2 ^ n

/-- The address `n` words on. -/
def wordsOn (a : W64) (n : Int) : W64 := a + BitVec.ofInt 64 (8 * n)

/-! ## The step of a slot (07 R139 to R144) -/

/-- The paths of a wave with what each would do in its slot, and those that issue. -/
def State.chosen (s : State) (wv : Nat) (w : Wave) : List Ranked :=
  issuing w (sortRank ((s.ranked wv w).filter fun p => p.front.eligible))

/-- The state in which a slot's paths issue: the other paths noted, the slot marked as used in this round. -/
def State.atVisit (s : State) (wv : Nat) (w : Wave) : State :=
  (((s.ranked wv w).filter fun p => !(s.chosen wv w).contains p).foldl (fun s p => s.note w p) s).updWave w.uid
    fun w => { w with due := s.round w + 1 }

/-- The same with one path current. -/
def State.atIssue (s : State) (wv : Nat) (w : Wave) (lanes : W32) : State := (s.atVisit wv w).onPath w lanes

/-- A path stands at an instruction of its block. -/
def Wave.At (w : Wave) (lanes : W32) (i : Instr) : Prop :=
  ∃ e, (w.lead lanes).ex = some e
    ∧ decodeWave (e.wordsAt (w.lead lanes).pc).1.toNat (e.wordsAt (w.lead lanes).pc).2.toNat = .ok i

/-- 07 R143: what ranks one eligible path before another: first the aged ones by age, then more threads, then the lower
lowest lane. -/
def Ranked.First (a b : Ranked) : Prop :=
  (8 ≤ a.aged ∧ (b.aged < 8 ∨ b.aged < a.aged)) ∨
  ((a.aged = b.aged ∨ (a.aged < 8 ∧ b.aged < 8)) ∧
    (countLanes b.lanes < countLanes a.lanes ∨ (countLanes a.lanes = countLanes b.lanes ∧ lowLane a.lanes < lowLane b.lanes)))

/-! ## What holds an instruction back (01 R24, R25, 13 R267) -/

/-- A register awaited in some lanes is among those that a result fills in some lanes: a v-register or THS where they share a
lane, a wave-level register whatever the lanes. -/
def Awaited (rs : List Reg) (lanes : W32) (fs : List Reg) (filled : W32) : Prop :=
  ∃ r ∈ rs, r ∈ fs ∧ ((∃ n, r = .v n) ∨ r = .ths → lanes &&& filled ≠ 0)

/-- An instruction of a path meets registers that something fills: those it names in its lanes, and those it reads across
lanes in any. -/
def Wave.Meets (w : Wave) (i : Instr) (lanes : W32) (fs : List Reg) (filled : W32) : Prop :=
  Awaited (w.awaits i) lanes fs filled ∨ Awaited (w.crossed i) allLanes fs filled

/-- An access of a path's threads that a release over some spaces waits for: a store, an atomic or a DSCD, or a load that has
not read yet. -/
def Access.Released (a : Access) (w : Wave) (lanes : W32) (mask : Nat) : Prop :=
  a.uid = w.uid ∧ a.path &&& lanes ≠ 0 ∧ (∃ sp ∈ a.spaces, mask.testBit (spaceBit sp) = true) ∧
    (a.stores = true ∨ isDscd a.i = true ∨ (a.loads = true ∧ (a.cls1 = true ∨ a.effected = false)))

/-! ## Results and rounds (01 R19 to R23, 02 R40) -/

/-- The flags that a list gives a lane. -/
def flagsIn (fl : List (Nat × Fl)) (l : Nat) : Fl := (fl.filter fun e => e.1 == l).foldl (fun f e => f ||| e.2) 0

/-- The flags with which a result arrives: its own, or those of the tile that TFLG .mrg names. -/
def State.flagsOf (s : State) (w : Wave) (p : Pend) : List (Nat × Fl) :=
  match p.mrg with
  | some k => (lanesOf p.lanes).map fun l => (l, (s.tileAt ((s.blk w).tile k)).fl.setWidth 5)
  | none => p.fl

/-- Wave `wv` of the list is `w`, and its number finds it. -/
structure State.HasWave (s : State) (wv : Nat) (w : Wave) : Prop where
  at' : s.waves[wv]? = some w
  named : s.waveOf w.uid = some w

/-! ## Bytes that an access reaches (06 R135, 12 R236, R239) -/

/-- Keys of the `n` bytes at a location; of an encrypted window the 16-byte blocks that hold them, which a store rewrites
whole (11 R223). -/
def Mem.keysOf (m : Mem) (l : Loc) (n : Nat) : List Nat :=
  match l with
  | .pad k => (List.range n).map fun j => k + j
  | .main pa none => ((List.range n).filter fun j => decide (pa + j < m.cap)).map fun j => m.key (pa + j)
  | .main pa (some _) => (List.range n).flatMap fun j =>
    let b := (pa + j) / 16 * 16
    if b < m.cap then (List.range 16).map fun o => m.key b + o else []

/-- A lane of an access that still has its effect before it. -/
def LaneAcc.live (x : LaneAcc) : Bool := !x.withheld && !x.done

/-- Two lanes whose bytes lie apart in the pads. -/
def LaneAcc.apart (n : Nat) (x y : LaneAcc) : Prop :=
  ∃ j k, x.loc = .pad j ∧ y.loc = .pad k ∧ (j + n ≤ k ∨ k + n ≤ j)

/-- The access as a load leaves it: each lane with what stood at its location. -/
def Access.loaded (a : Access) (s : State) : Access :=
  { a with lanes := a.lanes.map fun x =>
      if x.live then { x with got := s.readLoc x.loc a.size, done := true } else { x with done := true } }

/-- A class-0 access whose round has come, with nothing before it. -/
structure State.Acts (s : State) (i : Nat) (a : Access) (k : AccKind) : Prop where
  at' : s.accs[i]? = some a
  kind : accKind a.i = some k
  waits : a.cls1 = false ∧ a.effected = false ∧ a.abandoned = false
  due : s.accDue a = true
  clear : s.clear a = true
  moves : (s.cluster a.cl).frozen = false
  peer : s.behindPeer a.cl a.keys = none

/-! ## Tiles and cards at work (09, 17) -/

/-- Number of the cluster's twin that is not `b`. -/
def Cluster.other (c : Cluster) (b : Bool) : Twin := c.twin (!b)

/-- Card `i` of the list is `c`, its wave and handle find it, and its next step is due with no stalled peer before it. -/
structure State.CardDue (s : State) (i : Nat) (c : Card) (st : CardStep) : Prop where
  at' : s.cards[i]? = some c
  named : s.cards.find? (fun e => e.uid == c.uid && e.handle == c.handle) = some c
  due : s.dueStep c = some st
  peer : s.behindPeer c.cl (s.cardKeys c st) = none

/-- A card has ended with a code: the code stands in it until the next cycle of its cluster, its status record is written
when it has one, and no other byte changes. -/
def State.CardEnded (s t : State) (c : Card) (code faddr : Nat) : Prop :=
  let key := cpadKey c.cl (((s.blockOf c.bid).getD default).cbase + c.statoff)
  t.cards.find? (fun e => e.uid == c.uid && e.handle == c.handle)
      = some { c with code := some (code, s.nextCycle c.cl), pipe := [] }
  ∧ (if c.hasStat then t.mem.read key 16 = toBytes 16 (c.status code faddr)
        ∧ ∀ k, (k < key ∨ key + 16 ≤ k) → t.mem.byte k = s.mem.byte k
      else t.mem.bytes = s.mem.bytes)

/-! ## Main memory (11, 12) -/

/-- A request that awaits its dispatch. -/
def State.Undispatched (s : State) (r : Req) : Prop :=
  (r.tag = none ∨ s.mem.stale r = true) ∧ r.read = false ∧ s.unheld r = true

/-- No card has the chunk that a request, or its walk, serves. -/
def State.NoCard (s : State) (r : Req) : Prop := ∀ c ∈ s.cards, ∀ p ∈ c.pipe, p.id ≠ r.user

/-- The requests but for those of page walks. -/
def Mem.dataReqs (m : Mem) : List Req := m.reqs.filter fun q => q.walk.isNone

/-- The grid of a request, running before, has ended with a fault of a code, and it is reported. -/
def State.Faults (s t : State) (gid code : Nat) : Prop :=
  (∀ g, s.gridOf gid = some g → g.phase = .run → ∃ h, t.gridOf gid = some h ∧ h.phase = .faulted code)
  ∧ ((∃ g, s.gridOf gid = some g ∧ g.phase = .run) → ∃ e, (s.now, e) ∈ t.arb.inbox ∧ e.code = code)
  ∧ ∀ w ∈ t.waves, ∀ b, s.blockOf w.bid = some b → (∃ g, s.gridOf gid = some g ∧ g.phase = .run) → b.gid ≠ gid

/-! ## The marshal's own steps (07 R156 to R161, 18) -/

/-- The partition after it has taken a queue entry (18 R333). -/
def Part.took (q : Part) (x : Nat) : Part :=
  { q with
    qhead := q.qhead + 1, gpc := BitVec.ofNat 64 (x % 2 ^ 64), mstate := .running, mcode := 0, loops := [], search := 0
    tag := BitVec.ofNat 32 (x / 2 ^ 96), phase := q.phase + 1, first := q.phase + 1, deadline := none }

/-- An event of a code waits for the arbiter. -/
def State.Reported (s t : State) (code : Nat) : Prop := ∃ e, (s.now, e) ∈ t.arb.inbox ∧ e.code = code

/-! ## Host commands (23 R453) -/

/-- A device that has booted, with no command in progress and no failover that waits. -/
structure State.Idle (s : State) : Prop where
  booted : s.booted = true
  idle : s.host.busy = none
  still : s.host.moveAt = none

/-- The same, and a port owns command. -/
structure State.Owned (s : State) (p : Bool) : Prop extends s.Idle where
  owner : s.host.owner = p

/-- A state in which a command of a port has just started: busy until the next GC tick, which writes its status and result
(`CommandEnds`). -/
def State.replied (s : State) (p : Bool) (op status res : Nat) : State :=
  { s with host := { s.host with
      busy := some (s.now + Config.gcTick, p), overrun := false, op := op, reply := (status, BitVec.ofNat 64 res) } }

/-- The mailbox commands with their opcodes, slot parameter and WIDTHUP's cause. -/
def mailboxCommands (p : Bool) (slot : BitVec 8) (clear : Bool) : List (Instr × Nat × Nat) :=
  [(.partdef p, 0x0001, 0), (.asidset p, 0x0002, 0), (.mapfence p, 0x0003, 0), (.terminate p, 0x0004, 0),
   (.semassign p, 0x0005, 0), (.retire p, 0x0006, 0), (.preempt p, 0x0007, 0), (.resume p, 0x0008, 0),
   (.mresume p, 0x0009, 0), (.gsigack p, 0x000A, 0), (.mkeyload p slot, 0x000B, slot.toNat),
   (.mkeyunload p slot, 0x000C, slot.toNat), (.jkeyload p slot, 0x000D, slot.toNat), (.jkeyunload p slot, 0x000E, slot.toNat),
   (.attest p, 0x000F, 0), (.revoke p, 0x0010, 0), (.schedload p, 0x0011, 0), (.tmplload p, 0x0012, 0),
   (.widthup p clear, 0x0013, 0), (.mxreset p, 0x0014, 0), (.rackcap none p, 0x0015, 0)]

/-- Writes of a port that only the owner may make, but for the commands. -/
def ownerWrites (p : Bool) (part : Fin 8) (v : W32) (x : W64) (r : BitVec 192) (pc i off n : Nat) (b : Byte)
    (data : List Byte) (bound : Bool) : List Instr :=
  [.qtailWrite p part v, .vftgtWrite p v, .passhostWrite p x, .ovrceilWrite p x, .ratioWrite p r, .slotTableWrite p pc i b] ++
    (if off = 0x0018 then [] else [.registerWrite p off x]) ++
    (if off + n ≤ 2 ^ 32 then [.bar2Access p true bound off n data] else [])

/-- What PASSHOST, OVRCEIL and the override's coding make of an old value: 0, 1 and 2 stand for 1, 2 and 4; 3 keeps it. -/
def fieldOf (old v c : Nat) : Nat := match v / 4 ^ c % 4 with | 0 => 1 | 1 => 2 | 2 => 4 | _ => old

/-- Attribute of a slot-table entry: 1 owned, 2 gutter, 3 migration. -/
def slotKind (b : Byte) : Nat := b.toNat / 64

/-- A port may start a command: it owns command, none is in progress, and no locked partition keeps it for its session. -/
structure State.Commands (s : State) (p : Bool) (op slot : Nat) : Prop extends s.Owned p where
  open' : s.lockedOut op slot s.host.arg = false

/-- Argument doubleword `k` as it stands. -/
def State.arg (s : State) (k : Nat) : Nat := argOf s.host.arg k

/-- The bits of a mask below a bound. -/
def maskBits (n m : Nat) : List Nat := (List.range n).filter fun k => m.testBit k

/-- The flits of a message to a unit in the clear, numbered on from the port's last (21 R426). -/
def State.flitsOf (s : State) (n unit : Nat) (m : List Byte) : List (BitVec 512) :=
  fragments unit s.unitOf (s.port n).msgNo m

/-- The port after a message has joined its queue. -/
def Port.queued (q : Port) (fs : List (BitVec 512)) : Port :=
  { q with queue := q.queue ++ fs, msgNo := (q.msgNo + 1) % 256 }

/-- GET_VERSION of SPDM. -/
def getVersion : List Byte := natBytes [0x10, 0x84, 0, 0]

/-- A session that a first ATTEST of a port opens, with its first request outstanding. -/
def State.newSession (s : State) : Session :=
  { unit := s.arg 1, step := some 1, live := false, policy := s.arg 2, jslot := s.arg 3, digest := 0, chain := []
    sent := getVersion, vca := [], kex := [], mutualAuth := false, hs := 0, rsp := 0, outKey := (0, 0), inKey := (0, 0)
    tx := 0, rx := 0, last := s.flitsOf (s.arg 0) (s.arg 1) getVersion, sentAt := s.fabric.folio, resent := false
    missed := 0, awaiting := false, beat := 0, keys := [] }

/-! ## The control channel (21 R426 to R432) -/

/-- A gutter's flits complete one message of a port's session and leave none under way; `m` is the message, as a live
session opens its record. -/
structure State.Hears (s : State) (n : Nat) (x : Session) (r : AttestResp) (m : List Byte) : Prop where
  session : (s.port n).session = some x
  fresh : (s.port n).inMsg = none
  whole : ∃ c, s.received n r.flits = (none, [c]) ∧ (x.live = false → m = c)
    ∧ (x.live = true → (x.openMsg n (bytesNat c)).map natBytes = some m)

/-- The session after a message has been heard: a live one has opened one more record. -/
def Session.heard (x : Session) : Session := if x.live then { x with rx := x.rx + 1 } else x

/-- What the table of 21 R429 requires of the response to a step, with 0x0D's policy at steps 4 and 7. -/
def State.stepPasses (s : State) (x : Session) (r : AttestResp) (m : List Byte) : Nat → Prop
  | 1 => versionOk m = true
  | 2 => capabilitiesOk m = true
  | 3 => algorithmsOk m = true
  | 4 => ∃ p, s.policyOf x.policy = some p ∧ msgAt m 1 1 = 0x02 ∧ msgAt m 6 2 = 0 ∧ r.valid = true
      ∧ rootOk (x.chain ++ (m.drop 8).take (msgAt m 4 2)) p.1 = true ∧ r.unit.toNat = x.unit
  | 5 => r.valid = true ∧ msgAt m 1 1 = 0x64
  | 6 => msgAt m 1 1 = 0x65
      ∧ bytesNat ((m.drop 4).take 48) = x.verify "rsp" (s.ownChain x ++ bytesNat x.sent ++ bytesNat (m.take 4))
  | 7 => r.valid = true ∧ msgAt m 1 1 = 0x60 ∧ ∃ p, s.policyOf x.policy = some p ∧
      ∀ e ∈ p.2, ∃ i d, (measBlocks m).find? (fun b => b.1 == e.1) = some (i, some d) ∧ (e.1, d.toNat) ∈ p.2
  | _ => msgAt m 1 1 = 0x7E ∧ vendorStatus m = 0

/-- Step 4 goes on: the digests, or a certificate chain that is not yet whole. -/
def State.stepGoesOn (s : State) (x : Session) (k : Nat) (m : List Byte) : Prop :=
  k = 4 ∧ s.policyOf x.policy ≠ none ∧ (msgAt m 1 1 = 0x01 ∨ (msgAt m 1 1 = 0x02 ∧ msgAt m 6 2 ≠ 0))

/-- The flits of a message of a session to its switch: sealed while the session is live. -/
def State.sessionFlits (s : State) (n : Nat) (x : Session) (m : List Nat) : List (BitVec 512) :=
  s.flitsOf n x.unit (natBytes (if x.live then x.sealMsg n m else m))

/-- Loads, stores, gathers, scatters and atomics with what their checks ask for (06 R131 to R136, 13 R263, R268 to R273). -/
def accessRule (sx a64 rp : Bool) (op : AtomOp) (m : MForm) : List (Instr × AccKind) :=
  [(.ld sx a64 m, ⟨m, .read, false, wide a64, false, false⟩), (.st a64 m, ⟨m, .write, false, wide a64, false, false⟩),
   (.lds sx a64 m, ⟨m, .read, true, wide a64, false, false⟩), (.sts a64 m, ⟨m, .write, true, wide a64, false, false⟩),
   (.gath sx rp m, ⟨m, .read, false, addrRegs m, rp, false⟩), (.scat rp m, ⟨m, .write, false, addrRegs m, rp, false⟩),
   (.atom op m, ⟨m, .both, false, addrRegs m, false, true⟩), (.cas m, ⟨m, .both, false, addrRegs m, false, true⟩),
   (.red op m, ⟨m, .both, false, addrRegs m, false, true⟩), (.redx op m, ⟨m, .both, false, addrRegs m, false, true⟩)]

end Sys2Proof.Machine

namespace Sys2Proof

/-! ## Words (03, 18) -/

/-- The words of an instruction as they lie in memory (00 R3, 03 R49). -/
def Instr.bytes (i : Instr) : List Byte := (encode i).flatMap (bytesOfWord 8)

/-- An instruction of a wave's stream or a graph word (03 R64). -/
def Instr.isWord (i : Instr) : Bool := Machine.isWaveInstr i || i.isGraph

end Sys2Proof
end

