-- ==== Sys2Proof/Certificates/Slice0/Obligations.lean ====
section
/-! DEFINITION. The statements about the model. -/

open Sys2Proof Sys2Proof.Machine

/-! ## Integer instructions (04) -/

/-- 04 R84 with R81: the arithmetic instructions issue, put the result of their exact value in flight for the round that
R81 names, and leave every register, every byte of memory and every other wave as it was. -/
def Obligations.IntegerArithmetic : Prop :=
  ∀ (s : State) (c : Cur) (w : Wave) (t : IType) (r : RForm) (i : Instr) (lat : Nat) (f : Int → Int → Int → Int),
    (i, lat, f) ∈ arithRule t r ++ divRule t r → s.Issues i c w →
    ∃ n val, exec i s = .next n
      ∧ s.Yields n c w (s.resultAt c w (s.act i) lat (w.regsAt r.d t.regs) (w.dst r.d t.regs (s.act i) val)) w.hold
      ∧ ∀ l, l < 32 → IntWrites t r.sat (f (w.iv t r.a l) (w.iv t r.b l) (w.iv t r.c l)) (val l)

/-- 04 R86 to R89: every bit of the result of the logic, shift, bit-field and reversal instructions. -/
def Obligations.IntegerBits : Prop :=
  ∀ (s : State) (c : Cur) (w : Wave) (t : IType) (r : RForm) (i : Instr)
    (f : (Nat → Bool) → (Nat → Bool) → Nat → Nat → Nat → Bool),
    (i, f) ∈ bitRule t r → s.Issues i c w →
    ∃ n val, exec i s = .next n
      ∧ s.Yields n c w (s.resultAt c w (s.act i) 1 (w.regsAt r.d t.regs) (w.dst r.d t.regs (s.act i) val)) w.hold
      ∧ ∀ l, l < 32 →
        IntHasBits t (f (w.rd r.a t.regs l).testBit (w.rd r.b t.regs l).testBit (w.rd r.b 1 l) (w.rd r.c 1 l)) (val l)

/-- 04 R87 (SHL) and R95 (LEA): the exact product and sum under the write rule. -/
def Sys2Proof.Claims.IntegerScaled : Prop :=
  ∀ (s : State) (c : Cur) (w : Wave) (t : IType) (r : RForm) (i : Instr) (sat : Bool) (f : Nat → Int),
    (i, sat, f) ∈ scaleRule t r w → s.Issues i c w →
    ∃ n val, exec i s = .next n
      ∧ s.Yields n c w (s.resultAt c w (s.act i) 1 (w.regsAt r.d t.regs) (w.dst r.d t.regs (s.act i) val)) w.hold
      ∧ ∀ l, l < 32 → IntWrites t sat (f l) (val l)

/-- 04 R89: POPC, CLZ and CTZ write one register with a count of the bits of A. -/
def Sys2Proof.Claims.IntegerCounts : Prop :=
  ∀ (s : State) (c : Cur) (w : Wave) (t : IType) (r : RForm) (i : Instr) (f : (Nat → Bool) → Nat → Prop),
    (i, f) ∈ countRule t r → s.Issues i c w →
    ∃ n val, exec i s = .next n
      ∧ s.Yields n c w (s.resultAt c w (s.act i) 1 (w.regsAt r.d 1) (w.dst r.d 1 (s.act i) val)) w.hold
      ∧ ∀ l, l < 32 → f (w.rd r.a t.regs l).testBit (val l)

/-- 04 R90: ICMP writes one truth value a lane. -/
def Sys2Proof.Claims.IntegerCompare : Prop :=
  ∀ (s : State) (c : Cur) (w : Wave) (t : IType) (r : RForm) (cc : ICond) (f : Int → Int → Prop),
    (cc, f) ∈ icmpRule → s.Issues (.icmp cc t r) c w →
    ∃ n val, exec (.icmp cc t r) s = .next n
      ∧ s.Yields n c w (s.resultAt c w (s.act (.icmp cc t r)) 1 (w.regsAt r.d 1)
          (w.dstBool r.d (s.act (.icmp cc t r)) val)) w.hold
      ∧ ∀ l, l < 32 → (val l = true ↔ f (w.iv t r.a l) (w.iv t r.b l))

/-- 04 R91 and R92: SEL takes A or B by the selector of its lane; MOV takes A. That a mask selector with a scalar destination
means the bit of the lowest Active lane is the model's reading (log 71): R91 does not say whose bit. -/
def Sys2Proof.Claims.SelectAndMove : Prop :=
  ∀ (s : State) (c : Cur) (w : Wave) (t : IType) (r : RForm) (i : Instr) (o : Nat → Opnd),
    (i, o) ∈ [(Instr.sel t r, fun l => if w.cond r.c l then r.a else r.b), (.mov t r, fun _ => r.a)] →
    s.Issues i c w →
    ∃ n val, exec i s = .next n
      ∧ s.Yields n c w (s.resultAt c w (s.act i) 1 (w.regsAt r.d t.regs) (w.dst r.d t.regs (s.act i) val)) w.hold
      ∧ ∀ l, l < 32 → IntHasBits t (w.rd (o l) t.regs l).testBit (val l)

/-- 04 R87 (SHL), R89 to R92, R95: the other integer instructions. -/
def Obligations.IntegerOther : Prop :=
  Sys2Proof.Claims.IntegerScaled ∧
  Sys2Proof.Claims.IntegerCounts ∧
  Sys2Proof.Claims.IntegerCompare ∧
  Sys2Proof.Claims.SelectAndMove

/-- 04 R93 and R94: MOVI and MOVL write their literal to every Active lane; MOVI .d widens a binary32 exactly. -/
def Obligations.Literals : Prop :=
  (∀ (s : State) (c : Cur) (w : Wave) (k : MoviKind) (d : Opnd) (imm : W32), s.Issues (.movi k d imm) c w →
    ∃ n v, exec (.movi k d imm) s = .next n
      ∧ s.Yields n c w (s.resultAt c w c.lanes 1 (w.regsAt d (moviRegs k)) (w.dst d (moviRegs k) c.lanes fun _ => v)) w.hold
      ∧ match k with
        | .i32 | .ui32 | .f | .ui64 => v = imm.toNat
        | .i64 => (BitVec.ofNat 64 v).toInt = imm.toInt ∧ v < 2 ^ 64
        | .d => match binary32.read imm.toNat with
          | .nan _ => v = 0x7FF8000000000000
          | .inf g => binary64.read v = .inf g ∧ v < 2 ^ 64
          | .fin g m e => ∃ m' e', binary64.read v = .fin g m' e' ∧ v < 2 ^ 64
              ∧ ∀ q : Int, q ≤ e → q ≤ e' → scaled g m' e' q = scaled g m e q) ∧
  ∀ (s : State) (c : Cur) (w : Wave) (k : MovlKind) (d : Opnd) (lit : W64), s.Issues (.movl k d lit) c w →
    ∃ n, exec (.movl k d lit) s = .next n
      ∧ s.Yields n c w (s.resultAt c w c.lanes 1 (w.regsAt d 2) (w.dst d 2 c.lanes fun _ => lit.toNat)) w.hold

/-! ## Floating-point and packed instructions (05) -/

/-- 05 R97, R98, R100, with 01 R26: every instruction that can call Flag issues, puts its value and flags in flight, and
holds the wave while an Active lane has an enable. -/
def Obligations.FloatResults : Prop :=
  ∀ (s : State) (c : Cur) (w : Wave) (t : FType) (r : RForm) (i : Instr) (dk lat : Nat) (f : Nat → Nat × Fl),
    (i, dk, lat, f) ∈ floatRule t r w → s.Issues i c w →
    ∃ n, exec i s = .next n
      ∧ s.Yields n c w (s.flResultAt c w (s.act i) lat (w.regsAt r.d dk) (w.dst r.d dk (s.act i) fun l => (f l).1)
          fun l => (f l).2) (s.flHold w (s.act i) lat)

/-- 02 R37 to R39, 05 R101: a finite value converted to a format, and a finite quotient, are the value that the rounding
attribute picks among all that the format has. Saturate 1 and the underflow flag are left to `FloatCases`. -/
def Obligations.FloatRounds : Prop :=
  ∀ (f : Fmt) (rm : Rm) (neg : Bool) (m : Nat) (e : Int), f ∈ [binary64, binary32, binary16, bf16] → m ≠ 0 →
    f.Rounded rm neg m 1 e (f.of rm false (.fin neg m e)) ∧
    ∀ (neg' : Bool) (d : Nat) (e' : Int), d ≠ 0 →
      f.Rounded rm (neg != neg') m d (e - e') (f.div rm false (.fin neg m e) (.fin neg' d e'))

/-- 05 R101, 02 R38: FADD, FSUB, FMUL and FMA of finite operands convert the one exact result, and an exact zero has the
sign that R38 gives it. -/
def Obligations.FloatExact : Prop :=
  ∀ (t : FType) (rm : Rm) (sat : Bool) (a b c : Nat) (an bn cn : Bool) (am bm cm : Nat) (ae be ce : Int),
    (ftype t).read a = .fin an am ae → (ftype t).read b = .fin bn bm be → (ftype t).read c = .fin cn cm ce →
    (∃ n m e, fAdd t rm sat a b = (ftype t).of rm sat (.fin n m e)
      ∧ (m = 0 → n = if an = bn then an else rm == .rdn)
      ∧ ∀ q, q ≤ ae → q ≤ be → q ≤ e → scaled n m e q = scaled an am ae q + scaled bn bm be q) ∧
    (∃ n m e, fSub t rm sat a b = (ftype t).of rm sat (.fin n m e)
      ∧ (m = 0 → n = if an = !bn then an else rm == .rdn)
      ∧ ∀ q, q ≤ ae → q ≤ be → q ≤ e → scaled n m e q = scaled an am ae q - scaled bn bm be q) ∧
    fMul t rm sat a b = (ftype t).of rm sat (.fin (an != bn) (am * bm) (ae + be)) ∧
    ∃ n m e, fFma t rm sat a b c = (ftype t).of rm sat (.fin n m e)
      ∧ (m = 0 → n = if (an != bn) = cn then cn else rm == .rdn)
      ∧ ∀ q, q ≤ ae + be → q ≤ ce → q ≤ e →
        scaled n m e q = scaled (an != bn) (am * bm) (ae + be) q + scaled cn cm ce q

/-- 05 R101, 02 R35, R40: a NaN operand gives the canonical NaN, with invalid when one signals; opposite infinities, 0 × ∞,
0 / 0 and ∞ / ∞ are invalid; a quotient by zero of a finite value other than zero is an infinity with divzero. -/
def Sys2Proof.Claims.FloatSpecials : Prop :=
  ∀ (t : FType) (rm : Rm) (sat : Bool) (a b : Nat),
    let f := ftype t
    let x := f.read a
    let y := f.read b
    let snan : Fl := if x = .nan true ∨ y = .nan true then fInvalid else 0
    ((x = .nan true ∨ x = .nan false ∨ y = .nan true ∨ y = .nan false) →
      fAdd t rm sat a b = (f.nan, snan) ∧ fSub t rm sat a b = (f.nan, snan) ∧ fMul t rm sat a b = (f.nan, snan)
        ∧ fDiv t rm sat a b = (f.nan, snan)) ∧
    (∀ n, x = .inf n → y = .inf !n → fAdd t rm sat a b = (f.nan, fInvalid)) ∧
    (∀ n, x = .inf n → y = .inf n → fSub t rm sat a b = (f.nan, fInvalid)) ∧
    (∀ n k e, x = .inf n → y = .fin k 0 e → fMul t rm sat a b = (f.nan, fInvalid) ∧ fMul t rm sat b a = (f.nan, fInvalid)
      ∧ fDiv t rm sat a b = (f.inf + (if n = k then 0 else f.sign), 0)) ∧
    (∀ n k, x = .inf n → y = .inf k → fDiv t rm sat a b = (f.nan, fInvalid)) ∧
    (∀ n k e e', x = .fin n 0 e → y = .fin k 0 e' → fDiv t rm sat a b = (f.nan, fInvalid)) ∧
    ∀ n m k e e', x = .fin n m e → m ≠ 0 → y = .fin k 0 e' →
      fDiv t rm sat a b = (f.inf + (if n = k then 0 else f.sign), fDivzero)

/-- 05 R102 and R103: comparison is by exact value; a minimum or maximum is an operand's bits, -0 below +0. -/
def Sys2Proof.Claims.FloatOrder : Prop :=
  ∀ (t : FType) (a b : Nat) (an bn : Bool) (am bm : Nat) (ae be q : Int),
    a < 2 ^ (ftype t).bits → b < 2 ^ (ftype t).bits →
    (ftype t).read a = .fin an am ae → (ftype t).read b = .fin bn bm be → q ≤ ae → q ≤ be →
    (∀ cc f, (cc, f) ∈ fcmpRule →
      ((fCmp t cc a b).1 = true ↔ f (scaled an am ae q) (scaled bn bm be q)) ∧ (fCmp t cc a b).2 = 0) ∧
    (scaled an am ae q < scaled bn bm be q → fMinMax t false a b = (a, 0) ∧ fMinMax t true a b = (b, 0)
      ∧ fMinMax t false b a = (a, 0) ∧ fMinMax t true b a = (b, 0)) ∧
    (am = 0 → bm = 0 → an = true → bn = false → fMinMax t false a b = (a, 0) ∧ fMinMax t true a b = (b, 0)
      ∧ fMinMax t false b a = (a, 0) ∧ fMinMax t true b a = (b, 0))

/-- 02 R37 to R39, 00 R8: the conversion of a value to any of the formats at either setting of saturate: the value that the
attribute picks; what an overflow, an infinity and a NaN become; and underflow, for a result that is inexact and tiny after
rounding. -/
def Sys2Proof.Claims.RoundingCases : Prop :=
  ∀ (f : Fmt) (top : Nat) (inf nan : Option Nat), (f, top, inf, nan) ∈ fmtRule → ∀ (rm : Rm) (sat neg : Bool),
    let s := if neg then 2 ^ (f.ebits + f.mbits) else 0
    (∀ (m : Nat) (e : Int), m ≠ 0 →
      let x := f.of rm false (.fin neg m e)
      f.Rounded rm neg m 1 e x ∧ f.of rm true (.fin neg m e) = f.saturated neg x ∧
      (x.2.getLsbD 3 = true ↔ x.2.getLsbD 4 = true ∧ f.Tiny rm neg m e)) ∧
    (∀ e, f.of rm sat (.fin neg 0 e) = (s, 0)) ∧ f.largest = top ∧
    f.overflow rm false neg = (match rm, neg with
      | .rtz, _ | .rup, true | .rdn, false => s + top
      | _, _ => match inf with | some x => s + x | none => nan.getD (s + top)) ∧
    f.of rm sat (.inf neg) = (match inf with
      | some x => (s + x, 0)
      | none => (if sat then s + top else nan.getD (s + top), fInvalid)) ∧
    ∀ g, f.of rm sat (.nan g) = (nan.getD 0, if g || nan.isNone then fInvalid else 0)

/-- 05 R105: square roots and reciprocals. A finite result is the value that the attribute picks for the exact one, which the
statement tells by comparing squares. -/
def Sys2Proof.Claims.FloatRoots : Prop :=
  ∀ (t : FType) (rm : Rm) (sat : Bool) (a : Nat),
    let f := ftype t
    let s := fun (n : Bool) => if n then 2 ^ (f.bits - 1) else 0
    (∀ g, f.read a = .nan g → let x := (f.nan, if g then fInvalid else 0)
      fSqrt t rm a = x ∧ fRcp t rm sat a = x ∧ fRsq t rm a = x) ∧
    (∀ n, f.read a = .inf n → fSqrt t rm a = (if n then (f.nan, fInvalid) else (f.inf, 0)) ∧ fRcp t rm sat a = (s n, 0)
      ∧ fRsq t rm a = if n then (f.nan, fInvalid) else (0, 0)) ∧
    (∀ n e, f.read a = .fin n 0 e → fSqrt t rm a = (s n, 0) ∧ fRcp t rm sat a = (s n + f.inf, fDivzero)
      ∧ fRsq t rm a = (s n + f.inf, fDivzero)) ∧
    (∀ n m e, m ≠ 0 → f.read a = .fin n m e →
      f.Rounded rm n 1 m (-e) (fRcp t rm false a) ∧ fRcp t rm true a = f.saturated n (fRcp t rm false a)) ∧
    (∀ m e, m ≠ 0 → f.read a = .fin true m e → fSqrt t rm a = (f.nan, fInvalid) ∧ fRsq t rm a = (f.nan, fInvalid)) ∧
    ∀ m e, m ≠ 0 → f.read a = .fin false m e → ∀ q : Int, q ≤ 1 - (f.bias : Int) - f.mbits →
      (2 * q ≤ e → let x := (m * 2 ^ (e - 2 * q).toNat : Nat)
        ∃ m' e', f.read (fSqrt t rm a).1 = .fin false m' e' ∧ (fSqrt t rm a).1 < 2 ^ f.bits
          ∧ RoundsCut rm (f.HasVal 1 q) ((fSqrt t rm a).1 % 2 == 0)
              (fun k => if k < 0 then .lt else compare (k * k) (4 * x)) (scaled false m' e' q)
          ∧ (fSqrt t rm a).2 = if scaled false m' e' q * scaled false m' e' q = x then 0 else fInexact) ∧
      (e + 2 * q ≤ 0 → let y := (2 ^ (-(e + 2 * q)).toNat : Nat)
        ∃ m' e', f.read (fRsq t rm a).1 = .fin false m' e' ∧ (fRsq t rm a).1 < 2 ^ f.bits
          ∧ RoundsCut rm (f.HasVal 1 q) ((fRsq t rm a).1 % 2 == 0)
              (fun k => if k < 0 then .lt else compare (k * k * m) (4 * y)) (scaled false m' e' q)
          ∧ (fRsq t rm a).2 = if scaled false m' e' q * scaled false m' e' q * m = y then 0 else fInexact)

/-- 05 R108 to R110: FINT rounds to an integral value and keeps the sign of a zero; FSCALE converts a × 2^n, with n the count or
the UE8M0 scale; FFREXP gives significand and exponent. -/
def Sys2Proof.Claims.FloatIntegral : Prop :=
  ∀ (t : FType) (rm : Rm) (sat e8 : Bool) (a b : Nat),
    let f := ftype t
    let none8 := ¬ (e8 = true ∧ b % 256 = 255)
    (e8 = true → b % 256 = 255 → fScale t e8 rm sat a b = (f.nan, 0)) ∧
    (∀ g, f.read a = .nan g → let x := (f.nan, if g then fInvalid else 0)
      fInt t rm a = x ∧ (none8 → fScale t e8 rm sat a b = x) ∧ fFrexp t false a = x ∧ fFrexp t true a = (0x8000_0000, fInvalid)) ∧
    (∀ n, f.read a = .inf n → a < 2 ^ f.bits → fInt t rm a = (a, 0) ∧ (none8 → fScale t e8 rm sat a b = (a, 0))
      ∧ fFrexp t false a = (a, 0) ∧ fFrexp t true a = (0x7FFF_FFFF, fInvalid)) ∧
    (∀ n e, f.read a = .fin n 0 e → a < 2 ^ f.bits → fInt t rm a = (a, 0) ∧ (none8 → fScale t e8 rm sat a b = (a, 0))
      ∧ fFrexp t false a = (a, 0) ∧ fFrexp t true a = (0x8000_0000, fInvalid)) ∧
    ∀ n m e, m ≠ 0 → f.read a = .fin n m e →
      (∃ v : Int, f.Exactly (fInt t rm a).1 n v.natAbs 0
        ∧ RoundsTo rm (fun z => ∃ k : Int, z = k * 2 ^ (-e).toNat) (v % 2 == 0) (scaled n (m * 2 ^ e.toNat) 0 0) (v * 2 ^ (-e).toNat)
        ∧ (fInt t rm a).2 = if v * 2 ^ (-e).toNat = scaled n (m * 2 ^ e.toNat) 0 0 then 0 else fInexact) ∧
      (none8 → let k : Int := if e8 then (b % 256 : Nat) - 127 else (BitVec.ofNat 32 b).toInt
        f.Rounded rm n m 1 (e + k) (fScale t e8 rm false a b)
        ∧ ((fScale t e8 rm false a b).2.getLsbD 3 = true ↔ (fScale t e8 rm false a b).2.getLsbD 4 = true ∧ f.Tiny rm n m (e + k))
        ∧ fScale t e8 rm true a b = f.saturated n (fScale t e8 rm false a b)) ∧
      ∃ k : Int, fFrexp t true a = ((BitVec.ofInt 32 k).toNat, 0) ∧ (fFrexp t false a).2 = 0
        ∧ f.Exactly (fFrexp t false a).1 n m (e - k)
        ∧ ∀ q : Int, q ≤ e → q ≤ k → 2 ^ (k - q).toNat ≤ m * 2 ^ (e - q).toNat ∧ m * 2 ^ (e - q).toNat < 2 ^ (k + 1 - q).toNat

/-- 05 R106, R107: the special operands of the functions, the results that are exact, and e under the five attributes as the
chapter's walk-through writes them. For the other arguments the statement gives no value: that the model's enclosures settle
every correctly rounded result is log 7. -/
def Sys2Proof.Claims.FloatFunctions : Prop :=
  (∀ (t : FType) (rm : Rm) (sat two : Bool) (a : Nat),
    let f := ftype t
    let one := f.bias * 2 ^ f.mbits
    let s := fun (n : Bool) => if n then 2 ^ (f.bits - 1) else 0
    (∀ g, f.read a = .nan g → let x := (f.nan, if g then fInvalid else 0)
      fExp t rm sat a = x ∧ fExp2 t rm sat a = x ∧ fLog t two rm a = x ∧ fErf t rm a = x ∧ fErfc t rm a = x) ∧
    (f.read a = .inf true → fExp t rm sat a = (0, 0) ∧ fExp2 t rm sat a = (0, 0) ∧ fLog t two rm a = (f.nan, fInvalid)
      ∧ fErf t rm a = (s true + one, 0) ∧ fErfc t rm a = (one + 2 ^ f.mbits, 0)) ∧
    (f.read a = .inf false → fExp t rm sat a = (f.inf, 0) ∧ fExp2 t rm sat a = (f.inf, 0) ∧ fLog t two rm a = (f.inf, 0)
      ∧ fErf t rm a = (one, 0) ∧ fErfc t rm a = (0, 0)) ∧
    (∀ n e, f.read a = .fin n 0 e → fExp t rm sat a = (one, 0) ∧ fExp2 t rm sat a = (one, 0)
      ∧ fLog t two rm a = (s true + f.inf, fDivzero) ∧ fErf t rm a = (s n, 0) ∧ fErfc t rm a = (one, 0)) ∧
    (∀ m e, m ≠ 0 → f.read a = .fin true m e → fLog t two rm a = (f.nan, fInvalid)) ∧
    (∀ n m e (k : Int), m ≠ 0 → f.read a = .fin n m e → (∀ q : Int, q ≤ e → q ≤ 0 → scaled n m e q = k * 2 ^ (-q).toNat) →
      1 - (f.bias : Int) - f.mbits ≤ k → k ≤ f.bias → f.Exactly (fExp2 t rm sat a).1 false 1 k ∧ (fExp2 t rm sat a).2 = 0) ∧
    ∀ (b : Nat) (e : Int), f.read a = .fin false (2 ^ b) e →
      (b + e = 0 → fLog t two rm a = (0, 0)) ∧
      (b + e ≠ 0 → f.Exactly (fLog t true rm a).1 (decide (b + e < 0)) (b + e).natAbs 0 ∧ (fLog t true rm a).2 = 0)) ∧
  (∀ rm ∈ [Rm.rne, .rna, .rtz, .rdn], fExp .f rm false 0x3F80_0000 = (0x402D_F854, fInexact)) ∧
  fExp .f .rup false 0x3F80_0000 = (0x402D_F855, fInexact)

/-- 02 R37 to R39, 05 R101 to R110: NaNs, infinities, zeros, overflow and underflow; order, minimum and maximum of finite
operands; roots, reciprocals, integral values, scaling, exponents; the functions' special and exact results. -/
def Obligations.FloatCases : Prop :=
  Sys2Proof.Claims.FloatSpecials ∧
  Sys2Proof.Claims.FloatOrder ∧
  Sys2Proof.Claims.RoundingCases ∧
  Sys2Proof.Claims.FloatRoots ∧
  Sys2Proof.Claims.FloatIntegral ∧
  Sys2Proof.Claims.FloatFunctions

/-- 05 R103: FCMP writes one truth value a lane, as ICMP does, with the flags of the comparison. -/
def Sys2Proof.Claims.FloatCompare : Prop :=
  ∀ (s : State) (c : Cur) (w : Wave) (t : FType) (r : RForm) (cc : FCond), s.Issues (.fcmp cc t r) c w →
    let act := s.act (.fcmp cc t r)
    let lat := if t = .d then 2 else 1
    ∃ n, exec (.fcmp cc t r) s = .next n
      ∧ s.Yields n c w (s.flResultAt c w act lat (w.regsAt r.d 1)
          (w.dstBool r.d act fun l => (fCmp t cc (w.fv t r.a l) (w.fv t r.b l)).1)
          fun l => (fCmp t cc (w.fv t r.a l) (w.fv t r.b l)).2) (s.flHold w act lat)

/-- 05 R104: FCLASS writes the one bit of the class of A and calls no Flag. -/
def Sys2Proof.Claims.FloatClass : Prop :=
  ∀ (s : State) (c : Cur) (w : Wave) (t : FType) (r : RForm), s.Issues (.fclass t r) c w →
    ∃ n val, exec (.fclass t r) s = .next n
      ∧ s.Yields n c w (s.resultAt c w (s.act (.fclass t r)) (if t = .d then 2 else 1) (w.regsAt r.d 1)
          (w.dst r.d 1 (s.act (.fclass t r)) val)) w.hold
      ∧ ∀ l, l < 32 → ∃ k, val l = 2 ^ k ∧ match (ftype t).read (w.fv t r.a l) with
        | .inf true => k = 0
        | .fin true m _ => k = if m = 0 then 3 else if m < 2 ^ (ftype t).mbits then 2 else 1
        | .fin false m _ => k = if m = 0 then 4 else if m < 2 ^ (ftype t).mbits then 5 else 6
        | .inf false => k = 7
        | .nan true => k = 8
        | .nan false => k = 9

/-- 05 R111: FSGN passes every bit of A but the sign, and calls no Flag. -/
def Sys2Proof.Claims.FloatSign : Prop :=
  ∀ (s : State) (c : Cur) (w : Wave) (t : FType) (op : SgnOp) (r : RForm), s.Issues (.fsgn t op r) c w →
    ∃ n val, exec (.fsgn t op r) s = .next n
      ∧ s.Yields n c w (s.resultAt c w (s.act (.fsgn t op r)) (if t = .d then 2 else 1) (w.regsAt r.d t.regs)
          (w.dst r.d t.regs (s.act (.fsgn t op r)) val)) w.hold
      ∧ ∀ l, l < 32 →
        let a := w.fv t r.a l
        let top := (ftype t).bits - 1
        val l < 2 ^ (ftype t).bits ∧ (∀ i, i < top → (val l).testBit i = a.testBit i) ∧
        (val l).testBit top = match op with
          | .cpy => (w.fv t r.b l).testBit top
          | .neg => !a.testBit top
          | .abs => false
          | .xor => a.testBit top != (w.fv t r.b l).testBit top

/-- 05 R103, R104, R111: FCMP, FCLASS and FSGN. -/
def Obligations.FloatQueries : Prop :=
  Sys2Proof.Claims.FloatCompare ∧
  Sys2Proof.Claims.FloatClass ∧
  Sys2Proof.Claims.FloatSign

/-- 05 R112 and R113: CVT takes 2 rounds when a side is binary64, and converts by its pair. That every pair holds the wave while
an enable stands, those that never flag too, is the model's reading (log 84). -/
def Sys2Proof.Claims.ConvertIssues : Prop :=
  ∀ (s : State) (c : Cur) (w : Wave) (dst src : CvtType) (r : RForm), s.Issues (.cvt dst src r) c w →
    let act := s.act (.cvt dst src r)
    let lat := if dst = .d ∨ src = .d then 2 else 1
    let f := fun l => fCvt dst src r.rm r.sat (w.rd r.a src.regs l)
    ∃ n, exec (.cvt dst src r) s = .next n
      ∧ s.Yields n c w (s.flResultAt c w act lat (w.regsAt r.d dst.regs) (w.dst r.d dst.regs act fun l => (f l).1)
          fun l => (f l).2) (s.flHold w act lat)
      -- a float to an integer is rounded first and clamped after
      ∧ ∀ (l : Nat) (t : IType) (m : Nat) (e : Int) (g : Bool), cvtInt dst = some t →
          (cvtFloat src).read (w.rd r.a src.regs l) = .fin g m e →
          ∃ v : Int, IntWrites t true v (f l).1 ∧ RoundsTo r.rm (fun z => ∃ k : Int, z = k * 2 ^ (-e).toNat)
              (v % 2 == 0) (scaled g (m * 2 ^ e.toNat) 0 0) (v * 2 ^ (-e).toNat)
            ∧ ((f l).2.getLsbD 0 = true ↔ v < ilow t ∨ ihigh t < v)

/-- 02 R39, R42, 05 R113: what CVT makes of a value. To an integer: 0 for a NaN and the end of the range for an infinity, invalid.
From an integer to a float, and between two floats: the value rounded, with the outcomes of RoundTo and of saturate; a zero keeps
its sign. Within one format the bits pass, but for a signalling NaN. -/
def Sys2Proof.Claims.ConvertValues : Prop :=
  ∀ (dst src : CvtType) (rm : Rm) (sat : Bool) (a : Nat),
    let g := cvtFloat src
    let f := cvtFloat dst
    let x := fCvt dst src rm sat a
    (∀ t, cvtInt dst = some t → cvtInt src = none →
      (∀ k, g.read a = .nan k → x = (0, fInvalid)) ∧
      (∀ n, g.read a = .inf n → IntWrites t true (if n then ilow t else ihigh t) x.1 ∧ x.2 = fInvalid) ∧
      ∀ n m e, g.read a = .fin n m e → x = fCvt dst src rm false a) ∧
    (∀ t, cvtInt dst = none → cvtInt src = some t →
      let v := ival t a
      (v = 0 → x = (0, 0)) ∧
      (v ≠ 0 → f.Rounded rm (decide (v < 0)) v.natAbs 1 0 (fCvt dst src rm false a)
        ∧ fCvt dst src rm true a = f.saturated (decide (v < 0)) (fCvt dst src rm false a))) ∧
    (cvtInt dst = none → cvtInt src = none → dst ≠ src →
      (∀ k, g.read a = .nan k → x = (f.nan, if k then fInvalid else 0)) ∧
      (∀ n, g.read a = .inf n → x = ((if n then 2 ^ (f.bits - 1) else 0) + f.inf, 0)) ∧
      (∀ n e, g.read a = .fin n 0 e → x = (if n then 2 ^ (f.bits - 1) else 0, 0)) ∧
      ∀ n m e, m ≠ 0 → g.read a = .fin n m e → f.Rounded rm n m 1 e (fCvt dst src rm false a)
        ∧ ((fCvt dst src rm false a).2.getLsbD 3 = true ↔ (fCvt dst src rm false a).2.getLsbD 4 = true ∧ f.Tiny rm n m e)
        ∧ fCvt dst src rm true a = f.saturated n (fCvt dst src rm false a)) ∧
    (cvtInt dst = none → dst = src → a < 2 ^ f.bits →
      x = if f.read a = .nan true then (f.nan, fInvalid) else (a, 0))

/-- 05 R112, R113, 02 R39, R42: the issue of CVT, and the value of every pair. -/
def Obligations.Convert : Prop :=
  Sys2Proof.Claims.ConvertIssues ∧
  Sys2Proof.Claims.ConvertValues

/-- 05 R114: FXRD reads the whole status word of each thread; FXCLR clears the flags that A names; FXEN sets the enables. -/
def Obligations.ExceptionStatus : Prop :=
  ∀ (s : State) (c : Cur) (w : Wave) (r : RForm),
    (s.Issues (.fxrd r) c w → ∃ n, exec (.fxrd r) s = .next n
      ∧ s.Yields n c w (s.resultAt c w (s.act (.fxrd r)) 1 (w.regsAt r.d 1)
          (w.dst r.d 1 (s.act (.fxrd r)) fun l => (w.th l).readThs.toNat)) w.hold) ∧
    (s.Issues (.fxclr r) c w → ∃ n, exec (.fxclr r) s = .next n
      ∧ s.Yields n c w (s.resultAt c w (s.act (.fxclr r)) 1 [.ths]
          ((lanesOf (s.act (.fxclr r))).map fun l => .ths l (w.word r.a 0 l &&& 0x1F) 0)) w.hold) ∧
    (s.Issues (.fxen r) c w → ∃ n, exec (.fxen r) s = .next n
      ∧ s.Yields n c w (s.resultAt c w (s.act (.fxen r)) 1 [.ths]
          ((lanesOf (s.act (.fxen r))).map fun l => .ths l 0x1F00 ((w.word r.a 0 l &&& 0x1F) <<< 8))) w.hold)

/-- 05 R117 to R119: the packed instructions; those of an integer element code call no Flag and hold nothing. That an UNPACK of a
format without a signalling NaN holds the wave as one that can flag is the model's reading (log 84). -/
def Sys2Proof.Claims.Packed : Prop :=
  ∀ (s : State) (c : Cur) (w : Wave) (e : Elem) (j : Fin 4) (r : RForm) (i : Instr) (dk : Nat) (f : Nat → Nat × Fl),
    (i, dk, f) ∈ packedRule e j r w → s.Issues i c w →
    ∃ n, exec i s = .next n
      ∧ if e ∈ [Elem.i8, .ui8, .i4, .ui4, .i16, .ui16] then
          s.Yields n c w (s.resultAt c w (s.act i) 1 (w.regsAt r.d dk) (w.dst r.d dk (s.act i) fun l => (f l).1)) w.hold
        else s.Yields n c w (s.flResultAt c w (s.act i) 1 (w.regsAt r.d dk) (w.dst r.d dk (s.act i) fun l => (f l).1)
          fun l => (f l).2) (s.flHold w (s.act i) 1)

/-- 05 R117, R118: a dot product of integer elements is their exact sum under the .i32 write rule; PACK changes elements
2J and 2J + 1 alone. -/
def Sys2Proof.Claims.PackedValues : Prop :=
  (∀ (e : Elem) (rm : Rm) (sat : Bool) (a b c w : Nat) (g : Bool), (e, w, g) ∈ [(Elem.i8, 8, true), (.ui8, 8, false),
      (.i4, 4, true), (.ui4, 4, false)] →
    let el := fun (x k : Nat) => if g then (BitVec.ofNat w (x / 2 ^ (w * k))).toInt else (BitVec.ofNat w (x / 2 ^ (w * k))).toNat
    IntWrites .i32 sat (((List.range (32 / w)).map fun k => el a k * el b k).sum + (BitVec.ofNat 32 c).toInt)
      (dotVal e rm sat a b c).1 ∧ (dotVal e rm sat a b c).2 = 0) ∧
  ∀ (e : Elem) (j : Fin 4) (rm : Rm) (sat : Bool) (d a b i : Nat), d < 2 ^ 32 →
    (i < elemBits e * (2 * j.val) ∨ elemBits e * (2 * j.val + 2) ≤ i) →
    (packVal e j.val rm sat d a b).1.testBit i = d.testBit i

/-- 05 R117, 02 R36, R43, R44: a dot product of float elements: the exact products as binary32 values, their canonical tree of RNE
sums, and C added under the attribute; 0 × ∞ is invalid, and a NaN element gives a NaN. -/
def Sys2Proof.Claims.DotValues : Prop :=
  ∀ (e : Elem) (rm : Rm) (sat : Bool) (a b c : Nat), elemInt e = none → (e.dot4Ok || e.dot8Ok) = true →
    let el := fun (x k : Nat) => elemVal e (x / 2 ^ (elemBits e * k) % 2 ^ elemBits e)
    let node := fun (x y : Nat × Fl) => ((fAdd .f .rne false x.1 y.1).1, x.2 ||| y.2 ||| (fAdd .f .rne false x.1 y.1).2)
    ∃ p : Nat → Nat × Fl,
      (∀ k, k < e.count → (∀ an am ae bn bm be, el a k = .fin an am ae → el b k = .fin bn bm be →
          binary32.Exactly (p k).1 (an != bn) (am * bm) (ae + be) ∧ (p k).2 = 0) ∧
        (∀ n m j x, (el a k = .inf n ∧ el b k = .fin m j x) ∨ (el b k = .inf n ∧ el a k = .fin m j x) →
          p k = if j = 0 then (binary32.nan, fInvalid) else (binary32.inf + (if n = m then 0 else 2 ^ 31), 0)) ∧
        (∀ n m, el a k = .inf n → el b k = .inf m → p k = (binary32.inf + (if n = m then 0 else 2 ^ 31), 0)) ∧
        (∀ g, el a k = .nan g ∨ el b k = .nan g → (p k).1 = binary32.nan ∧
          (p k).2 = if el a k = .nan true ∨ el b k = .nan true then fInvalid else 0)) ∧
      let four := fun (k : Nat) => node (node (p k) (p (k + 1))) (node (p (k + 2)) (p (k + 3)))
      let s := if e.count = 4 then four 0 else node (four 0) (four 4)
      dotVal e rm sat a b c = ((fAdd .f rm sat s.1 c).1, s.2 ||| (fAdd .f rm sat s.1 c).2)

/-- 05 R118, R119: PACK converts A and B into elements 2J and 2J + 1 and raises the flags of both; UNPACK widens those elements
exactly. -/
def Sys2Proof.Claims.ElementValues : Prop :=
  (∀ (e : Elem) (f : Fmt) (j : Nat) (rm : Rm) (sat : Bool) (d a b : Nat), elemFmt e = some f → j < e.count / 2 →
    let x := f.of rm sat (binary32.read a)
    let y := f.of rm sat (binary32.read b)
    let r := packVal e j rm sat d a b
    r.1 / 2 ^ (elemBits e * (2 * j)) % 2 ^ elemBits e = x.1 ∧ r.1 / 2 ^ (elemBits e * (2 * j + 1)) % 2 ^ elemBits e = y.1
      ∧ r.2 = x.2 ||| y.2) ∧
  (∀ (e : Elem) (n : Nat) (g sat : Bool) (j : Nat) (rm : Rm) (d a b : Nat), elemInt e = some (n, g) → j < e.count / 2 →
    let r := packVal e j rm sat d a b
    let put := fun (v : Nat) => let x := (BitVec.ofNat 32 v).toInt
      if sat then min (max x (if g then -(2 ^ (n - 1)) else 0)) (if g then 2 ^ (n - 1) - 1 else 2 ^ n - 1) else x
    r.2 = 0 ∧ ((r.1 / 2 ^ (n * (2 * j)) % 2 ^ n : Nat) : Int) = put a % 2 ^ n
      ∧ ((r.1 / 2 ^ (n * (2 * j + 1)) % 2 ^ n : Nat) : Int) = put b % 2 ^ n) ∧
  ∀ (e : Elem) (j a k : Nat), k < 2 →
    let v := elemAt e a (2 * j + k)
    let r := unpackVal e j a
    let out := r.1 / 2 ^ (32 * k) % 2 ^ 32
    (∀ n m x, elemInt e = none → elemVal e v = .fin n m x → binary32.Exactly out n m x) ∧
    (∀ n, elemInt e = none → elemVal e v = .inf n → out = binary32.inf + if n then 2 ^ 31 else 0) ∧
    (∀ g, elemInt e = none → elemVal e v = .nan g → out = binary32.nan ∧ (g = true → r.2 = fInvalid)) ∧
    ∀ n g, elemInt e = some (n, g) → r.2 = 0 ∧
      out = (BitVec.ofInt 32 (if g then (BitVec.ofNat n v).toInt else (BitVec.ofNat n v).toNat)).toNat

/-- 05 R120: the values of MXQ: the scale of the largest magnitude M among the Active lanes, floor(log2 M) - emax + 127 clamped
to 0 to 254, 0xFF with a NaN or an infinity among them, 0 where all are zero; and the code of A × 2^(127 - scale). -/
def Sys2Proof.Claims.QuantiseValues : Prop :=
  ∀ (e : Elem) (emax : Int), (e, emax) ∈ [(Elem.e4m3, (8 : Int)), (.e5m2, 15), (.e3m2, 4), (.e2m3, 2), (.e2m1, 2), (.mxi8, 0)] →
    (∀ vs : List Nat,
      let bad := ∃ v ∈ vs, ¬ ∃ n m x, binary32.read v = .fin n m x
      (bad → mxScale e vs = 0xFF) ∧
      (¬ bad → (∀ v ∈ vs, ∃ n x, binary32.read v = .fin n 0 x) → mxScale e vs = 0) ∧
      ∀ k : Int, ¬ bad → (∃ v ∈ vs, ∃ n m x, binary32.read v = .fin n m x ∧ ∀ q : Int, q ≤ x → q ≤ k →
          2 ^ (k - q).toNat ≤ m * 2 ^ (x - q).toNat) →
        (∀ v ∈ vs, ∀ n m x, binary32.read v = .fin n m x → ∀ q : Int, q ≤ x → q ≤ k → m * 2 ^ (x - q).toNat < 2 ^ (k + 1 - q).toNat) →
        (mxScale e vs : Int) = min (max (k - emax + 127) 0) 254) ∧
    ∀ (rm : Rm) (sat : Bool) (sc a : Nat),
      ((mxElem e rm sat 0xFF a).1 = 0 ∧ (mxElem e rm sat 0xFF a).2 = match binary32.read a with | .fin .. => 0 | _ => fInvalid) ∧
      ∀ n m x, sc < 0xFF → binary32.read a = .fin n m x →
        (∀ f, elemFmt e = some f → mxElem e rm sat sc a = f.of rm sat (.fin n m (x + 127 - sc))) ∧
        (e = .mxi8 → ∃ v : Int,
          RoundsTo rm (fun z => ∃ k : Int, z = k * 2 ^ (-(x + 133 - sc)).toNat) (v % 2 == 0)
            (scaled n (m * 2 ^ (x + 133 - sc).toNat) 0 0) (v * 2 ^ (-(x + 133 - sc)).toNat)
          ∧ ((mxElem e rm sat sc a).1 : Int) = max (-128) (min v 127) % 256
          ∧ (mxElem e rm sat sc a).2 = if v < -128 ∨ 127 < v then fOverflow ||| fInexact
              else if v * 2 ^ (-(x + 133 - sc)).toNat = scaled n (m * 2 ^ (x + 133 - sc).toNat) 0 0 then 0 else fInexact)

/-- 05 R120: MXQ forms one scale from the Active lanes and, in the .elem form, the codes under it. -/
def Sys2Proof.Claims.Quantise : Prop :=
  ∀ (s : State) (c : Cur) (w : Wave) (e : Elem) (r : RForm),
    (s.Issues (.mxq e true r) c w →
      let act := s.act (.mxq e true r)
      ∃ n, exec (.mxq e true r) s = .next n
        ∧ s.Yields n c w (s.resultAt c w act 1 (w.regsAt r.d 1)
            (w.dst r.d 1 act fun _ => mxScale e ((lanesOf act).map fun l => w.rd r.a 1 l))) w.hold) ∧
    (s.Issues (.mxq e false r) c w →
      let act := s.act (.mxq e false r)
      let f := fun l => mxElem e r.rm r.sat (mxScale e ((lanesOf act).map fun l => w.rd r.a 1 l)) (w.rd r.a 1 l)
      ∃ n, exec (.mxq e false r) s = .next n
        ∧ s.Yields n c w (s.flResultAt c w act 1 (w.regsAt r.d 1) (w.dst r.d 1 act fun l => (f l).1) fun l => (f l).2)
            (s.flHold w act 1))

/-- 05 R117 to R120: packed and microscale instructions. -/
def Obligations.PackedFormats : Prop :=
  Sys2Proof.Claims.Packed ∧
  Sys2Proof.Claims.PackedValues ∧
  Sys2Proof.Claims.DotValues ∧
  Sys2Proof.Claims.ElementValues ∧
  Sys2Proof.Claims.QuantiseValues ∧
  Sys2Proof.Claims.Quantise

/-! ## The issue of an instruction, traps and transfers (03, 06, 19) -/

/-- 03 R66, 19 R358: whatever the wave instruction, the first failing check of the common ones is the trap that it takes,
in its Active lanes, and it has no effect of its own. -/
def Sys2Proof.Claims.FrontTrapTaken : Prop :=
  ∀ (s : State) (i : Instr) (t : Trap), isWaveInstr i = true → s.frontTrap i = some t →
    exec i s = .next (s.takeTrap (s.act i) t)

/-- 03 R66 steps 2 to 4, with 01 R12, R15, 03 R60, 08 R163, 09 R188 and 19 R358: which trap the checks before an
instruction's own give, the first that applies. A marked register among those it names: the timing trap. A transfer that does
not end its block, a MOVL that does not lie in it whole, or a sub that the form does not have: illegal instruction. A field
outside its form, a barrier or tile at or above the grid's count, or an indirect operand off its alignment: reserved field. A
v-register at or above the allotment: indirect bounds. -/
def Sys2Proof.Claims.FrontChecks : Prop :=
  ∀ (s : State) (c : Cur) (w : Wave) (e : Exec) (i : Instr), s.Stands c w → (w.th (lowLane c.lanes)).ex = some e →
    let l := (s.grd (s.blk w)).l
    let marked := ∃ k ∈ w.named i, k ∈ w.marks
    let misplaced := (isTransfer i = true ∧ c.next ≠ e.hdr + BitVec.ofNat 64 (8 + 8 * e.len))
      ∨ (∃ k d x, i = .movl k d x) ∧ ((c.next - 8 - e.hdr).toNat = 0 ∨ 8 * e.len < (c.next - 8 - e.hdr).toNat)
    let literal := (∃ (b : Fin 32) (r : RForm) (k : BrField), i ∈ [.binit b r, .barv b r, .bwait b r, .barw b r, .binval b r, .brdf k b r]
        ∧ l.barriers ≤ b.val)
      ∨ ∃ (t : Fin 16) (i8 : Bool) (fm : TileFmt) (k : TflgOp) (r : RForm),
        i ∈ [.mma i8 t r, .mmasp i8 t r, .tzero t r, .tld fm t r, .tst fm t r, .tflg k t r] ∧ l.tiles ≤ t.val
    let unaligned := ∃ u ∈ usesOf i, ∃ n, w.vnum u.o = some n ∧ n % u.al ≠ 0
    let beyond := ∃ u ∈ usesOf i, ∃ n, w.vnum u.o = some n ∧ l.regs < n + u.k
    let illegal := misplaced ∨ i.subOk = false
    let reserved := i.fieldsOk = false ∨ literal ∨ unaligned
    (marked → s.frontTrap i = some (trapOf 0x0A)) ∧
    (¬ marked → illegal → s.frontTrap i = some (trapOf 0x01)) ∧
    (¬ marked → ¬ illegal → reserved → s.frontTrap i = some (trapOf 0x03)) ∧
    (¬ marked → ¬ illegal → ¬ reserved → beyond → s.frontTrap i = some (trapOf 0x04)) ∧
    (¬ marked → ¬ illegal → ¬ reserved → ¬ beyond → s.frontTrap i = none)

/-- 01 R12, 03 R57, 09 R188: the registers that an operand field names and their alignment: a pair for a 64-bit operand, four
for a .b128 datum, 24 from a multiple of 8 for the A operand of a matrix operation; a direct field off its alignment makes
the word's fields wrong (the source of a CSRWR to a read-only register aside, log 109). -/
def Sys2Proof.Claims.OperandFields : Prop :=
  (∀ (t : IType) (r : RForm) (u : Opnd), u ∈ [r.d, r.a, r.b] → (⟨u, t.regs, t.regs⟩ : OpUse) ∈ usesOf (.iadd t r)) ∧
  (∀ (t : FType) (r : RForm) (u : Opnd), u ∈ [r.d, r.a, r.b, r.c] → (⟨u, t.regs, t.regs⟩ : OpUse) ∈ usesOf (.fma t r)) ∧
  (∀ (sx a64 : Bool) (m : MForm), usesOf (.ld sx a64 m)
    = [⟨m.d, if m.sz = .b128 then 4 else if m.sz = .b64 then 2 else 1, if m.sz = .b128 then 4 else if m.sz = .b64 then 2 else 1⟩,
       ⟨m.a, if a64 then 2 else 1, if a64 then 2 else 1⟩]) ∧
  (∀ (b : Bool) (t : Fin 16) (r : RForm), (⟨r.a, 24, 8⟩ : OpUse) ∈ usesOf (.mma b t r)) ∧
  ∀ (i : Instr) (u : OpUse) (n : Nat), isWaveInstr i = true → (∀ k a, i ≠ .csrwr k a) → u ∈ usesOf i → n % u.al ≠ 0 →
    ((∃ k : Fin 256, k.val = n ∧ u.o = .v k) ∨ (∃ k : Fin 64, k.val = n ∧ u.o = .s k)) → i.fieldsOk = false

/-- 03 R66, 19 R358: the checks before an instruction's own take the trap that they find, and which they find. -/
def Obligations.FrontTraps : Prop :=
  Sys2Proof.Claims.FrontTrapTaken ∧
  Sys2Proof.Claims.FrontChecks ∧
  Sys2Proof.Claims.OperandFields

/-- 19 R361: taking a trap. The trapping lanes get the cause and their address, every other running thread cause 0 and
its own address; every running thread goes to the handler; the join list is set aside, the timing marks are cleared, and
the wave issues again from the second round on. Registers, THS, depths, return stacks and restart records stay. -/
def Sys2Proof.Claims.TrapTaken : Prop :=
  ∀ (s : State) (c : Cur) (w : Wave) (act : W32) (t : Trap), s.Stands c w → w.handler = false →
    (s.grd (s.blk w)).l.handler ≠ 0 →
    ∃ u, s.takeTrap act t = { s with waves := modifyFirst (fun x => x.uid == c.uid) (fun _ => u) s.waves }
      ∧ u.core = { w.core with handler := true, savedJoins := w.joins, marks := [] } ∧ u.joins = [] ∧ u.pend = w.pend
      ∧ u.hold = s.round w + 2
      ∧ ∀ l, l < 32 →
        if (w.th l).status = .run then
          (u.th l).pc = (s.grd (s.blk w)).l.handler ∧ (u.th l).ex = none ∧ (u.th l).wait = .none
            ∧ (u.th l).tcause = (if act.getLsbD l then BitVec.ofNat 32 (t.cause + 256 * t.detail) else 0)
            ∧ (u.th l).taddr = (if act.getLsbD l then (t.hdr l).getD c.pc else (w.th l).pc)
            ∧ (u.th l).tdepth = (w.th l).depth ∧ (u.th l).depth = (w.th l).depth ∧ (u.th l).rstack = (w.th l).rstack
            ∧ (u.th l).restart = (w.th l).restart ∧ (u.th l).ths = (w.th l).ths ∧ (u.th l).status = .run
        else u.th l = w.th l

/-- 19 R362, R375: a trap in the handler, and a trap without a handler, end the block: its waves leave their slots, and no
other wave, no byte of memory and no tile changes. -/
def Sys2Proof.Claims.HandlerFault : Prop :=
  ∀ (s : State) (c : Cur) (w : Wave) (act : W32) (t : Trap), s.Stands c w →
    w.handler = true ∨ (s.grd (s.blk w)).l.handler = 0 →
    let n := s.takeTrap act t
    n.waves = s.waves.filter (fun u => !s.waves.any fun v => v.bid == w.bid && v.uid == u.uid)
      ∧ n.mem = s.mem ∧ n.tiles = s.tiles ∧ n.slices = s.slices ∧ n.clusters = s.clusters ∧ n.accs = s.accs
      ∧ ∃ e, (s.now, e) ∈ n.arb.inbox ∧ e.code = 0x0001

/-- 19 R361, R362, R375: a trap enters the handler, or ends the block. -/
def Obligations.TrapEntry : Prop :=
  Sys2Proof.Claims.TrapTaken ∧
  Sys2Proof.Claims.HandlerFault

/-- 06 R123 to R128: a transfer whose own checks and join target stand, and which can read its headers and spill slots, leaves its
block, each thread to its own place. -/
def Sys2Proof.Claims.Transfers : Prop :=
  ∀ (s : State) (c : Cur) (w : Wave) (imm : W32) (z : Bool) (a : Opnd) (r : RForm) (x : TransferRule),
    x ∈ transferRule s c w imm z a r → s.Issues x.i c w → s.Readable w x → s.Passes x → w.goesOn c (x.dest (s.act x.i)) →
    ∃ t, exec x.i s = .next t
      ∧ s.Leaves t c w (x.mem (s.act x.i)) (x.stack (s.act x.i)) (x.dest (s.act x.i))

/-- 06 R124, R125, 03 R51: a transfer whose checks fail takes that trap; malformed entries that its header fetches met are
reported (11 R218). -/
def Sys2Proof.Claims.TransferTraps : Prop :=
  ∀ (s : State) (c : Cur) (w : Wave) (imm : W32) (z : Bool) (a : Opnd) (r : RForm) (x : TransferRule) (t : Trap),
    x ∈ transferRule s c w imm z a r → s.Issues x.i c w → s.lostTarget x.i (s.act x.i) (x.dest (s.act x.i)) = none →
    (x.own (s.act x.i)).orElse (fun _ => s.divergeTrap (x.dest (s.act x.i))) = some t →
    exec x.i s = .next ((s.reportFetch w ((lanesOf (s.act x.i)).filterMap t.hdr ++ s.exec.join.toList)).takeTrap (s.act x.i) t)

/-- 12 R245, R259: a transfer that reads a header word in a poisoned atom ends its context with that granule; one that passes its
checks and reads or writes a spill slot in uncorrectable groups finds them. Without such atoms and groups neither happens. -/
def Sys2Proof.Claims.TransferLosses : Prop :=
  ∀ (s : State) (c : Cur) (w : Wave) (imm : W32) (z : Bool) (a : Opnd) (r : RForm) (x : TransferRule),
    x ∈ transferRule s c w imm z a r → s.Issues x.i c w →
    let lost := s.lostTarget x.i (s.act x.i) (x.dest (s.act x.i))
    let ks := s.spillsLost w (s.spillsOf x.i (s.act x.i))
    (∀ g, lost = some g → exec x.i s = .next (s.poisonEnd (s.blk w).gid g)) ∧
    (lost = none → s.Passes x → ks ≠ [] → exec x.i s = .next (s.found ks)) ∧
    (s.mem.poison = [] → lost = none) ∧ (s.mem.broken = [] → ks = [])

/-- 07 R145: a transfer by which a path diverges, in a block with a join field, appends the record of its join target, its depth
and its threads, unless the list holds 16; any other appends none. The list is then settled (`JoinsSettle`). -/
def Sys2Proof.Claims.JoinRecorded : Prop :=
  ∀ (s : State) (c : Cur) (w : Wave) (imm : W32) (z : Bool) (a : Opnd) (r : RForm) (x : TransferRule),
    x ∈ transferRule s c w imm z a r → s.Issues x.i c w → s.Readable w x → s.Passes x → w.goesOn c (x.dest (s.act x.i)) →
    let goesTo := fun l => (x.dest (s.act x.i) l).map fun y => (y.1, y.2.1)
    let splits := ∃ l k p q, l < 32 ∧ k < 32 ∧ c.lanes.getLsbD l = true ∧ c.lanes.getLsbD k = true ∧ goesTo l = some p ∧ goesTo k = some q
      ∧ p ≠ q
    ∃ (t : State) (u : Wave), exec x.i s = .next t ∧ t.waveOf c.uid = some (u.settleJoins (s.round w))
      ∧ (splits → w.joins.length < 16 → ∀ j, s.exec.join = some j →
          u.joins = ⟨j, (w.th (lowLane c.lanes)).depth, c.lanes⟩ :: w.joins)
      ∧ (¬ splits ∨ 16 ≤ w.joins.length ∨ s.exec.join = none → u.joins = w.joins)
      ∧ ∀ l, l < 32 → if c.lanes.getLsbD l then
            match goesTo l with
            | some p => (u.th l).pc = p.1 ∧ (u.th l).depth = p.2 ∧ (u.th l).ex = none ∧ (u.th l).status = (w.th l).status
            | none => (u.th l).status = .ended
          else u.th l = w.th l

/-- 07 R146, R148: the join list as every issue and every end of a wait settles it. A record whose threads all stand at its join or
have ended leaves the list, and its threads issue from the next round. While then every path is held, the newest record that holds
one leaves it as well, and the paths that it held run on. -/
def Sys2Proof.Claims.JoinsSettle : Prop :=
  ∀ (w : Wave) (r : Nat),
    let at' := fun (j : Join) l => (w.th l).status = .run ∧ (w.th l).ex = none ∧ (w.th l).pc = j.hdr ∧ (w.th l).depth = j.depth
      ∧ (w.th l).wait = .none
    let whole := fun (j : Join) => ∀ l, l < 32 → j.set.getLsbD l = true → at' j l ∨ (w.th l).status = .ended
    let v := w.dropDone r
    (∀ j, w.joinDone j = true ↔ whole j) ∧
    (∀ j l, l < 32 → (w.holds j l = true ↔ j.set.getLsbD l = true ∧ at' j l ∧ (w.th l).runsOn ≠ some (j.hdr, j.depth) ∧ ¬ whole j)) ∧
    v.joins = w.joins.filter (fun j => !w.joinDone j) ∧
    (∀ l, l < 32 → let freed := ∃ j ∈ w.joins, whole j ∧ j.set.getLsbD l = true ∧ at' j l
      (freed → v.th l = { w.th l with readyAt := max (w.th l).readyAt (r + 1), reanchor := true })
        ∧ (¬ freed → v.th l = w.th l)) ∧
    (v.stuck = true ↔ v.running ≠ 0 ∧ ∀ l, l < 32 → (v.th l).status = .run → ∃ k, k < 32 ∧ (v.th k).status = .run
      ∧ (v.th k).pc = (v.th l).pc ∧ (v.th k).depth = (v.th l).depth ∧ ∃ j ∈ v.joins, v.holds j k = true) ∧
    (v.stuck = false → w.settleJoins r = v) ∧
    ∀ pre j post, v.stuck = true → v.joins = pre ++ j :: post → (∀ i ∈ pre, ∀ l, l < 32 → v.holds i l = false) →
      (∃ l, l < 32 ∧ v.holds j l = true) →
      (w.settleJoins r).joins = v.joins.erase j
        ∧ ∀ l, l < 32 → v.holds j l = true → ((w.settleJoins r).th l).runsOn = some (j.hdr, j.depth)
          ∧ ((w.settleJoins r).th l).readyAt = max (v.th l).readyAt (r + 1)

/-- 07 R146: a path with a thread that a record holds does not issue. -/
def Sys2Proof.Claims.HeldPathsWait : Prop :=
  ∀ (s : State) (wv : Nat) (w : Wave) (p : Ranked) (j : Join) (l : Nat), p ∈ s.chosen wv w → j ∈ w.joins → l < 32 →
    p.lanes.getLsbD l = true → w.holds j l = false

/-- 06 R127, R128: when every thread of the path ends and no other thread of the wave is left, the wave leaves its slot. -/
def Sys2Proof.Claims.WaveEnds : Prop :=
  ∀ (s : State) (c : Cur) (w : Wave) (imm : W32) (z : Bool) (a : Opnd) (r : RForm) (x : TransferRule),
    x ∈ transferRule s c w imm z a r → s.Issues x.i c w → x.own (s.act x.i) = none →
    (∀ l, l < 32 → if c.lanes.getLsbD l then x.dest (s.act x.i) l = none else (w.th l).status = .ended) →
    ∃ t, exec x.i s = .next t ∧ t.waves = s.waves.filter (fun u => u.uid != c.uid) ∧ t.mem = s.mem
      ∧ t.slices = s.slices ∧ t.clusters = s.clusters ∧ t.tiles = s.tiles ∧ t.accs = s.accs ∧ t.cards = s.cards

/-- 06 R123 to R128, 07 R145, R146: where a transfer leads, where it traps, what it does to the join list, and when the wave ends. -/
def Obligations.ControlTransfers : Prop :=
  Sys2Proof.Claims.Transfers ∧
  Sys2Proof.Claims.TransferTraps ∧
  Sys2Proof.Claims.TransferLosses ∧
  Sys2Proof.Claims.JoinRecorded ∧
  Sys2Proof.Claims.JoinsSettle ∧
  Sys2Proof.Claims.HeldPathsWait ∧
  Sys2Proof.Claims.WaveEnds

/-- 06 R129, 13 R267: NOP, and FENCE as it issues, only go on. -/
def Sys2Proof.Claims.NoEffect : Prop :=
  ∀ (s : State) (c : Cur) (w : Wave) (r : RForm) (k : Fin 16) (m : MForm) (i : Instr),
    i ∈ [Instr.nop r, .fence k m] → s.Issues i c w → ∃ t, exec i s = .next t ∧ s.WentFrom t c w

/-- 06 R130: ELB opens the elastic region of its wave, with the exit round, the join target and the depth, unless one of
the four cases holds in which it is illegal. -/
def Sys2Proof.Claims.ElasticBegin : Prop :=
  ∀ (s : State) (c : Cur) (w : Wave) (imm : W32), s.Issues (.elb imm) c w →
    ∃ t, exec (.elb imm) s = .next t ∧
      let bad := c.pc ≠ s.exec.hdr + 8 ∨ s.exec.elastic = false ∨ s.exec.join = none
        ∨ ∃ g, w.region = some g ∧ s.round w < g.exit
      (bad → t = s.takeTrap (s.act (.elb imm)) (trapOf 0x01)) ∧
      ∀ j, s.exec.join = some j → ¬ bad →
        let v := { w with region := some ⟨s.round w + imm.toNat, j, (w.th (lowLane c.lanes)).depth⟩ }
        (s.updWave c.uid fun _ => v).WentFrom t c v

/-- 06 R129, R130, 13 R267: NOP, FENCE at its issue, and ELB. -/
def Obligations.NopFenceElb : Prop :=
  Sys2Proof.Claims.NoEffect ∧
  Sys2Proof.Claims.ElasticBegin

/-! ## Wave, reduction and barrier instructions (08) -/

/-- 08 R165, R166, R168, R169: IDRD, SHFL, BCAST and ACTM. -/
def Sys2Proof.Claims.LaneValues : Prop :=
  ∀ (s : State) (c : Cur) (w : Wave) (r : RForm) (i : Instr) (dk : Nat) (f : Nat → Nat),
    (i, dk, f) ∈ laneRule s c w r (s.act i) → s.Issues i c w →
    ∃ n val, exec i s = .next n
      ∧ s.Yields n c w (s.resultAt c w (s.act i) 1 (w.regsAt r.d dk) (w.dst r.d dk (s.act i) val)) w.hold
      ∧ ∀ l, l < 32 → s.act i ≠ 0 → val l = f l

/-- 08 R167: VOTE over the Active lanes. -/
def Sys2Proof.Claims.Vote : Prop :=
  ∀ (s : State) (c : Cur) (w : Wave) (r : RForm) (op : VoteOp), s.Issues (.vote op r) c w →
    let act := s.act (.vote op r)
    let on := fun l => l < 32 ∧ act.getLsbD l = true
    ∃ n, exec (.vote op r) s = .next n ∧
      match op with
      | .ballot => ∃ m : W32, (∀ l, l < 32 → (m.getLsbD l = true ↔ on l ∧ w.cond r.a l = true))
          ∧ s.Yields n c w (s.resultAt c w act 1 (w.regsAt r.d 1) (w.dst r.d 1 act fun _ => m.toNat)) w.hold
      | _ => ∃ b : Bool, s.Yields n c w (s.resultAt c w act 1 (w.regsAt r.d 1) (w.dstBool r.d act fun _ => b)) w.hold
          ∧ match op with
            | .all => b = true ↔ ∀ l, on l → w.cond r.a l = true
            | .any => b = true ↔ ∃ l, on l ∧ w.cond r.a l = true
            | .uni => b = true ↔ ∀ l k, on l → on k →
                (match r.a with | .m _ => w.cond r.a l = w.cond r.a k | o => w.word o 0 l = w.word o 0 k)
            | .ballot => True

/-- 08 R165 to R169: IDRD, SHFL, BCAST, ACTM and VOTE. -/
def Obligations.LaneInstructions : Prop :=
  Sys2Proof.Claims.LaneValues ∧
  Sys2Proof.Claims.Vote

/-- 08 R171, 02 R43 to R45: WRED writes the canonical tree of the values of the Active lanes, in ascending lane order; WSCAN
writes each lane the tree of those up to it, or below it; the integer nodes raise no flag. -/
def Sys2Proof.Claims.WaveReductions : Prop :=
  ∀ (s : State) (c : Cur) (w : Wave) (t : RType) (op : RedOp) (r : RForm) (excl : Bool),
    let vals := fun (ls : List Nat) => ls.map fun l => w.rd r.a t.regs l % 2 ^ rtBits t
    let isInt := t = .i32 ∨ t = .ui32
    let act := s.act (.wred t op r)
    (s.Issues (.wred t op r) c w →
      (act = 0 → ∃ n, exec (.wred t op r) s = .next n ∧ s.WentFrom n c w) ∧
      (act ≠ 0 → ∃ n x, redTree t op (vals (lanesOf act)) = some x ∧ exec (.wred t op r) s = .next n
        ∧ let wr := w.dst r.d t.regs act fun _ => x.1
          (isInt → s.Yields n c w (s.resultAt c w act 3 (w.regsAt r.d t.regs) wr) w.hold) ∧
          (¬ isInt → s.Yields n c w (s.flResultAt c w act 3 (w.regsAt r.d t.regs) wr fun _ => x.2) (s.flHold w act 3)))) ∧
    let act := s.act (.wscan t op excl r)
    let at' := fun l => prefixOf t op (vals ((lanesOf act).filter fun k => if excl then k < l else k ≤ l))
    (s.Issues (.wscan t op excl r) c w →
      ∃ n val fl, exec (.wscan t op excl r) s = .next n
        ∧ (∀ l, l < 32 → act.getLsbD l = true → val l = (at' l).1)
        ∧ (∀ i, fl.getLsbD i = (lanesOf act).any fun l => (at' l).2.getLsbD i)
        ∧ let wr := w.dst r.d t.regs act val
          (isInt → s.Yields n c w (s.resultAt c w act 3 (w.regsAt r.d t.regs) wr) w.hold) ∧
          (¬ isInt → s.Yields n c w (s.flResultAt c w act 3 (w.regsAt r.d t.regs) wr fun _ => fl) (s.flHold w act 3)))

/-- 08 R171 with 02 R43: an integer reduction over any number of lanes is the sum modulo 2^32, or the least or greatest of
the values. -/
def Sys2Proof.Claims.IntegerReductions : Prop :=
  ∀ (t : RType) (ty : IType) (vs : List Nat), (t, ty) ∈ [(RType.i32, IType.i32), (.ui32, .ui32)] → vs ≠ [] →
    vs.length ≤ 32 → (∀ v ∈ vs, v < 2 ^ 32) →
    redTree t .sum vs = some ((vs.foldl (· + ·) 0) % 2 ^ 32, 0) ∧
    (∃ v ∈ vs, redTree t .min vs = some (v, 0) ∧ ∀ u ∈ vs, ival ty v ≤ ival ty u) ∧
    ∃ v ∈ vs, redTree t .max vs = some (v, 0) ∧ ∀ u ∈ vs, ival ty u ≤ ival ty v

/-- 02 R43, R44: the canonical tree by position. Each level combines entries 2i and 2i + 1 of the one below into entry i, and an
odd last entry passes up as it is; a node keeps the flags of both sides beside its own. A float sum node is the RNE sum of its
two inputs, and a minimum or maximum node gives the NaN of either, else the lesser or greater of the two. -/
def Sys2Proof.Claims.ReductionTree : Prop :=
  (∀ (t : RType) (op : RedOp) (vs : List Nat), vs.length ≤ 2 ^ 16 →
    let node := fun (x y : Nat × Fl) => let r := redNode t op x.1 y.1; (r.1, x.2 ||| y.2 ||| r.2)
    ∃ ls : Nat → List (Nat × Fl), ls 0 = (vs.map fun v => (v, 0)) ∧ redTree t op vs = (ls 16)[0]? ∧
      ∀ k, (ls (k + 1)).length = ((ls k).length + 1) / 2 ∧ ∀ i,
        (2 * i + 1 < (ls k).length → ∃ x y, (ls k)[2 * i]? = some x ∧ (ls k)[2 * i + 1]? = some y ∧ (ls (k + 1))[i]? = some (node x y)) ∧
        (2 * i + 1 = (ls k).length → (ls (k + 1))[i]? = (ls k)[2 * i]?)) ∧
  ∀ (t : RType) (ft : FType) (a b : Nat), (t, ft) ∈ [(RType.f, FType.f), (.d, .d), (.h, .h), (.bf, .bf)] →
    let f := ftype ft
    redNode t .sum a b = fAdd ft .rne false a b ∧
    (∀ g, f.read a = .nan g ∨ f.read b = .nan g →
      let x := (f.nan, if f.read a = .nan true ∨ f.read b = .nan true then fInvalid else 0)
      redNode t .min a b = x ∧ redNode t .max a b = x) ∧
    ((∀ g, f.read a ≠ .nan g ∧ f.read b ≠ .nan g) → a < 2 ^ f.bits → b < 2 ^ f.bits →
      redNode t .min a b = fMinMax ft false a b ∧ redNode t .max a b = fMinMax ft true a b)

/-- 08 R171, 02 R43 to R45: WRED and WSCAN. -/
def Obligations.Reductions : Prop :=
  Sys2Proof.Claims.WaveReductions ∧
  Sys2Proof.Claims.ReductionTree ∧
  Sys2Proof.Claims.IntegerReductions

/-- 08 R172, R173: a barrier object reads back as written, and no byte outside its first twelve changes. -/
def Sys2Proof.Claims.BarrierObject : Prop :=
  ∀ (s : State) (b : Block) (i : Nat) (o : Bar), s.mem.wf = true → o.expected < 2 ^ 24 → o.arrived < 2 ^ 24 →
    o.flags < 256 → o.state < 256 → o.gen < 2 ^ 32 →
    (s.setBar b i o).bar b i = o ∧ (s.setBar b i o).mem.wf = true ∧
    ∀ k, (k < s.barKey b i ∨ s.barKey b i + 12 ≤ k) → (s.setBar b i o).mem.byte k = s.mem.byte k

/-- 08 R176: an arrival is refused at an object that is not armed or would pass its expected count; otherwise it is counted,
the flags are gathered, and the arrival that reaches the expected count completes the generation. -/
def Sys2Proof.Claims.BarrierArrival : Prop :=
  ∀ (s : State) (b : Block) (i k fl : Nat), s.mem.wf = true → fl < 32 →
    let o := s.bar b i
    (s.arrive b i k fl = none ↔ o.state ≠ 1 ∨ o.expected < o.arrived + k) ∧
    ∀ t, s.arrive b i k fl = some t →
      t.bar b i = (if o.arrived + k = o.expected then
          { o with arrived := 0, flags := o.flags ||| fl, gen := (o.gen + 1) % 2 ^ 32 }
        else { o with arrived := o.arrived + k, flags := o.flags ||| fl })
      ∧ ∀ a, (a < s.barKey b i ∨ s.barKey b i + 12 ≤ a) → t.mem.byte a = s.mem.byte a

/-- 08 R172, R173, R176: the barrier object, and an arrival at it. -/
def Obligations.BarrierState : Prop :=
  Sys2Proof.Claims.BarrierObject ∧
  Sys2Proof.Claims.BarrierArrival

/-- 08 R174 to R179: the barrier instructions: nothing with no lane Active, the barrier-state trap in the stated cases, and
otherwise their effect on the object, the wait, or the field read. -/
def Obligations.Barriers : Prop :=
  ∀ (s : State) (c : Cur) (w : Wave) (b : Fin 32) (r : RForm) (fd : BrField),
    let o := s.bar (s.blk w) b.val
    let trap : Trap := ⟨0x07, b.val, fun _ => none⟩
    let waited := s.barWaits (s.blk w).bid b.val = true
    (s.Issues (.binit b r) c w → ∃ t, exec (.binit b r) s = .next t ∧
      let act := s.act (.binit b r)
      let n := w.rd r.b 1 (lowLane act)
      if act = 0 then s.WentFrom t c w
      else if n = 0 ∨ n > 16777215 ∨ (o.state = 1 ∧ (o.arrived ≠ 0 ∨ waited)) then t = s.takeTrap act trap
      else (s.setBar (s.blk w) b.val ⟨n, 0, 0, 1, o.gen⟩).WentFrom t c w) ∧
    (s.Issues (.barv b r) c w → ∃ t, exec (.barv b r) s = .next t ∧
      let act := s.act (.barv b r)
      if act = 0 then s.WentFrom t c w
      else match s.arrive (s.blk w) b.val (countLanes act) (w.flagsOf act) with
        | none => t = s.takeTrap act trap
        | some u => u.Yields t c w (s.resultAt c w act 1 (w.regsAt r.d 1) (w.dst r.d 1 act fun _ => o.gen)) w.hold) ∧
    (s.Issues (.barw b r) c w → ∃ t, exec (.barw b r) s = .next t ∧
      let act := s.act (.barw b r)
      if act = 0 then s.WentFrom t c w
      else match s.arrive (s.blk w) b.val (countLanes act) (w.flagsOf act) with
        | none => t = s.takeTrap act trap
        | some u =>
          if (u.bar (s.blk w) b.val).gen = o.gen then
            (u.updWave c.uid fun _ => w.barWaiting c b.val o.gen).WentFrom t c (w.barWaiting c b.val o.gen)
          else u.WentFrom t c w) ∧
    (s.Issues (.bwait b r) c w → ∃ t, exec (.bwait b r) s = .next t ∧
      let act := s.act (.bwait b r)
      let tok := w.rd r.b 1 (lowLane act)
      if act = 0 then s.WentFrom t c w
      else if o.state ≠ 1 then t = s.takeTrap act trap
      else if o.gen = tok then
        (s.updWave c.uid fun _ => w.barWaiting c b.val tok).WentFrom t c (w.barWaiting c b.val tok)
      else s.WentFrom t c w) ∧
    (s.Issues (.binval b r) c w → ∃ t, exec (.binval b r) s = .next t ∧
      let act := s.act (.binval b r)
      if act = 0 then s.WentFrom t c w
      else if o.arrived ≠ 0 ∨ waited then t = s.takeTrap act trap
      else (s.setBar (s.blk w) b.val { o with state := 0 }).WentFrom t c w) ∧
    (s.Issues (.brdf fd b r) c w → ∃ t, exec (.brdf fd b r) s = .next t ∧
      let act := s.act (.brdf fd b r)
      let v := match fd with
        | .gen => o.gen | .arr => o.arrived | .exp => o.expected | .flg => o.flags | .st => o.state
      if act = 0 then s.WentFrom t c w
      else s.Yields t c w (s.resultAt c w act 3 (w.regsAt r.d 1) (w.dst r.d 1 act fun _ => v)) w.hold)

/-! ## Memory instructions (06, 13) -/

/-- 06 R131 to R137, 13 R263, R268 to R273, 01 R23: a load, store, gather, scatter or atomic that passes its checks puts one
access in flight with its lanes, addresses and data, the new value of a CAS and the redirect word of a REDX, its latency by
space, its destination registers, its flag, and the accesses that it follows; and goes on. No byte changes yet. With a check
failing it takes that trap. -/
def Sys2Proof.Claims.AccessInFlight : Prop :=
  ∀ (s : State) (c : Cur) (w : Wave) (sx a64 rp : Bool) (op : AtomOp) (m : MForm) (i : Instr) (k : AccKind),
    (i, k) ∈ accessRule sx a64 rp op m → s.Issues i c w →
    let act := s.act i
    let ls := s.laneLooks k act
    let u := s.reportBad w (ls.map fun x => x.look.seen)
    ∃ t, exec i s = .next t ∧
      match s.accTrap i k ls with
      | some tr => t = u.takeTrap act tr
      | none =>
        let v := if s.isOrdered i k.m then w.counted act else w
        (∃ a runs, ((u.addAccess a k.need.wr runs).updWave c.uid fun _ => v).WentFrom t c v
          ∧ a.IssuedBy s i c w act k.m.flagged (ls.map fun x =>
              (x.lane, x.look.loc.getD (.pad 0), x.look.withheld || x.look.loc.isNone, w.rd k.m.d k.m.sz.regs x.lane))
          ∧ a.lat = (if k.atomic then 18 else match k.m.space with
              | .slice => 1 | .cluster => 3 | .peer => 6 | .die => 10 | .main => 200)
          ∧ (s.isOrdered i k.m = false →
              (∀ n, k.m.d = .v n → a.dreg = n.val) ∧ (∀ n, k.m.d = .vx n → a.dreg = w.x.toNat + n.val)
              ∧ (∀ n, k.m.d = .s n → a.dreg = n.val)
              ∧ (i = .cas m ∨ i = .redx op m → ∀ x ∈ a.lanes, x.aux = w.rdFrom m.d m.sz.regs (if i = .cas m then m.sz.regs else 1) x.lane))
          ∧ a.regs = (if i ∈ [.ld sx a64 m, .lds sx a64 m, .gath sx rp m, .atom op m, .cas m] then w.regsAt m.d m.sz.regs else [])
              ++ (match m.b with | some n => [.m n.val] | none => [])
          ∧ a.flag = (if k.m.flagged then s.exec.setA else 15)
          ∧ ∀ n, n ∈ a.after ↔ ∃ e ∈ s.accs, e.id = n ∧ e.uid = c.uid ∧ e.path &&& c.lanes ≠ 0 ∧ e.effected = false
              ∧ e.mainSpace = true ∧ if a.cls1 then e.touches a = true ∨ (e.cls1 = false ∧ e.stores = true)
                else e.cls1 = false ∧ e.stores = true ∧ e.sharesGranule a = true)
        ∧ (∀ key, t.mem.byte key = s.mem.byte key)
        ∧ ls.map LaneLook.lane = (if k.scalar then (lanesOf act).take 1
            else (lanesOf act).filter fun l => !(k.rp && (w.mreg ((k.m.b.map Fin.val).getD 0)).getLsbD l))
        ∧ ∀ x ∈ ls, x.ea < 2 ^ 64 ∧
            ((x.ea : Int) - (w.rd k.m.a k.aregs x.lane + k.m.off.toInt * k.m.sz.bytes))
              % (if k.m.space = .main then 2 ^ 64 else 2 ^ 32) = 0

/-- 06 R138, 13 R262, R273, R274, 08 R181: misalignment comes before protection, then class mismatch, ordered mode,
non-residency, a lost peer, and the barrier-overwrite test: a store or atomic of which a byte that it would write lies in an
object in state 1 of a block that stands. REDX makes the tests of its redirect words beside those of its addresses. -/
def Sys2Proof.Claims.AccessTraps : Prop :=
  ∀ (s : State) (i : Instr) (k : AccKind) (ls : List LaneLook),
    let n := k.m.sz.bytes
    let red := fun (x : LaneLook) (p : Redir → Prop) => isRedx i = true ∧ p (redirOf (s.w.rdFrom k.m.d k.m.sz.regs 1 x.lane))
    let live := fun (p : Nat) => ∃ b ∈ s.blocks, b.lost = false ∧ b.retired = false ∧ ∃ j, j < (s.grd b).l.barriers
      ∧ p < s.barKey b j + 16 ∧ s.barKey b j < p + n ∧ (s.bar b j).state = 1
    let mis := ∃ x ∈ ls, x.ea % n ≠ 0 ∨ red x fun r => r.off % n ≠ 0
    let prot := ∃ x ∈ ls, x.look.refused = true
      ∨ red x fun r => s.g.members s.b.bl ≤ r.rank ∨ s.g.l.cbytes < r.off + n ∨ s.g.l.barriers ≤ r.bar
    let cls := ∃ x ∈ ls, x.look.mismatch = true
    let ord := s.g.l.ordered = true ∧ k.m.space = .main ∧ k.atomic = true ∧ (∀ op m, i ≠ .red op m) ∧ ls ≠ []
    let abs := k.m.b = none ∧ ∃ x ∈ ls, x.look.absent = true
    let lost := k.m.b = none ∧ ∃ x ∈ ls, x.look.lost.isSome = true
    (mis → s.accTrap i k ls = some (trapOf 0x10)) ∧
    (¬ mis → prot → s.accTrap i k ls = some (trapOf 0x0E)) ∧
    (¬ mis → ¬ prot → cls → s.accTrap i k ls = some (trapOf 0x0F)) ∧
    (¬ mis → ¬ prot → ¬ cls → ord → s.accTrap i k ls = some (trapOf 0x13)) ∧
    (¬ mis → ¬ prot → ¬ cls → ¬ ord → abs → s.accTrap i k ls = some (trapOf 0x0D)) ∧
    (¬ mis → ¬ prot → ¬ cls → ¬ ord → ¬ abs → lost → ∃ t, s.accTrap i k ls = some t ∧ t.cause = 0x0C) ∧
    let overwrites := k.need.wr = true ∧ ∃ x ∈ ls, (∃ p, x.look.loc = some (.pad p) ∧ x.look.withheld = false ∧ live p)
      ∨ red x fun r => ∃ b p, s.redirKey s.b.bid r = some (b, p) ∧ live p
    (¬ mis → ¬ prot → ¬ cls → ¬ ord → ¬ abs → ¬ lost → overwrites → s.accTrap i k ls = some (trapOf 0x06)) ∧
    (¬ mis → ¬ prot → ¬ cls → ¬ ord → ¬ abs → ¬ lost → ¬ overwrites → s.accTrap i k ls = none)

/-- 06 R131 to R138, 13 R262: the issue of an access, and the order of its traps. -/
def Obligations.AccessIssue : Prop :=
  Sys2Proof.Claims.AccessInFlight ∧
  Sys2Proof.Claims.AccessTraps

/-- 13 R264 to R266: PGREQ and DSCD put one class-1 access in flight for the distinct pages of their lanes, or take the
protection trap; PGQRY writes the status word of each lane's address. -/
def Sys2Proof.Claims.PageInstructions : Prop :=
  ∀ (s : State) (c : Cur) (w : Wave) (wr : Bool) (m : MForm),
    let pages := fun (ls : List (Nat × Seen)) => sortNat (ls.map fun x => x.1 / 65536).eraseDups
    (s.Issues (.pgreq wr m) c w →
      let act := s.act (.pgreq wr m)
      let ls := s.pageLooks m act
      let u := s.reportBad w (ls.map Prod.snd)
      ∃ t, exec (.pgreq wr m) s = .next t ∧
        if ls.any fun x => pageRefused wr x.2 then t = u.takeTrap act (trapOf 0x0E)
        else if act = 0 then u.WentFrom t c w
        else ∃ a, ((u.addAccess a false []).report (waveEv 0 w (s.grd (s.blk w)) [s.nextUid])).WentFrom t c w
          ∧ a.i = .pgreq wr m ∧ a.cls1 = true ∧ a.lanes.map (fun x => x.data / 65536) = pages ls) ∧
    (s.Issues (.dscd m) c w →
      let act := s.act (.dscd m)
      let ls := s.pageLooks m act
      let u := s.reportBad w (ls.map Prod.snd)
      ∃ t, exec (.dscd m) s = .next t ∧
        if ls.any fun x => pageRefused false x.2 || dscdRefused x.2 then t = u.takeTrap act (trapOf 0x0E)
        else if act = 0 then u.WentFrom t c w
        else ∃ a runs, (u.addAccess a true runs).WentFrom t c w
          ∧ a.i = .dscd m ∧ a.cls1 = true ∧ a.lanes.map (fun x => x.data / 65536) = pages ls) ∧
    (s.Issues (.pgqry m) c w →
      let act := s.act (.pgqry m)
      let u := s.reportBad w ((s.pageLooks m act).map Prod.snd)
      ∃ t, exec (.pgqry m) s = .next t
        ∧ u.Yields t c w (s.resultAt c w act 1 (w.regsAt m.d 1)
            (w.dst m.d 1 act fun l => s.pgqryWord w (w.pageEa m l))) w.hold)

/-- 13 R276, R279: ORDFL closes the window of its threads in a grid of ordered mode, and only goes on elsewhere. -/
def Sys2Proof.Claims.OrderedFlush : Prop :=
  ∀ (s : State) (c : Cur) (w : Wave) (r : RForm), s.Issues (.ordfl r) c w →
    let act := s.act (.ordfl r)
    ∃ t, exec (.ordfl r) s = .next t ∧
      if (s.grd (s.blk w)).l.ordered = true ∧ act ≠ 0 then
        let v := w.updTh act fun _ t => { t with window := t.window + 1, seq := 0 }
        ∃ a, ((s.addAccess a false []).updWave c.uid fun _ => v).WentFrom t c v
          ∧ a.IssuedBy s (.ordfl r) c w act true [] ∧ a.wnum = (lanesOf act).map fun l => (l, (w.th l).window)
      else s.WentFrom t c w

/-- 13 R264 to R266, R276, R279: page instructions, and ORDFL. -/
def Obligations.PagesAndWindows : Prop :=
  Sys2Proof.Claims.PageInstructions ∧
  Sys2Proof.Claims.OrderedFlush

/-! ## Matrix engines, cards and semaphores (09, 17) -/

/-- 09 R189, R192, R198, R199: an MMA or MMASP that passes its checks puts one operation in flight with its fragment, which
the A-latch then holds. -/
def Sys2Proof.Claims.MatrixIssue : Prop :=
  ∀ (s : State) (c : Cur) (w : Wave) (sparse z : Bool) (k : Fin 16) (r : RForm) (i : Instr),
    i = (if sparse then .mmasp z k r else .mma z k r) → s.Issues i c w →
    let act := s.act i
    ∃ t, exec i s = .next t ∧
      match mmaTrap sparse r s act with
      | some tr => t = s.takeTrap act tr
      | none =>
        if act = 0 then s.WentFrom t c w
        else ∃ m : Mma,
          let v := { w with latch := some m.a }
          (({ s with mmas := s.mmas ++ [m] } : State).updWave c.uid fun _ => v).WentFrom t c v
          ∧ m.uid = c.uid ∧ m.cl = w.cl ∧ m.round = s.round w ∧ m.sparse = sparse ∧ m.z = z ∧ m.tile = k.val
          ∧ m.latched = none ∧ m.boff = (w.word r.b 0 (lowLane act)).toNat
          ∧ (r.reuse = true → w.latch = some m.a)
          ∧ (r.reuse = false → ∀ row b, row < 16 → b < 192 →
              m.a[192 * row + b]? = some (w.fragByte ((w.vnum r.a).getD 0) row b))

/-- 09 R200 to R204: TZERO, TFLG and LREL put their result in flight; TLD and TST their transfer. -/
def Sys2Proof.Claims.TileInstructions : Prop :=
  ∀ (s : State) (c : Cur) (w : Wave) (fm : TileFmt) (k : Fin 16) (r : RForm) (op : TflgOp),
    (s.Issues (.tzero k r) c w → ∃ t, exec (.tzero k r) s = .next t ∧
      if s.act (.tzero k r) = 0 then s.WentFrom t c w
      else s.Yields t c w (s.resultAt c w (s.act (.tzero k r)) 1 [.tile k.val] [.tileZero k.val]) w.hold) ∧
    (s.Issues (.lrel r) c w → ∃ t, exec (.lrel r) s = .next t ∧
      if s.act (.lrel r) = 0 then s.WentFrom t c w
      else s.Yields t c w (s.resultAt c w (s.act (.lrel r)) 1 [] [.latchOff]) w.hold) ∧
    (s.Issues (.tflg op k r) c w → ∃ t, exec (.tflg op k r) s = .next t ∧
      let act := s.act (.tflg op k r)
      if act = 0 then s.WentFrom t c w
      else match op with
        | .rd => s.Yields t c w (s.resultAt c w act 1 (w.regsAt r.d 1) (tflgDst w k.val r.d act)) w.hold
        | .clr => s.Yields t c w (s.resultAt c w act 1 [.tile k.val] [.tileClr k.val]) w.hold
        | .rdc => s.Yields t c w (s.resultAt c w act 1 (.tile k.val :: w.regsAt r.d 1)
            (tflgDst w k.val r.d act ++ [.tileClr k.val])) w.hold
        | .mrg => s.Yields t c w { s.flResultAt c w act 1 [] [] (fun _ => 0) with mrg := some k.val } (s.flHold w act 1)) ∧
    ∀ (st : Bool) (i : Instr), i = (if st then .tst fm k r else .tld fm k r) → s.Issues i c w →
      let act := s.act i
      ∃ t, exec i s = .next t ∧
        match tileTrap fm st r s act with
        | some tr => t = s.takeTrap act tr
        | none =>
          if act = 0 then s.WentFrom t c w
          else ∃ m : TileMove, ({ s with moves := s.moves ++ [m] } : State).WentFrom t c w
            ∧ m.uid = c.uid ∧ m.cl = w.cl ∧ m.bid = w.bid ∧ m.store = st ∧ m.fm = fm ∧ m.tile = k.val
            ∧ m.round = s.round w ∧ m.img = none ∧ m.done = false ∧ m.off = w.rd r.a 1 (lowLane act)

/-- 09 R189 to R204: the matrix instructions. -/
def Obligations.MatrixInstructions : Prop :=
  Sys2Proof.Claims.MatrixIssue ∧
  Sys2Proof.Claims.TileInstructions

/-- 17 R311, R313, R314: CPYJ, GATJ and DGSTJ read their card, join it to the wave's queue and write its handle in round 1,
or take the first trap of the card; the 64 bytes are those read in the first cycle of the slot. -/
def Sys2Proof.Claims.CardIssue : Prop :=
  ∀ (s : State) (c : Cur) (w : Wave) (r : RForm) (i : Instr) (kind : Nat),
    (i, kind) ∈ [(Instr.cpyj r, 1), (.gatj r, 2), (.dgstj r, 3)] → s.Issues i c w →
    let act := s.act i
    let n := w.cards[kind - 1]?.getD 0
    ∃ t, exec i s = .next t ∧
      match cardTrap kind r s act with
      | some tr => t = s.takeTrap act tr
      | none =>
        if act = 0 then s.WentFrom t c w
        else ∃ (d : Card) (v : Wave), v = { w with cards := w.cards.setIfInBounds (kind - 1) (n + 1) }
          ∧ (({ s with cards := s.cards ++ [d] } : State).updWave c.uid fun _ => v).Yields t c v
              (s.resultAt c w act 1 (w.regsAt r.d 1) (w.dst r.d 1 act fun _ => d.handle.toNat)) w.hold
          ∧ d.kind = kind ∧ d.uid = c.uid ∧ d.cl = w.cl ∧ d.handle.toNat = kind * 2 ^ 30 + n % 2 ^ 30
          ∧ d.round = s.round w ∧ d.started = false ∧ d.code = none
          ∧ d.word = s.cardWord w (w.rd r.a 1 (lowLane act))
          ∧ (w.latched = [] → d.word = BitVec.ofNat 512 (ofBytes (s.mem.read
              (cpadKey w.cl ((s.blk w).cbase + w.rd r.a 1 (lowLane act))) 64)))

/-- 17 R323: JCAN cancels a card of its wave that has not started, and says in round 3 whether it did. -/
def Sys2Proof.Claims.CardCancel : Prop :=
  ∀ (s : State) (c : Cur) (w : Wave) (r : RForm), s.Issues (.jcan r) c w →
    let act := s.act (.jcan r)
    let p := fun (d : Card) => d.uid == c.uid && d.handle.toNat == w.rd r.a 1 (lowLane act) && s.unstarted d
    let res := fun (v : Nat) => s.resultAt c w act 3 (w.regsAt r.d 1) (w.dst r.d 1 act fun _ => v)
    ∃ t, exec (.jcan r) s = .next t ∧
      if act = 0 then s.WentFrom t c w
      else match s.cards.find? p with
        | none => s.Yields t c w (res 0) w.hold
        | some d => (s.closeCard d).Yields t c w (res 1) w.hold
            ∧ t.cards = s.cards.filter fun e => !(e.uid == d.uid && e.handle == d.handle)

/-- 17 R311 to R314, R323: cards and JCAN. -/
def Obligations.CardInstructions : Prop :=
  Sys2Proof.Claims.CardIssue ∧
  Sys2Proof.Claims.CardCancel

/-- 17 R310, R324 to R328: a semaphore instruction of a partition that does not own the semaphore takes the protection trap;
otherwise SEMADD adds with saturation at both ends, SEMSET sets and clears the status, SEMRD reads, and SEMWT waits: its
condition is tested after every update of the cycle (`WaitsEnd`). -/
def Sys2Proof.Claims.Semaphores : Prop :=
  ∀ (s : State) (c : Cur) (w : Wave) (r : RForm) (k : Fin 64) (st : Bool),
    let m := (s.cluster w.cl).sem k.val
    let mine := s.owns w.cl k.val (s.grd (s.blk w)).part = true
    let run := fun (i : Instr) (t : State) (p : Prop) =>
      if s.act i = 0 then s.WentFrom t c w
      else (¬ mine → t = s.takeTrap (s.act i) (trapOf 0x0E)) ∧ (mine → p)
    let b := fun (i : Instr) => w.rd r.b 1 (lowLane (s.act i))
    (s.Issues (.semadd k r) c w → ∃ t, exec (.semadd k r) s = .next t ∧ run (.semadd k r) t
      (let sum := (m.count.toNat : Int) + (BitVec.ofNat 32 (b (.semadd k r))).toInt
       ∃ n : Sem, (s.updSem w.cl k.val fun _ => n).WentFrom t c w ∧ n.owner = m.owner ∧ n.fail = m.fail
        ∧ (n.count.toNat : Int) = max 0 (min sum 4294967295)
        ∧ n.ovf = (m.ovf || decide (sum < 0) || decide (4294967295 < sum)))) ∧
    (s.Issues (.semset k r) c w → ∃ t, exec (.semset k r) s = .next t ∧ run (.semset k r) t
      ((s.updSem w.cl k.val fun _ => { m with count := BitVec.ofNat 32 (b (.semset k r)), fail := false, ovf := false }).WentFrom
        t c w)) ∧
    (s.Issues (.semrd st k r) c w → ∃ t, exec (.semrd st k r) s = .next t ∧ run (.semrd st k r) t
      (s.Yields t c w (s.resultAt c w (s.act (.semrd st k r)) 3 (w.regsAt r.d 1)
        (w.dst r.d 1 (s.act (.semrd st k r)) fun _ => if st then m.status else m.count.toNat)) w.hold)) ∧
    (s.Issues (.semwt k r) c w → ∃ t, exec (.semwt k r) s = .next t ∧ run (.semwt k r) t
      (let th := BitVec.ofNat 32 (b (.semwt k r))
       let v := w.semWaiting c s k.val th (sDstOf r.d)
       (s.updWave c.uid fun _ => v).WentFrom t c v))

/-- 17 R329, R330: FLGRD reads the block's completion flags; FLGCLR clears the flags that A names. -/
def Sys2Proof.Claims.CompletionFlags : Prop :=
  ∀ (s : State) (c : Cur) (w : Wave) (r : RForm),
    (s.Issues (.flgrd r) c w → ∃ t, exec (.flgrd r) s = .next t
      ∧ s.Yields t c w (s.resultAt c w (s.act (.flgrd r)) 1 (w.regsAt r.d 1)
          (w.dst r.d 1 (s.act (.flgrd r)) fun _ => (s.flagsNow (s.blk w)).toNat)) w.hold) ∧
    (s.Issues (.flgclr r) c w → ∃ t, exec (.flgclr r) s = .next t ∧
      let act := s.act (.flgclr r)
      if act = 0 then s.WentFrom t c w
      else s.Yields t c w (s.resultAt c w act 1 [] [.flagClr (BitVec.ofNat 32 (w.rd r.a 1 (lowLane act)) &&& 0xFFF)])
        w.hold)

/-- 17 R310, R324 to R330: semaphores and completion flags. -/
def Obligations.SemaphoresAndFlags : Prop :=
  Sys2Proof.Claims.Semaphores ∧
  Sys2Proof.Claims.CompletionFlags

/-! ## Fabric instructions (20 R419 to R425) -/

/-- 20 R420 to R422, R425: TREADY sets the ready flag of its entry, TSTAT reads its state word, FOLRD a value of the schedule. -/
def Sys2Proof.Claims.FabricReads : Prop :=
  ∀ (s : State) (c : Cur) (w : Wave) (r : RForm) (k : FolSel),
    let p := (s.grd (s.blk w)).part
    let e := fun (i : Instr) => w.rd r.a 1 (lowLane (s.act i))
    let run := fun (i : Instr) (t : State) (x : Prop) =>
      if s.act i = 0 then s.WentFrom t c w
      else if (s.part p).ttsize ≤ e i then t = s.takeTrap (s.act i) (trapOf 0x0E) else x
    (s.Issues (.tready r) c w → ∃ t, exec (.tready r) s = .next t ∧ run (.tready r) t
      ((s.updTent p (e (.tready r)) fun t => { t with ready := true }).WentFrom t c w)) ∧
    (s.Issues (.tstat r) c w → ∃ t, exec (.tstat r) s = .next t ∧ run (.tstat r) t
      (s.Yields t c w (s.resultAt c w (s.act (.tstat r)) 3 (w.regsAt r.d 1)
        (w.dst r.d 1 (s.act (.tstat r)) fun _ => (s.tent p (e (.tstat r))).stateWord)) w.hold)) ∧
    (s.Issues (.folrd k r) c w → ∃ t, exec (.folrd k r) s = .next t ∧
      let act := s.act (.folrd k r)
      let v := match k, s.fabric.plan with
        | .len, some q => q.p | .frm, some q => q.f | .g0, some q => q.g0 | .diam, some q => q.d
        | .fail, _ => match (s.grd (s.blk w)).began with
          | some b => min ((s.part p).fails.countP fun g => decide (b ≤ g)) (2 ^ 32 - 1)
          | none => 0
        | _, none => 0
      let n := if k = .g0 then 2 else 1
      if act = 0 then s.WentFrom t c w
      else s.Yields t c w (s.resultAt c w act 1 (w.regsAt r.d n) (w.dst r.d n act fun _ => v)) w.hold)

/-- 20 R423, R424: XLD and XST put one access of their entries' regions in flight, or take the first trap of the checks. -/
def Sys2Proof.Claims.FabricAccess : Prop :=
  ∀ (s : State) (c : Cur) (w : Wave) (st sx : Bool) (m : MForm) (i : Instr),
    i = (if st then .xst m else .xld sx m) → s.Issues i c w →
    let act := s.act i
    let ks := (lanesOf act).map fun l => s.entryLook m st l
    let p := (s.grd (s.blk w)).part
    ∃ t, exec i s = .next t ∧
      match entryAccTrap m ks with
      | some tr => t = s.takeTrap act tr
      | none => ∃ a runs, (s.addAccess a st runs).WentFrom t c w
          ∧ a.IssuedBy s i c w act m.flagged (ks.map fun k =>
              (k.lane, ((s.regionPlace p k.space k.place k.key k.base k.w.bytes).getD (.pad 0)).add (k.ea % 65536),
                k.withheld, w.rd m.d m.sz.regs k.lane))
          ∧ ∀ key, t.mem.byte key = s.mem.byte key

/-- 20 R420 to R425: the fabric instructions. -/
def Obligations.FabricInstructions : Prop :=
  Sys2Proof.Claims.FabricReads ∧
  Sys2Proof.Claims.FabricAccess

/-! ## System instructions (19, 07) -/

/-- 19 R366: TRAP takes the trap of its code, in its Active lanes. -/
def Sys2Proof.Claims.TrapInstruction : Prop :=
  ∀ (s : State) (c : Cur) (w : Wave) (code : BitVec 24), s.Issues (.trap code) c w →
    exec (.trap code) s = .next (s.takeTrap c.lanes ⟨0x14, code.toNat, fun _ => none⟩)

/-- 19 R362, R367: RTE outside the handler is illegal; a thread whose depth is not its depth at entry ends the block; else
the threads of the path leave the handler, each for its TADDR or the word after it, and the last of the wave to leave
ends the handler. -/
def Sys2Proof.Claims.ReturnFromTrap : Prop :=
  ∀ (s : State) (c : Cur) (w : Wave) (next : Bool) (r : RForm), s.Issues (.rte next r) c w →
    let on := fun l => l < 32 ∧ c.lanes.getLsbD l = true
    let dest := fun l => if next then (w.th l).tnext else (w.th l).taddr
    let others := ∃ l, l < 32 ∧ c.lanes.getLsbD l = false ∧ (w.th l).status = .run
    ∃ t, exec (.rte next r) s = .next t ∧
      (w.handler = false → t = s.takeTrap (s.act (.rte next r)) (trapOf 0x01)) ∧
      (w.handler = true → (∃ l, on l ∧ (w.th l).depth ≠ (w.th l).tdepth) →
        t.waves = s.waves.filter fun u => !s.waves.any fun v => v.bid == w.bid && v.uid == u.uid) ∧
      (w.handler = true → (∀ l, on l → (w.th l).depth = (w.th l).tdepth) →
        ∃ u, s.Returns t c w u ∧ (∀ l, on l → (u.th l).pc = dest l ∧ (u.th l).wait = (w.th l).twait
            ∧ (u.th l).depth = (w.th l).depth ∧ (u.th l).ths = (w.th l).ths ∧ (u.th l).rstack = (w.th l).rstack) ∧
          (others → u.handler = true ∧ ∀ l, on l → (u.th l).status = .left true) ∧
          (¬ others → u.handler = false ∧ ∀ l, on l → (u.th l).status = .run ∧ (u.th l).readyAt = s.round w + 2))

/-- 19 R363, R364, R368: RESTART outside the handler is illegal; a thread without a restart record ends the block with the
restart fault; a restart that reads a spill slot in uncorrectable groups finds them (12 R259); else each thread leaves the handler
for its restart point, at the depth recorded there. -/
def Sys2Proof.Claims.RestartInstruction : Prop :=
  ∀ (s : State) (c : Cur) (w : Wave) (r : RForm), s.Issues (.restart r) c w →
    let on := fun l => l < 32 ∧ c.lanes.getLsbD l = true
    let none' := ∃ l, on l ∧ (w.th l).restart = none
    let lost := s.spillsLost w (w.restartSlots c.lanes)
    let others := ∃ l, l < 32 ∧ c.lanes.getLsbD l = false ∧ (w.th l).status = .run
    ∃ t, exec (.restart r) s = .next t ∧
      (w.handler = false → t = s.takeTrap (s.act (.restart r)) (trapOf 0x01)) ∧
      (w.handler = true → none' →
        t.waves = s.waves.filter fun u => !s.waves.any fun v => v.bid == w.bid && v.uid == u.uid) ∧
      (w.handler = true → ¬ none' → lost ≠ [] → t = s.markIssue.found lost) ∧
      (w.handler = true → ¬ none' → lost = [] →
        ∃ u, s.Returns t c w u ∧ (∀ l, on l → ∀ h d, (w.th l).restart = some (h, d) →
            (u.th l).pc = h ∧ (u.th l).depth = d ∧ (u.th l).wait = .none ∧ (u.th l).ths = (w.th l).ths
              ∧ ((w.th l).depth < 8 → d ≤ (w.th l).depth → (w.th l).rstack.length = (w.th l).depth →
                (u.th l).rstack = (w.th l).rstack.drop ((w.th l).depth - d))) ∧
          (others → u.handler = true ∧ ∀ l, on l → (u.th l).status = .left false) ∧
          (¬ others → u.handler = false ∧ ∀ l, on l → (u.th l).status = .run))

/-- 19 R361, R366: TRAP completes: outside the handler of a launch that has one, every thread of the path stands at the handler
with its cause, its address and its depth kept, and nothing but its wave changes. -/
def Sys2Proof.Claims.TrapCompletes : Prop :=
  ∀ (s : State) (c : Cur) (w : Wave) (code : BitVec 24), s.Issues (.trap code) c w → w.handler = false →
    (s.grd (s.blk w)).l.handler ≠ 0 →
    ∃ t u, exec (.trap code) s = .next t ∧ t = { s with waves := modifyFirst (fun x => x.uid == c.uid) (fun _ => u) s.waves }
      ∧ u.core = { w.core with handler := true, savedJoins := w.joins, marks := [] } ∧ u.joins = [] ∧ u.pend = w.pend
      ∧ ∀ l, l < 32 → c.lanes.getLsbD l = true →
        (u.th l).pc = (s.grd (s.blk w)).l.handler ∧ (u.th l).ex = none ∧ (u.th l).status = .run
          ∧ (u.th l).tcause = BitVec.ofNat 32 (0x14 + 256 * code.toNat) ∧ (u.th l).taddr = c.pc
          ∧ (u.th l).tdepth = (w.th l).depth ∧ (u.th l).depth = (w.th l).depth ∧ (u.th l).ths = (w.th l).ths

/-- 19 R367: RTE completes: in the handler, with every thread of the path at its depth of entry, each leaves for its TADDR, or
with .next for the word after it; nothing but its wave and the completion flags changes. -/
def Sys2Proof.Claims.RteCompletes : Prop :=
  ∀ (s : State) (c : Cur) (w : Wave) (next : Bool) (r : RForm), s.Issues (.rte next r) c w → w.handler = true →
    (∀ l, l < 32 → c.lanes.getLsbD l = true → (w.th l).depth = (w.th l).tdepth) →
    ∃ t u, exec (.rte next r) s = .next t ∧ s.Returns t c w u
      ∧ ∀ l, l < 32 → c.lanes.getLsbD l = true →
        (u.th l).pc = (if next then (w.th l).tnext else (w.th l).taddr) ∧ (u.th l).wait = (w.th l).twait
          ∧ (u.th l).depth = (w.th l).depth ∧ (u.th l).ths = (w.th l).ths ∧ (u.th l).rstack = (w.th l).rstack
          ∧ ((u.th l).status = .run ∨ (u.th l).status = .left true)

/-- 19 R363, R364, R368: RESTART completes: in the handler, with a restart record in every thread of the path and no spill slot
that it reads uncorrectable, each leaves for its restart point at the depth recorded there; nothing but its wave and the
completion flags changes. -/
def Sys2Proof.Claims.RestartCompletes : Prop :=
  ∀ (s : State) (c : Cur) (w : Wave) (r : RForm), s.Issues (.restart r) c w → w.handler = true →
    (∀ l, l < 32 → c.lanes.getLsbD l = true → (w.th l).restart ≠ none) → s.spillsLost w (w.restartSlots c.lanes) = [] →
    ∃ t u, exec (.restart r) s = .next t ∧ s.Returns t c w u
      ∧ ∀ l, l < 32 → c.lanes.getLsbD l = true →
        some ((u.th l).pc, (u.th l).depth) = (w.th l).restart ∧ (u.th l).wait = .none ∧ (u.th l).ex = none
          ∧ (u.th l).ths = (w.th l).ths ∧ ((u.th l).status = .run ∨ (u.th l).status = .left false)

/-- 19 R367, R368: the join list of a wave whose last thread leaves the handler: the list set aside at the entry where every thread
left by RTE, and none otherwise; it is then settled (`JoinsSettle`). -/
def Sys2Proof.Claims.JoinsReturn : Prop :=
  ∀ (s : State) (c : Cur) (w : Wave) (next : Bool) (r : RForm) (i : Instr),
    (i = .rte next r ∧ ∀ l, l < 32 → c.lanes.getLsbD l = true → (w.th l).depth = (w.th l).tdepth) ∨
      (i = .restart r ∧ (∀ l, l < 32 → c.lanes.getLsbD l = true → (w.th l).restart ≠ none)
        ∧ s.spillsLost w (w.restartSlots c.lanes) = []) →
    s.Issues i c w → w.handler = true →
    (∀ l, l < 32 → c.lanes.getLsbD l = false → (w.th l).status ≠ .run) →
    ∃ (t : State) (u : Wave), exec i s = .next t ∧ t.waveOf c.uid = some (u.settleJoins (s.round w)) ∧ u.handler = false
      ∧ u.savedJoins = []
      ∧ let all := i = .rte next r ∧ ∀ l, l < 32 → (w.th l).status ≠ .left false
        (all → u.joins = w.savedJoins) ∧ (¬ all → u.joins = [])

/-- 19 R366 to R368: TRAP, RTE and RESTART: where each completes, and where it traps or ends its block. -/
def Obligations.HandlerInstructions : Prop :=
  Sys2Proof.Claims.TrapCompletes ∧
  Sys2Proof.Claims.RteCompletes ∧
  Sys2Proof.Claims.RestartCompletes ∧
  Sys2Proof.Claims.TrapInstruction ∧
  Sys2Proof.Claims.ReturnFromTrap ∧
  Sys2Proof.Claims.RestartInstruction ∧
  Sys2Proof.Claims.JoinsReturn

/-- 01 R13, 19 R369, R370, 11 R221: reading and writing control registers, and PKWR. -/
def Sys2Proof.Claims.ControlRegisters : Prop :=
  ∀ (s : State) (c : Cur) (w : Wave) (n : Csr) (o : Opnd) (r : RForm),
    let g := s.grd (s.blk w)
    (s.Issues (.csrrd n o) c w → ∃ t val, exec (.csrrd n o) s = .next t
      ∧ s.Yields t c w (s.resultAt c w c.lanes 1 (w.regsAt o n.regs) (w.dst o n.regs c.lanes val)) w.hold
      ∧ ∀ l, l < 32 → c.lanes.getLsbD l = true → match n with
        | .ths => val l = ((w.th l).ths ||| BitVec.ofNat 32 (w.th l).depth <<< 16).toNat
        | .tcause => val l = ((w.th l).tcause).toNat
        | .taddr => val l = ((w.th l).taddr).toNat
        | .winset => val l = g.l.winset
        | .pkr => val l = g.pkr.toNat
        | .cap => val l = s.mem.cap
        | .mapgen => val l = g.mapgen
        | .impgen => val l % 2 ^ 31 = s.mem.gen % 2 ^ 31 ∧ (2 ^ 31 ≤ val l ↔ s.mem.sweep.isSome = true)
        | .wvs => val l = s.wvs w) ∧
    (s.Issues (.csrwr n o) c w → ∃ t, exec (.csrwr n o) s = .next t ∧
      match n with
      | .ths => s.Yields t c w (s.resultAt c w c.lanes 1 [.ths]
          ((lanesOf c.lanes).map fun l => .ths l 0x1F1F (w.word o 0 l))) w.hold
      | .pkr => s.Yields t c w (s.resultAt c w c.lanes 1 []
          [.pkr (BitVec.allOnes 64) (BitVec.ofNat 64 (w.rd o 2 (lowLane c.lanes)))]) w.hold
      | _ => t = s.takeTrap c.lanes (trapOf 0x0E)) ∧
    (s.Issues (.pkwr r) c w → ∃ t, exec (.pkwr r) s = .next t ∧
      let act := s.act (.pkwr r)
      let k := w.rd r.a 1 (lowLane act) % 32
      if act = 0 then s.WentFrom t c w
      else s.Yields t c w (s.resultAt c w act 1 []
        [.pkr (3#64 <<< (2 * k)) (BitVec.ofNat 64 (w.rd r.b 1 (lowLane act) % 4) <<< (2 * k))]) w.hold)

/-- 07 R152, 19 R371, R372: QRD puts the value of its number in flight to a q-register; that of number 4 is the cluster's
temperature code (23 R450). QST stores a q-register through a quarantine window, as one class-1 access, or takes its trap (a malformed entry its
walk met is reported, 11 R218). -/
def Sys2Proof.Claims.QuarantinedValues : Prop :=
  ∀ (s : State) (c : Cur) (w : Wave) (q : Fin 8) (k : Fin 7) (m : MForm),
    (s.Issues (.qrd q k) c w →
      let sl := s.slice w.cl w.sl
      let lead := w.th (lowLane c.lanes)
      let v := match k.val with
        | 0 => s.cycle w.cl | 1 => sl.gc | 2 => sl.round
        | 3 => ((((w.cl / 8 * 8 + w.cl % 8) * 8 + w.sl) * 8 + w.slot) * 2 + w.bank) * 2 ^ 52
        | 4 => (s.host.temps[w.cl]?.getD 0).toNat
        | 5 => if lead.reanchor then s.round w else lead.anchor
        | _ => 2 ^ 61 * (s.cluster w.cl).pass + 2 ^ 60 * (sl.ratio - 1) + 2 ^ 52 * (s.cluster w.cl).clock
      ∃ t, exec (.qrd q k) s = .next t
        ∧ s.Yields t c w (s.resultAt c w c.lanes 1 [.q q.val] [.q q.val (BitVec.ofNat 64 v)]) w.hold) ∧
    (s.Issues (.qst q m) c w →
      let act := s.act (.qst q m)
      let ea := w.ea ⟨m, .write, true, 2, false, false⟩ (lowLane act)
      ∃ t, exec (.qst q m) s = .next t ∧
        if act = 0 then s.WentFrom t c w
        else match qstTrap s ea with
          | some tr => t = (s.reportBad w [s.seen w ea]).takeTrap act tr
          | none => ∃ a runs, (s.addAccess a true runs).WentFrom t c w
              ∧ a.IssuedBy s (.qst q m) c w act true
                [(lowLane act, ((s.seen w ea).loc).getD (.pad 0), false, (w.q[q.val]?.getD 0).toNat)])

/-- 01 R13, 07 R152, 19 R369 to R372: control registers, PKWR, QRD and QST. -/
def Obligations.StatusInstructions : Prop :=
  Sys2Proof.Claims.ControlRegisters ∧
  Sys2Proof.Claims.QuarantinedValues

/-! ## Graph code (18) -/

/-- 18 R335 to R337, R350, 03 R65: a boundary waits for the nodes outstanding; a reserved field, an entry at or above the
table size, a cluster that the partition lacks, and a condition word outside the graph region stop the graph; a guard that fails skips the node; a word of no node stops the graph with its code. -/
def Obligations.GraphTests : Prop :=
  ∀ (s : State) (g : Guard) (rel sten : Bool) (addr : BitVec 40) (cw : Fin 64) (first cntm1 : BitVec 12)
    (step : BitVec 16) (budget : BitVec 48) (off off' : BitVec 24) (mode : GcMode) (th : W32) (cl : BitVec 5) (k : Fin 64)
    (add wait : Bool) (v : W32) (i : Instr) (boundary : Bool),
    (i, boundary) ∈ [(Instr.glaunch g rel addr sten cw, false), (.gcoll g first cntm1 step sten cw, false),
      (.gphase g budget, true), (.gjmp g off, true), (.gwaitgc g mode, true), (.gwaitsem g th cl k, false),
      (.gsetc g cw add v, false), (.gsig g wait v, false), (.ghalt g v, true)] →
    let p := s.curPart.val
    ((boundary && s.outstanding p) = true → exec i s = .next s) ∧
    ((boundary && s.outstanding p) = false → (i.fieldsOk && s.nodeBounds i) = false → exec i s = .next (s.gstop p 0x03 [])) ∧
    ((boundary && s.outstanding p) = false → (i.fieldsOk && s.nodeBounds i) = true → s.guard p g = none →
      exec i s = .next (s.gstop p 0x04 [])) ∧
    (s.GraphReady i g boundary false → exec i s = .next (s.passed boundary fun q => { q with gpc := wordsOn q.gpc 1 })) ∧
    ∀ j ∈ [Instr.gif g off off', .gwhile g off off'],
      (s.outstanding p = true → exec j s = .next s) ∧
      (s.outstanding p = false → j.fieldsOk = false → exec j s = .next (s.gstop p 0x03 [])) ∧
      (s.outstanding p = false → j.fieldsOk = true → s.guard p g = none → exec j s = .next (s.gstop p 0x04 []))

/-- 18 R342 to R346, R349: phases, branches, loops, waits and the end of a graph. -/
def Obligations.GraphFlow : Prop :=
  ∀ (s : State) (g : Guard),
    let p := s.curPart.val
    let q := s.part p
    (∀ budget, s.GraphReady (.gphase g budget) g true true → exec (.gphase g budget) s = .next (s.passed true fun q =>
      { q with gpc := wordsOn q.gpc 1, deadline := if budget = 0 then none else some (s.gc + budget.toNat) })) ∧
    (∀ t f b, s.GraphReady (.gif g t f) g true b → exec (.gif g t f) s = .next (s.passed true fun q =>
      { q with gpc := wordsOn q.gpc (if b then t else f).toInt })) ∧
    (∀ off, s.GraphReady (.gjmp g off) g true true → exec (.gjmp g off) s = .next (s.passed true fun q =>
      { q with gpc := wordsOn q.gpc off.toInt })) ∧
    (∀ off bound, s.GraphReady (.gwhile g off bound) g true false → exec (.gwhile g off bound) s = .next (s.passed true fun q =>
      { q with gpc := wordsOn q.gpc 1, loops := q.loops.filter fun l => l.1 != q.gpc })) ∧
    (∀ off bound, s.GraphReady (.gwhile g off bound) g true true →
      let rest := q.loops.filter fun l => l.1 != q.gpc
      let n := ((q.loops.find? fun l => l.1 == q.gpc).map Prod.snd).getD 0 + 1
      ∃ t, exec (.gwhile g off bound) s = .next t ∧
        if 16 ≤ rest.length then t = (s.passed true fun q => q).gstop p 0x06 []
        else if bound.toNat < n then t = (s.passed true fun q => { q with loops := rest ++ [(q.gpc, n)] }).gstop p 0x06 []
        else t = s.passed true fun q => { q with gpc := wordsOn q.gpc off.toInt, loops := rest ++ [(q.gpc, n)] }) ∧
    (∀ mode, s.GraphReady (.gwaitgc g mode) g true true →
      let target := match mode with
        | .rel ticks => some (q.epoch + ticks.setWidth 64)
        | .cw n => (s.cw p n).map (BitVec.ofNat 64)
      ∃ t, exec (.gwaitgc g mode) s = .next t ∧
        match target with
        | none => t = (s.passed true fun q => q).gstop p 0x04 []
        | some a => t = s.passed true fun q =>
            { q with gpc := wordsOn q.gpc 1, epoch := a, waitgc := if a.toNat ≤ s.gc then none else some a.toNat }) ∧
    ∀ code, s.GraphReady (.ghalt g code) g true true → exec (.ghalt g code) s = .next
      ((s.passed true fun q => { q with gpc := wordsOn q.gpc 1, mstate := .idle }).report
        (marshalEv 0x0112 p [q.tag.toNat, code.toNat]))

/-- 18 R338, R341, R346 to R348: the nodes that join the graph and commit later, and GSETC. -/
def Obligations.GraphNodes : Prop :=
  ∀ (s : State) (g : Guard) (cw : Fin 64) (sten : Bool),
    let p := s.curPart.val
    let q := s.part p
    let node := fun (q : Part) (kind : NodeKind) (sten : Bool) (cw : Fin 64) =>
      { q with gpc := wordsOn q.gpc 1, nodes := q.nodes ++ [⟨q.nextNode, kind, sten, cw, q.phase⟩], nextNode := q.nextNode + 1 }
    (∀ rel addr, s.GraphReady (.glaunch g rel addr sten cw) g false true →
      let a := 128 * addr.toNat
      ∃ t, exec (.glaunch g rel addr sten cw) s = .next t ∧
        if s.inRegion p a 128 then
          ∃ n : Grid, t = { (s.passed false fun q => node q (.launch s.nextUid) sten cw) with
              nextUid := s.nextUid + 1, grids := s.grids ++ [n] }
            ∧ n.gid = s.nextUid ∧ n.part = p ∧ n.recAddr = a ∧ n.rel = rel ∧ n.phase = .check ∧ n.retired = 0
            ∧ n.start = (if rel then q.epoch + n.l.startgc else n.l.startgc).toNat
            ∧ launchRule s.mem a n.l
        else t = (s.passed false fun q => q).gstop p 0x04 []) ∧
    (∀ first cntm1 step, s.GraphReady (.gcoll g first cntm1 step sten cw) g false true →
      let es := (List.range (cntm1.toNat + 1)).map fun k => first.toNat + k
      ∃ t, exec (.gcoll g first cntm1 step sten cw) s = .next t ∧
        t = es.foldl (fun s e => s.armEntry p e step.toNat q.nextNode)
          (s.passed false fun q => node q (.coll es false) sten cw)) ∧
    (∀ th cl k, s.GraphReady (.gwaitsem g th cl k) g false true →
      ∃ t c, exec (.gwaitsem g th cl k) s = .next t ∧ q.clusters[cl.toNat]? = some c ∧
        if s.owns c k.val p then t = s.passed false fun q => node q (.sem c k.val th) false 0
            else t = (s.passed false fun q => q).gstop p 0x08 []) ∧
    (∀ add v, s.GraphReady (.gsetc g cw add v) g false true →
      let a := q.cwbase.toNat + 8 * cw.val
      let u := s.passed false fun q => q
      ∃ t, exec (.gsetc g cw add v) s = .next t ∧
        if s.inRegion p a 8 then
          let old := if add then s.mem.word a 8 else 0
          t = { (s.passed false fun q => { q with gpc := wordsOn q.gpc 1 }) with
            mem := s.mem.writeMany a (toBytes 8 (BitVec.ofNat 64 old + v.signExtend 64).toNat) }
        else t = u.gstop p 0x04 []) ∧
    ∀ wait v, s.GraphReady (.gsig g wait v) g false true →
      exec (.gsig g wait v) s = .next ((s.passed false fun q =>
          if wait then node q (.sig q.gpc none) false 0 else { q with gpc := wordsOn q.gpc 1 }).report
        (marshalEv 0x0111 p [p, q.gpc.toNat, v.toNat]))

/-! ## Words of no instruction (03 R65, 18 R334) -/

/-- 03 R65, 18 R334: a word whose opcode is no wave instruction's takes the illegal-instruction trap, or the wrong-stream trap; and
a graph word without a node stops the graph with its code, a boundary's word once no node is outstanding. R334 gives wrong stream for every opcode
below 0xB8, and R65 only for an assigned one: the model follows R65's table (log 67). -/
def Sys2Proof.Claims.UnassignedWords : Prop :=
  ∀ (s : State) (x : W64),
    let op := x.toNat / 2 ^ 56 % 256
    (∀ (c : Cur) (w : Wave), s.Stands c w → exec (.unassignedOpcode x) s = .next
      (s.takeTrap c.lanes (trapOf (if 0xC0 ≤ op ∧ op ≤ 0xCA then 0x11 else 0x01)))) ∧
    (let p := s.curPart.val
     let boundary := (0xC2 ≤ op ∧ op ≤ 0xC6) ∨ op = 0xCA
     (boundary → s.outstanding p = true → exec (.illegalGraphWord x) s = .next s) ∧
     (¬ boundary ∨ s.outstanding p = false →
       ∃ code, exec (.illegalGraphWord x) s = .next (s.gstop p code [])
        ∧ code = if op ≤ 0x3E ∨ (0x40 ≤ op ∧ op ≤ 0x4C) ∨ (0x50 ≤ op ∧ op ≤ 0x5C) ∨ (0x60 ≤ op ∧ op ≤ 0x66)
            ∨ (0x70 ≤ op ∧ op ≤ 0x7A) ∨ (0x90 ≤ op ∧ op ≤ 0x99) ∨ (0xA0 ≤ op ∧ op ≤ 0xA4) ∨ (0xB0 ≤ op ∧ op ≤ 0xB7)
            then 0x02 else if op < 0xC0 ∨ 0xCA < op then 0x01 else 0x03))

/-- 03 R66, R60 to R63, 19 R358: the trap of a word that decodes to no instruction. One that names a marked register takes the
register-corruption trap; with an undefined or non-zero unused sub, the illegal-instruction trap; and with a field that is
not as its form has it, the reserved-field trap, unless step 2 already rejects its place: a control transfer or trap return
that is not last in its block, or a MOVL whose first word is. It falls on the lanes that its predicate field makes Active, or
on the whole path where its format has none. -/
def Sys2Proof.Claims.RejectedWords : Prop :=
  ∀ (s : State) (c : Cur) (w : Wave) (x lit : Nat) (r : Reject), s.Stands c w → decodeWave x lit = .error r →
    let op := x / 2 ^ 56 % 256
    let p := decPred x
    let cause := fun n => s.rejectTrap x lit r = s.takeTrap (s.wordLanes x) (trapOf n)
    let marked := ∃ i, looseWave x lit = some i ∧ ∃ k ∈ w.named i, k ∈ w.marks
    let misplaced := (op = 0x1E ∧ s.isLast = true) ∨ (((0x40 ≤ op ∧ op ≤ 0x46) ∨ op = 0xB1 ∨ op = 0xB6) ∧ s.isLast = false)
    (marked → cause 0x0A) ∧ (¬ marked → r = .illegal ∨ misplaced → cause 0x01) ∧
    (¬ marked → r = .reserved → ¬ misplaced → cause 0x03) ∧
    s.wordLanes x = if op ∈ [0x1D, 0x1E, 0x40, 0x41, 0x43, 0x48, 0xB0, 0xB2, 0xB3, 0xB4] ∨ (p.1.val = 0 ∧ p.2 = false) then c.lanes
      else if p.1.val = 0 then 0 else c.lanes &&& (if p.2 then ~~~ w.mreg p.1.val else w.mreg p.1.val)

/-- 03 R54, R63, R57 and R58 on words that differ in one field from words of R66's walk-through: a bit of hint-zero, a sub
that NOP does not use, a reserved space of LD, and a reserved bit of MOVL. -/
def Sys2Proof.Claims.RejectedSpecWords : Prop :=
  decodeWave 0x4702_C160_B058_000B 0 = .error .reserved ∧ decodeWave 0x4706_C160_B058_000A 0 = .error .illegal ∧
  decodeWave 0x490B_0F02_B060_0C08 0 = .error .reserved ∧ decodeWave 0x1E08_0400_0000_0001 0 = .error .reserved

/-- Words of no instruction: what each of them traps or stops with, and a malformed boundary word that waits for the nodes
outstanding. -/
def Obligations.WordsOfNoInstruction : Prop :=
  Sys2Proof.Claims.UnassignedWords ∧
  Sys2Proof.Claims.RejectedWords ∧
  Sys2Proof.Claims.RejectedSpecWords

/-! ## The step (00 R5, 07 R139) -/

/-- A step of a booted device is the first of the events that are due, at its time, once the sensors' readings up to then are
taken: the event's row, with nothing added. -/
def Obligations.StepRunsEvent : Prop :=
  ∀ (s : State) (c : Cand) (i : Instr), s.booted = true → firstCand s.now s.cands = some c → c.act = .run i →
    step s = exec i ({ s with now := max s.now c.time } : State).sensed

/-- The visit of a slot in which one path issues is the meaning of the instruction that the path's words decode to, in the
state in which that path is current, unless it meets an uncorrectable group, which is then found (12 R259); a partition's next graph word is the meaning of the word that stands at GPC. -/
def Sys2Proof.Claims.OneIssues : Prop :=
  ∀ (s : State) (c : Cand), s.booted = true → firstCand s.now s.cands = some c →
    let u := ({ s with now := max s.now c.time } : State).sensed
    (∀ wv w a b e i, c.act = .visit wv → u.waves[wv]? = some w → u.chosen wv w = [a] → a.front = .issue b →
      (w.lead a.lanes).ex = some e → decodeWave (e.wordsAt (w.lead a.lanes).pc).1.toNat (e.wordsAt (w.lead a.lanes).pc).2.toNat = .ok i →
      (u.groupsMet w a.lanes i = [] →
        ∃ v, exec i (u.atIssue wv w a.lanes) = .next v ∧ step s = .next { v with cur := none }) ∧
      (u.groupsMet w a.lanes i ≠ [] →
        step s = .next { (u.atIssue wv w a.lanes).found (u.groupsMet w a.lanes i) with cur := none })) ∧
    (∀ p i, c.act = .graph p → p < 8 → u.inRegion p (u.part p).gpc.toNat 8 = true →
      decodeGraph (u.mem.word (u.part p).gpc.toNat 8) = .ok i →
      step s = exec i { u with curPart := Fin.ofNat 8 p }) ∧
    ∀ p, c.act = .graph p → u.inRegion p (u.part p).gpc.toNat 8 = false → step s = .next (u.gstop p 0x04 [])

/-- 07 R143, R144: the other visits of a slot. No path issues: each is noted as waiting. A path at a header fetches and enters
its block in a step of its own. A word of no instruction takes its trap. Of two paths that issue in one round, the primary
alone traps where it traps, else the secondary alone; where neither does, both issue, and one's writes of a wave-level register
prevail: those of the path with the lower Active lane (04 R83). -/
def Sys2Proof.Claims.OtherVisits : Prop :=
  ∀ (s : State) (c : Cand) (wv : Nat) (w : Wave), s.booted = true → firstCand s.now s.cands = some c → c.act = .visit wv →
    let u := ({ s with now := max s.now c.time } : State).sensed
    u.waves[wv]? = some w →
    (u.chosen wv w = [] → step s = .next (u.atVisit wv w)) ∧
    (∀ xs a ys, u.chosen wv w = xs ++ a :: ys → (∀ x ∈ xs, ∃ b, x.front = .issue b) → (a.front = .trap ∨ ∃ b, a.front = .enter b) →
      step s = exec (.blockStart wv (lowLane a.lanes)) u) ∧
    (∀ a b e r, u.chosen wv w = [a] → a.front = .issue b → (w.lead a.lanes).ex = some e →
      let x := e.wordsAt (w.lead a.lanes).pc
      decodeWave x.1.toNat x.2.toNat = .error r →
      step s = .next { (u.atIssue wv w a.lanes).rejectTrap x.1.toNat x.2.toNat r with cur := none }) ∧
    ∀ a b f g i j, u.chosen wv w = [a, b] → a.front = .issue f → b.front = .issue g → w.At a.lanes i → w.At b.lanes j →
      u.groupsMet w a.lanes i = [] → u.groupsMet w b.lanes j = [] →
      ∃ va vb vab, exec i (u.atIssue wv w a.lanes) = .next va ∧ exec j (u.atIssue wv w b.lanes) = .next vb
        ∧ exec j (va.onPath w b.lanes) = .next vab ∧
        let r := u.atVisit wv w
        let low := if lowLane ((u.atIssue wv w a.lanes).act i) < lowLane ((u.atIssue wv w b.lanes).act j) then a.lanes else b.lanes
        (r.trapped va w.uid = true → step s = .next { va with cur := none }) ∧
        (r.trapped va w.uid = false → r.trapped vb w.uid = true → step s = .next { vb with cur := none }) ∧
        (r.trapped va w.uid = false → r.trapped vb w.uid = false → va.groupsMet w b.lanes j = [] →
          step s = .next { (vab.updWave w.uid fun x => { x with pend := prevail w.pend.length low x.pend }) with cur := none })

/-- 07 R139 to R144: what the visit of a slot is, with one path that issues, two or none; and the step of a marshal. -/
def Obligations.StepIssuesFetched : Prop :=
  Sys2Proof.Claims.OneIssues ∧
  Sys2Proof.Claims.OtherVisits

/-- 01 R15, R16, 19 R363: a path enters its block with the header word and the instruction words as the code holds them then,
waits while its wait mask is not satisfied, and records a restart point; a word in a poisoned atom ends its context (12 R245). -/
def Obligations.BlockEntry : Prop :=
  ∀ (s : State) (wv lane : Nat) (w : Wave), s.waves[wv]? = some w → s.waveOf w.uid = some w →
    (w.th lane).status = .run → (w.th lane).ex = none → (w.th lane).wait = .none → w.started.isSome = true →
    let a := (w.th lane).pc
    ∃ t, exec (.blockStart wv lane) s = .next t ∧ (s.mem.poison = [] → s.fetchLost w a = none) ∧
      (∀ g, s.fetchLost w a = some g → t = s.poisonEnd (s.blk w).gid g) ∧
      (s.fetchLost w a = none → match s.headerTrap w a with
      | some cause => t = (s.reportFetch w [a]).enterHandler w.uid (w.pathOf lane) (fun _ => BitVec.ofNat 32 cause)
          (fun _ => a) (fun _ => a) none
      | none => ∃ e, e = s.readBlock w s.nextUid a
          ∧ (∀ k, k < e.len → e.len ≤ 255 → (e.wordsAt (a + BitVec.ofNat 64 (8 + 8 * k))).1
              = s.codeWord w (a.toNat + 8 + 8 * k))
          ∧ t.mem = s.mem ∧ t.blocks = s.blocks
          ∧ (s.flagsReady w (w.th lane).flagWait e = true →
              t = { s with nextUid := s.nextUid + 1 }.updWave w.uid fun w => w.updTh (w.pathOf lane) fun _ t =>
                { t with
                  ex := some e, pc := a + 8, runsOn := if t.runsOn = some (a, t.depth) then none else t.runsOn
                  restart := if e.isRestart then some (a, t.depth) else t.restart })
          ∧ (s.flagsReady w (w.th lane).flagWait e = false →
              t = s.updWave w.uid fun w => w.updTh (w.pathOf lane) fun _ t => { t with flagWait := true, reanchor := true }))

/-! ## Results and rounds (01, 02 R40, 07, 19, 23) -/

/-- 02 R40, 19 R361: a result that arrives ORs its flags into THS; then its registers are written, or, with an enabled flag
raised in some lane, none is and the FP-enable trap is taken. The numbers of waves are distinct, as the device gives them out. -/
def Sys2Proof.Claims.Arrival : Prop :=
  ∀ (s : State) (wv i : Nat) (w : Wave) (p : Pend), s.HasWave wv w → ((s.waves ++ s.ended).map Wave.uid).Nodup →
    w.pend[i]? = some p → p.due ≤ s.round w →
    let fl := s.flagsOf w p
    let hit := fun l => flagsIn fl l &&& flagsIn p.en l
    (fl.map Prod.fst).Nodup → (p.en.map Prod.fst).Nodup →
    ∃ u : Wave, u = { w with pend := w.pend.eraseIdx i, threads := u.threads }
      ∧ (∀ l, l < 32 → u.th l = { w.th l with ths := (w.th l).ths ||| (flagsIn fl l).setWidth 32 })
      ∧ let t := s.updWave w.uid fun _ => u
        ((∀ l, l < 32 → p.lanes.getLsbD l = true → hit l = 0) →
          exec (.resultDelivery wv i) s = .next (p.wr.foldl (fun s x => s.applyWr w x) t)) ∧
        (¬ (∀ l, l < 32 → p.lanes.getLsbD l = true → hit l = 0) →
          exec (.resultDelivery wv i) s = .next (t.enterHandler w.uid (p.lanes &&& w.running)
            (fun l => BitVec.ofNat 32 (0x09 + 256 * (hit l).toNat)) (fun _ => p.addr) (fun _ => p.next) p.ex))

/-- 03 R61, 04 R82, R90, 01 R12: what the writes of a result leave: in a v-register the value of each Active lane; in a wave-level register the value of the lowest Active lane; nothing else. -/
def Sys2Proof.Claims.WrittenValues : Prop :=
  (∀ (w : Wave) (o : Opnd) (k : Nat) (act : W32) (val : Nat → Nat), w.v.wf 0 = true →
    let u := (w.dst o k act val).foldl Wave.apply w
    let low := val (lowLane act)
    u.v.wf 0 = true ∧ u = { w with v := u.v, s := u.s, m := u.m, x := u.x } ∧
    (∀ r l, l < 32 → u.vreg r l = match w.vnum o with
      | some n => if n ≤ r ∧ r < n + k ∧ act.getLsbD l = true
          then BitVec.ofNat 32 (val l / 2 ^ (32 * (r - n))) else w.vreg r l
      | none => w.vreg r l) ∧
    (∀ r, r < 64 → u.sreg r = match o with
      | .s n => if act ≠ 0 ∧ n.val ≤ r ∧ r < n.val + k then BitVec.ofNat 32 (low / 2 ^ (32 * (r - n.val))) else w.sreg r
      | _ => w.sreg r) ∧
    (∀ r, r < 16 → u.mreg r = if o = .m (Fin.ofNat 16 r) ∧ act ≠ 0 then BitVec.ofNat 32 low else w.mreg r) ∧
    u.x = if o = .x ∧ act ≠ 0 then BitVec.ofNat 32 low else w.x) ∧
  (∀ (w : Wave) (n : Fin 16) (act : W32) (val : Nat → Bool),
    let u := (w.dstBool (.m n) act val).foldl Wave.apply w
    ∀ l, l < 32 → (u.mreg n.val).getLsbD l = if act.getLsbD l then val l else (w.mreg n.val).getLsbD l) ∧
  (∀ (s : State) (w : Wave) (o : Opnd) (k : Nat) (act : W32) (val : Nat → Nat), s.waveOf w.uid = some w →
    ((s.waves ++ s.ended).map Wave.uid).Nodup →
    (w.dst o k act val).foldl (fun s x => s.applyWr w x) s
      = s.updWave w.uid fun _ => (w.dst o k act val).foldl Wave.apply w) ∧
  ∀ (s : State) (w : Wave) (l : Nat) (k x : W32), s.waveOf w.uid = some w → ((s.waves ++ s.ended).map Wave.uid).Nodup → l < 32 →
    ∃ u : Wave, s.applyWr w (.ths l k x) = s.updWave w.uid (fun _ => u)
      ∧ ∀ j, j < 32 → u.th j = if j = l then { w.th l with ths := ((w.th l).ths &&& ~~~ k) ||| (x &&& k) } else w.th j

/-- 02 R40, 03 R61: how a result arrives, and what it leaves. -/
def Obligations.ResultArrives : Prop :=
  Sys2Proof.Claims.Arrival ∧
  Sys2Proof.Claims.WrittenValues

/-- 01 R20, R21, 07 R141, 19 R354, R355, 23 R459, R460, R466: the boundary of a slice's round opens the next one, unless an item of
the cluster is late, which stalls the cluster, in a release stall too; the boundary of all six slices brings clock, pass count and override. A ratio of 2 begins only with all six (the model's
choice, log 90). -/
def Obligations.RoundBoundaries : Prop :=
  ∀ (s : State) (n : Nat), s.Inv → n < 192 →
    let cl := n / 6
    let sl := n % 6
    let x := s.slice cl sl
    let c := s.cluster cl
    let cyc := x.c0 + 6 * c.pass * x.ratio
    let others := fun (p : Slice → Prop) => ∀ k, k < 6 → k ≠ sl → p (s.slice cl k)
    let all := others fun y => y.c0 = cyc
    let ratio := fun (n : Nat) => (x.ratioNext ≠ 2 → n = x.ratioNext) ∧
      (x.ratioNext = 2 → (others fun y => y.c0 = cyc ∨ y.c0 + 6 * c.pass * y.ratio = cyc) → n = 2) ∧
      (x.ratioNext = 2 → ¬ (others fun y => y.c0 = cyc ∨ y.c0 + 6 * c.pass * y.ratio = cyc) → n = x.ratio)
    let ovr := (c.overNext.map Prod.fst).getD c.ovr
    let busy := fun (b : Block) => b ∈ s.blocks ∧ b.cl = cl ∧ b.retired = false
    ∃ t, exec (.roundBoundary n) s = .next t ∧
      (c.frozen = true ∨ s.cycle cl < cyc →
        c.release = none ∨ c.stall.isSome = true ∨ s.cycle cl < cyc ∨ s.late cl = false → t = s) ∧
      (c.release.isSome = true → c.stall = none → cyc ≤ s.cycle cl → s.late cl = true →
        t = { s with clusters := s.clusters.set cl { c with stall := some s.now } }) ∧
      (c.frozen = false → cyc ≤ s.cycle cl → s.late cl = true →
        t = { s with clusters := s.clusters.set cl { c with cyc0 := s.cycle cl, t0 := s.now, stall := some s.now } }) ∧
      (c.frozen = false → cyc ≤ s.cycle cl → s.late cl = false →
        t = { s with
          slices := s.slices.set n { x with
            round := (x.round + 1) % 2 ^ 64, c0 := cyc, ratio := (t.slice cl sl).ratio, gc := s.gc % 2 ^ 64, opened := s.now
            turns := [] }
          clusters := t.clusters, arb := t.arb }
        ∧ ratio (t.slice cl sl).ratio
        ∧ (¬ all → t.clusters = s.clusters ∧ t.arb = s.arb)
        ∧ (all → ∃ m, t.clusters = s.clusters.set cl
            { c with cyc0 := cyc, t0 := s.now, clock := c.clockNext, pass := m, ovr := ovr, overNext := none }
          ∧ c.hostPass ≤ m ∧ ovr ≤ m ∧ (∀ b, busy b → (s.grd b).pace ≤ m)
          ∧ (m = c.hostPass ∨ m = ovr ∨ ∃ b, busy b ∧ m = (s.grd b).pace)
          ∧ (ovr = c.ovr → t.arb = s.arb)))

/-- 04 R83: what remains of the results of a round in which two paths issued. Those of the prevailing path stand as they are;
from the others the writes of x and of the s-registers that those write fall away, and of an m-register the bits that they
write (log 106); everything else of them stands. -/
def Sys2Proof.Claims.PrevailingWrites : Prop :=
  ∀ (n : Nat) (low : W32) (ps : List Pend) (i : Nat) (p : Pend), ps[i]? = some p →
    let won := fun (y : Wr) => ∃ f ∈ ps.drop n, f.lanes &&& low ≠ 0 ∧ y ∈ f.wr
    ∃ q, (prevail n low ps)[i]? = some q ∧ { q with wr := p.wr } = p ∧ (prevail n low ps).length = ps.length
      ∧ (i < n ∨ p.lanes &&& low ≠ 0 → q = p)
      ∧ (n ≤ i → p.lanes &&& low = 0 →
        (∀ k v, Wr.s k v ∈ q.wr ↔ Wr.s k v ∈ p.wr ∧ ¬ ∃ v', won (.s k v')) ∧
        (∀ v, Wr.x v ∈ q.wr ↔ Wr.x v ∈ p.wr ∧ ¬ ∃ v', won (.x v')) ∧
        (∀ k m v, Wr.m k m v ∈ q.wr ↔ (m ≠ 0 ∨ ¬ ∃ m' v', won (.m k m' v')) ∧ ∃ m0, Wr.m k m0 v ∈ p.wr ∧
          ∀ l, l < 32 → (m.getLsbD l = true ↔ m0.getLsbD l = true ∧ ¬ ∃ m' v', won (.m k m' v') ∧ m'.getLsbD l = true)) ∧
        ∀ k l v, Wr.v k l v ∈ q.wr ↔ Wr.v k l v ∈ p.wr)

/-- 07 R143: which paths issue. The first of the eligible ones by rank does; the second with it only when both instructions are
of the vector-ALU class and no trap enable stands in a thread of either. -/
def Sys2Proof.Claims.PathsChosen : Prop :=
  ∀ (s : State) (wv : Nat) (w : Wave),
    let ps := (s.ranked wv w).filter fun p => p.front.eligible
    let enabled := fun (a : Ranked) => ∃ l, l < 32 ∧ a.lanes.getLsbD l = true ∧ (w.th l).enables ≠ 0
    (ps = [] → s.chosen wv w = []) ∧
    ∀ a ∈ ps, (∀ p ∈ ps, p = a ∨ a.First p) →
      ((∀ p ∈ ps, p = a) → s.chosen wv w = [a]) ∧
      ∀ b ∈ ps, b ≠ a → (∀ p ∈ ps, p = a ∨ p = b ∨ b.First p) →
        (a.front.alu = true ∧ b.front.alu = true ∧ ¬ enabled a ∧ ¬ enabled b → s.chosen wv w = [a, b]) ∧
        (¬ (a.front.alu = true ∧ b.front.alu = true ∧ ¬ enabled a ∧ ¬ enabled b) → s.chosen wv w = [a])

/-- 07 R143, R148, 01 R16, R24: a path that does not issue ages by a round if it was eligible and is young again if not; a wait
on a header's flags, on a walk or on a class-1 item re-anchors it. -/
def Sys2Proof.Claims.PathsNoted : Prop :=
  ∀ (s : State) (wv : Nat) (w : Wave) (p : Ranked), s.HasWave wv w →
    ∃ u, (s.note w p).waveOf w.uid = some u ∧ u.core = w.core ∧ (s.note w p).now = s.now ∧ (s.note w p).mem.bytes = s.mem.bytes ∧
      ∀ l, l < 32 → if p.lanes.getLsbD l then
          u.th l = { w.th l with
            aged := if p.front.eligible then p.aged + 1 else 0
            flagWait := (w.th l).flagWait || decide (p.front = .flags)
            reanchor := (w.th l).reanchor || match p.front with
              | .bubble b => b
              | .walks _ | .flags => true
              | _ => false }
        else u.th l = w.th l

/-- 01 R16, R18, R24 to R26, 07 R142, R143: whether a path inside its block can issue its instruction. None of its threads waits,
is held or starts later, and the wave holds no issue; nothing the instruction waits for is still to come; and its walks have
their entries. Otherwise the slot bubbles. -/
def Sys2Proof.Claims.PathFront : Prop :=
  ∀ (s : State) (wv : Nat) (w : Wave) (lanes : W32) (i : Instr), w.At lanes i →
    let v := s.onPath w lanes
    let gs := v.gaps w (v.walkVas i (v.act i))
    (s.free? w lanes = false → s.front wv w lanes = .bubble false) ∧
    (s.free? w lanes = true →
      (v.waits i ≠ [] → s.front wv w lanes = .bubble (decide (true ∈ v.waits i))) ∧
      (v.waits i = [] → gs ≠ [] → s.front wv w lanes = .walks gs) ∧
      (v.waits i = [] → gs = [] → s.front wv w lanes = .issue (isAlu i))) ∧
    (s.free? w lanes = true → w.saved = false ∧ w.hold ≤ s.round w ∧
      (∀ j ∈ w.joins, ∀ l, l < 32 → lanes.getLsbD l = true → w.holds j l = false) ∧
      ∀ l, l < 32 → lanes.getLsbD l = true → (w.th l).wait = .none ∧ (w.th l).readyAt ≤ s.round w)

/-- 01 R24, R25, 09 R183, R187, 13 R267, R271, R272, 14 R286, 08 R176: what an instruction waits for. Registers it names that a
result or an access fills, and the flags of its threads for one that can raise one; for an instruction that follows all, every
result of its threads; for a release, every store, atomic and tile write of the path, and the loads that have not read; for an
acquire, its loads; behind an acquire in flight, any access, and behind an ATOM's or CAS's any instruction; for a matrix
operation, its engine slot. -/
def Sys2Proof.Claims.PathWaits : Prop :=
  ∀ (s : State) (w : Wave) (i : Instr) (lanes act : W32) (mask : Nat),
    (s.regWaits w i lanes = [] ↔ (∀ p ∈ w.pend, ¬ w.Meets i lanes p.regs p.lanes)
      ∧ ∀ a ∈ s.accs, a.uid = w.uid → a.abandoned = false → ¬ w.Meets i lanes a.regs a.act) ∧
    (true ∈ s.regWaits w i lanes ↔ ∃ a ∈ s.accs, a.uid = w.uid ∧ a.abandoned = false ∧ a.cls1 = true
      ∧ w.Meets i lanes a.regs a.act) ∧
    (∀ (d a : Opnd) (r : RForm) (b : Fin 32), i ∈ [.csrrd .ths d, .csrwr .ths a, .fxrd r, .fxclr r, .fxen r, .barv b r, .barw b r] →
      (s.allWaits w i lanes = [] ↔ (∀ p ∈ w.pend, p.lanes &&& lanes = 0)
        ∧ (∀ a ∈ s.accs, a.uid = w.uid → a.act &&& lanes ≠ 0 → (a.regs = [] ∨ a.abandoned = true) ∧ (a.cls1 = true ∨ a.atomic = false))
        ∧ (∀ m ∈ s.mmas, m.uid = w.uid → m.path &&& lanes = 0) ∧ ∀ m ∈ s.moves, m.uid = w.uid → m.path &&& lanes = 0)) ∧
    (s.releaseWaits w lanes mask = [] ↔ (∀ a ∈ s.accs, ¬ a.Released w lanes mask)
      ∧ (mask.testBit 1 = true → (∀ m ∈ s.mmas, m.uid = w.uid → m.path &&& lanes = 0)
        ∧ (∀ m ∈ s.moves, m.uid = w.uid → m.path &&& lanes = 0)
        ∧ ∀ p ∈ w.pend, p.lanes &&& lanes ≠ 0 → ∀ t, Wr.tileZero t ∉ p.wr)) ∧
    (s.acquireWaits w lanes mask = [] ↔ ∀ a ∈ s.accs, a.uid = w.uid → a.path &&& lanes ≠ 0 →
      (∃ sp ∈ a.spaces, mask.testBit (spaceBit sp) = true) → a.loads = false) ∧
    (s.afterAcquire w i lanes = [] ↔ ∀ a ∈ s.accs, a.uid = w.uid → a.path &&& lanes ≠ 0 → acquires (orderOf a.i) = true →
      (isMemory i = true ∨ (∃ op m, a.i = .atom op m) ∨ ∃ m, a.i = .cas m) → a.loads = false) ∧
    (∀ (k : Fin 16) (m : MForm), orderWaits s w (.fence k m) lanes act = if act = 0 then [] else
      (if m.order = .rel ∨ m.order = .acqRel then s.releaseWaits w lanes k.val else [])
        ++ if m.order = .acq ∨ m.order = .acqRel then s.acquireWaits w lanes k.val else []) ∧
    (isRelease i = true → orderWaits s w i lanes act = s.releaseWaits w lanes 15) ∧
    (∀ (a64 : Bool) (op : AtomOp) (k : Fin 64) (n : Fin 32) (m : MForm) (r : RForm),
      (m.order = .rel ∨ m.order = .acqRel → i ∈ [.st a64 m, .sts a64 m, .atom op m, .cas m, .red op m, .redx op m, .xst m] →
        isRelease i = true) ∧
      (i ∈ [.semadd k r, .semset k r, .tready r, .barv n r, .barw n r] → isRelease i = true)) ∧
    (s.chainWaits w i lanes = [] ↔ (∀ a ∈ s.accs, a.uid = w.uid → a.path &&& lanes ≠ 0 → a.atomic = true → a.cls1 = false →
        (∃ sp ∈ a.spaces, (7 : Nat).testBit (spaceBit sp) = true) →
        (∀ fm t r, i ≠ .tld fm t r ∧ i ≠ .tst fm t r) ∧ (∀ sx m, i = .xld sx m → m.flagged = true) ∧ (∀ m, i = .xst m → m.flagged = true)
          ∧ ∀ k, accKind i = some k → (∀ sx m, i ≠ .xld sx m) → (∀ m, i ≠ .xst m) → k.atomic = true ∨ k.m.space = .main)) ∧
    (∀ (z : Bool) (t : Fin 16) (r : RForm), i ∈ [.mma z t r, .mmasp z t r] →
      (s.matrixWaits w i act = [] ↔ act = 0 ∨ s.round w % 36 = 6 * w.slot + w.sl)) ∧
    ∀ (t : Fin 16) (fm : TileFmt) (k : TflgOp) (r : RForm), i ∈ [.tzero t r, .tld fm t r, .tst fm t r, .tflg k t r] →
      (s.matrixWaits w i act = [] ↔ (∀ m ∈ s.mmas, m.uid = w.uid → m.tile ≠ t.val)
        ∧ ∀ m ∈ s.moves, m.uid = w.uid → m.store = false → m.tile ≠ t.val)

/-- 19 R355, R357, 23 R466: a stall ends once nothing is late, or at the limit, where every late access is abandoned and its
destination registers marked; both report event 0x0101. A release stall ends at its time. -/
def Sys2Proof.Claims.Stalls : Prop :=
  ∀ (s : State) (cl a : Nat), s.Inv → cl < 32 →
    let c := s.cluster cl
    let done := fun (t : State) => (t.cluster cl).stall = none ∧ (t.cluster cl).ready = none
      ∧ (c.release = none → c.peer = none → (t.cluster cl).frozen = false ∧ (t.cluster cl).t0 = s.now
          ∧ (t.cluster cl).cyc0 = c.cyc0)
      ∧ ∃ e k, (s.now, e) ∈ t.arb.inbox ∧ e.code = 0x0101 ∧ e.detail = [s.stallCycles cl, k]
    (c.stall.isSome = true → c.ready = some a → a ≤ s.now → ∃ t, exec (.stallResume cl) s = .next t ∧ done t) ∧
    (c.stall.isSome = true → s.stallLimit cl ≤ s.stallCycles cl → ∃ t, exec (.stallLimitExpiry cl) s = .next t ∧ done t
      ∧ ∀ x ∈ s.accs, x.cl = cl → s.accLate x = true →
        (∃ y ∈ t.accs, y.id = x.id ∧ y.abandoned = true) ∧
        ∀ w, s.waveOf x.uid = some w → ∃ u, t.waveOf x.uid = some u ∧ ∀ r ∈ x.regs, r ∈ u.marks) ∧
    (c.release = some a → a ≤ s.now → ∃ t, exec (.releaseStallEnd cl) s = .next t
      ∧ t = { s with clusters := t.clusters } ∧ (t.cluster cl).release = none)

/-- 06 R130, 07 R147: in the exit round the region ends, and the threads that run and do not stand at its join header take the
elastic-deadline trap. The region of a wave that is saved, or has not started since, counts no rounds (19 R387). -/
def Sys2Proof.Claims.ElasticExit : Prop :=
  ∀ (s : State) (wv : Nat) (w : Wave) (g : Region), s.HasWave wv w → w.region = some g →
    (w.saved = true ∨ w.started = none ∨ s.round w < g.exit → exec (.elasticDeadline wv) s = .next s) ∧
    (w.saved = false → w.started.isSome = true → g.exit ≤ s.round w →
    let here := fun l => (w.th l).ex = none ∧ (w.th l).pc = g.hdr ∧ (w.th l).depth = g.depth ∧ (w.th l).wait = .none
    let u := s.updWave w.uid fun w => { w with region := none }
    ∃ t late, exec (.elasticDeadline wv) s = .next t
      ∧ (∀ l, late.getLsbD l = true ↔ l < 32 ∧ (w.th l).status = .run ∧ ¬ here l)
      ∧ (late = 0 → t = u)
      ∧ (late ≠ 0 → let a := (w.th (lowLane late)).pc
        t = u.enterHandler w.uid late (fun _ => 0x0B) (fun _ => a) (fun _ => a) none))

/-- 08 R177, 17 R327, R328: the threads of a path that waits go on once the generation is over, or the semaphore has reached
their threshold or failed; a semaphore's status word is then in flight to the destination, and a path that waited beyond the
cycle of its SEMWT re-anchors. The join list is then settled (`JoinsSettle`). -/
def Sys2Proof.Claims.WaitsEnd : Prop :=
  ∀ (s : State) (wv lane : Nat) (w : Wave), s.HasWave wv w → lane < 32 → (w.th lane).status = .run →
    let t0 := w.th lane
    let same := fun l => (w.th l).wait = t0.wait ∧ (w.th l).pc = t0.pc ∧ (w.th l).depth = t0.depth
    (∀ b tok, t0.wait = .bar b tok → (s.bar (s.blk w) b).gen ≠ tok.toNat →
      ∃ (t : State) (u : Wave), exec (.barrierResume wv lane) s = .next t ∧ t = s.updWave w.uid (fun _ => u.settleJoins (s.round w)) ∧ u.core = w.core
        ∧ u.joins = w.joins ∧ (w.joins = [] → u.settleJoins (s.round w) = u) ∧ u.pend = w.pend ∧ ∀ l, l < 32 →
          if same l then (u.th l).wait = .none ∧ (u.th l).reanchor = true ∧ s.round w + 1 ≤ (u.th l).readyAt
            ∧ (u.th l).pc = (w.th l).pc
          else u.th l = w.th l) ∧
    (∀ k th d since, t0.wait = .sem k th d since →
      let m := (s.cluster w.cl).sem k
      (m.fail = true ∨ th ≤ m.count) →
      ∃ (t : State) (u : Wave) (lanes : W32), exec (.semaphoreResume wv lane) s = .next t ∧ t = s.updWave w.uid (fun _ => u.settleJoins (s.round w))
        ∧ u.core = w.core ∧ u.joins = w.joins ∧ (w.joins = [] → u.settleJoins (s.round w) = u)
        ∧ (∀ l, l < 32 → (lanes.getLsbD l = true ↔ same l))
        ∧ u.pend = w.pend ++ (match d with
          | some n => [⟨s.round w + 1, lanes, [.s n.val], [.s n.val (BitVec.ofNat 32 m.status)], [], none, [], 0, 0, none⟩]
          | none => [])
        ∧ ∀ l, l < 32 →
          if same l then (u.th l).wait = .none ∧ s.round w + 1 ≤ (u.th l).readyAt ∧ (u.th l).pc = (w.th l).pc
            ∧ (u.th l).reanchor = ((w.th l).reanchor || decide (since < s.cycle w.cl))
          else u.th l = w.th l)

/-- 01 R23, 02 R40: a result without flags, in flight to a wave that is in its slot or has left it, arrives once its round has
opened: it is in flight no more, and each of its writes is made. -/
def Sys2Proof.Claims.DeliveryCompletes : Prop :=
  ∀ (s : State) (wv i : Nat) (w : Wave) (p : Pend), (s.waves ++ s.ended)[wv]? = some w → w.pend[i]? = some p →
    p.due ≤ s.round w → p.fl = [] → p.mrg = none →
    exec (.resultDelivery wv i) s = .next (p.wr.foldl (fun s x => s.applyWr w x)
      (s.updAny w.uid fun w => { w with pend := w.pend.eraseIdx i }))

/-- 01 R23 to R25, 04 R83, 07 R143, R147, 08 R177, 17 R327, 19 R357, 23 R466: what holds a path back and which paths issue; and
the end of stalls, regions, waits and fixed-latency results. -/
def Obligations.StallsAndWaits : Prop :=
  Sys2Proof.Claims.PrevailingWrites ∧
  Sys2Proof.Claims.PathsChosen ∧
  Sys2Proof.Claims.PathsNoted ∧
  Sys2Proof.Claims.PathFront ∧
  Sys2Proof.Claims.PathWaits ∧
  Sys2Proof.Claims.Stalls ∧
  Sys2Proof.Claims.ElasticExit ∧
  Sys2Proof.Claims.WaitsEnd ∧
  Sys2Proof.Claims.DeliveryCompletes

/-! ## Accesses as they take effect (06 R135, 12, 13) -/

/-- 06 R135: bytes written read back, in a pad and in main memory, and no byte elsewhere changes. -/
def Sys2Proof.Claims.StoreBytes : Prop :=
  ∀ (m : Mem) (l : Loc) (bs : List Byte), m.wf = true →
    (m.writeLoc l bs).wf = true
    ∧ m.writeLoc l bs = { m with bytes := (m.writeLoc l bs).bytes, poison := (m.writeLoc l bs).poison } ∧
    (m.poison = [] → (m.writeLoc l bs).poison = []) ∧
    (∀ k, k ∉ m.keysOf l bs.length → (m.writeLoc l bs).byte k = m.byte k) ∧
    (∀ k, l = .pad k → (m.writeLoc l bs).readLoc l bs.length = bs) ∧
    ∀ pa, l = .main pa none → m.live.Nodup → m.sweep = none → pa + bs.length ≤ m.cap →
      (∀ j, j < bs.length → m.key (pa + j) / 32 * 32 ∉ m.poison) →
      (m.writeLoc l bs).readLoc l bs.length = bs

/-- 06 R135, 13 R262: a class-0 load or store in its effect round: no byte changes but those of the lanes that store; a lane
that stores apart from the others leaves its data; a load puts its values in flight for its delivery round. -/
def Sys2Proof.Claims.AccessEffect : Prop :=
  ∀ (s : State) (i : Nat) (a : Access) (k : AccKind), s.Inv → s.Acts i a k → k.atomic = false →
    let n := k.m.sz.bytes
    (∀ x ∈ a.lanes, s.brokenLoc x.loc n = []) → s.beyondCap a = none →
    ∃ t, exec (.class0AccessEffect i) s = .next t
      ∧ t.mem = { s.mem with bytes := t.mem.bytes, poison := t.mem.poison } ∧ t.blocks = s.blocks ∧ t.tiles = s.tiles
      ∧ t.slices = s.slices
      ∧ (∀ key, (k.need.wr = true → ∀ x ∈ a.lanes, x.live = true → key ∉ s.mem.keysOf x.loc n) →
          t.mem.byte key = s.mem.byte key)
      ∧ (∀ pre x post key, k.need.wr = true → a.lanes = pre ++ x :: post → x.live = true → x.loc = .pad key →
          (∀ y ∈ pre ++ post, x.apart n y) → t.mem.read key n = toBytes n x.data)
      ∧ ∀ w, k.need.wr = false → s.waveOf a.uid = some w → (a.loaded s).writes ≠ [] →
          t.waveOf a.uid = some { w with
            pend := w.pend ++ [⟨a.round + a.lat, a.act, a.regs, (a.loaded s).writes, [], none, [], 0, 0, none⟩] }

/-- 12 R252: a class-0 access in its effect round, of which a lane not withheld reaches past a CAP lowered since its issue, ends its
context with the capacity fault; a load changes no byte. -/
def Sys2Proof.Claims.CapMet : Prop :=
  ∀ (s : State) (i : Nat) (a : Access) (k : AccKind) (g : Nat), s.Inv → s.Acts i a k → k.atomic = false → s.beyondCap a = some g →
    (∀ x ∈ a.lanes, s.brokenLoc x.loc k.m.sz.bytes = []) →
    (∃ x ∈ a.lanes, ∃ pa e, x.loc = .main pa e ∧ x.withheld = false ∧ s.mem.cap < pa + k.m.sz.bytes ∧ g = pa / 512) ∧
    ∃ t, exec (.class0AccessEffect i) s = .next t ∧ s.Faults t a.gid 0x0006
      ∧ (k.need.wr = false → ∀ key, t.mem.byte key = s.mem.byte key)

/-- 06 R132, R136, 13 R263: the writes of a load: zero in a lane that is withheld; else the bytes found, extended by their
signedness; and a residency mask with the bits of the lanes that were not withheld. -/
def Sys2Proof.Claims.LoadedValues : Prop :=
  ∀ (a : Access) (k : AccKind) (x : LaneAcc) (j : Nat), accKind a.i = some k → x ∈ a.lanes → x.got < 2 ^ (8 * k.m.sz.bytes) →
    (∀ sx a64 rp, k.m.d.isZero = false → j < k.m.sz.regs → a.i ∈ [Instr.ld sx a64 k.m, .gath sx rp k.m, .lds sx a64 k.m] →
      ∃ v, (if a.i = .lds sx a64 k.m then Wr.s (a.dreg + j) (regPart v j) else .v (a.dreg + j) x.lane (regPart v j)) ∈ a.writes
        ∧ (x.withheld = true → v = 0)
        ∧ (x.withheld = false → ∀ i, i < 32 * k.m.sz.regs →
            v.testBit i = if i < 8 * k.m.sz.bytes then x.got.testBit i
              else sx && x.got.testBit (8 * k.m.sz.bytes - 1))) ∧
    ∀ b, k.m.b = some b → k.scalar = false →
      ∃ m v, Wr.m b.val m v ∈ a.writes ∧ ∀ l, l < 32 →
        (m.getLsbD l = true ↔ ∃ y ∈ a.lanes, y.lane = l)
        ∧ (v.getLsbD l = true ↔ ∃ y ∈ a.lanes, y.lane = l ∧ y.withheld = false)

/-- 13 R268: the operations of the atomics on values of 4 or 8 bytes. -/
def Sys2Proof.Claims.AtomicValues : Prop :=
  ∀ (n v x : Nat), (n = 4 ∨ n = 8) → v < 2 ^ (8 * n) → x < 2 ^ (8 * n) →
    let t := if n = 8 then IType.i64 else .i32
    let op := fun o => atomVal o n v x
    op .xchg = x ∧ op .add < 2 ^ (8 * n) ∧ ((op .add : Int) - (v + x)) % 2 ^ (8 * n) = 0 ∧
    ((op .smin = v ∨ op .smin = x) ∧ ival t (op .smin) ≤ ival t v ∧ ival t (op .smin) ≤ ival t x) ∧
    ((op .smax = v ∨ op .smax = x) ∧ ival t v ≤ ival t (op .smax) ∧ ival t x ≤ ival t (op .smax)) ∧
    ∀ i, (op .and).testBit i = (v.testBit i && x.testBit i) ∧ (op .or).testBit i = (v.testBit i || x.testBit i)
      ∧ (op .xor).testBit i = (v.testBit i != x.testBit i)

/-- 13 R269 to R271: a pad atomic in its effect round: a lane apart from the others leaves Op of what stood there, and CAS its
new value where it found what it compares; no other byte changes. -/
def Sys2Proof.Claims.AtomicChain : Prop :=
  ∀ (s : State) (i : Nat) (a : Access) (k : AccKind), s.Inv → s.Acts i a k → k.atomic = true →
    let n := k.m.sz.bytes
    (∀ x ∈ a.lanes, s.brokenLoc x.loc n = []) → s.beyondCap a = none →
    ∃ t, exec (.padAtomicChain i) s = .next t
      ∧ t.mem = { s.mem with bytes := t.mem.bytes, poison := t.mem.poison } ∧ t.blocks = s.blocks ∧ t.tiles = s.tiles
      ∧ t.slices = s.slices
      ∧ (∀ key, (∀ x ∈ a.lanes, x.live = true → key ∉ s.mem.keysOf x.loc n) → t.mem.byte key = s.mem.byte key)
      ∧ ∀ pre x post key, a.lanes = pre ++ x :: post → x.live = true → x.loc = .pad key →
          (∀ y ∈ pre ++ post, x.apart n y) →
          let v := s.readLoc x.loc n
          t.mem.read key n = toBytes n (match a.i with
            | .atom op _ | .red op _ | .redx op _ => atomVal op n v x.data
            | .cas _ => if v = x.data then x.aux else v
            | _ => v)

/-- 13 R274, 19 R355, R356: the redirects of a REDX of a running cluster that has no stalled peer before it: every lane whose target member stands writes its old value there and arrives; no byte
changes but those of the targets and of the barrier objects. -/
def Sys2Proof.Claims.Redirects : Prop :=
  ∀ (s : State) (i : Nat) (a : Access), s.Inv → s.accs[i]? = some a → isRedx a.i = true → a.effected = true →
    s.mem.broken = [] →
    ((s.cluster a.cl).frozen = true → exec (.redxRedirectWrite i) s = .next s) ∧
    (∀ u, (s.cluster a.cl).frozen = false → s.behindPeer a.cl (s.redirKeys a) = some u →
      exec (.redxRedirectWrite i) s = .next u) ∧
    ((s.cluster a.cl).frozen = false → s.behindPeer a.cl (s.redirKeys a) = none →
    ∃ t, exec (.redxRedirectWrite i) s = .next t ∧ t.accs = s.accs.filter (fun b => b.id != a.id)
      ∧ (∀ k, (∀ x ∈ a.lanes, ∀ c key, s.redirKey a.bid (redirOf x.aux) = some (c, key) →
            (k < key ∨ key + a.size ≤ k)
            ∧ (k < s.barKey c (redirOf x.aux).bar ∨ s.barKey c (redirOf x.aux).bar + 12 ≤ k)) →
          t.mem.byte k = s.mem.byte k)
      ∧ ∀ x c key, a.lanes = [x] → s.redirKey a.bid (redirOf x.aux) = some (c, key) →
          let bar := s.barKey c (redirOf x.aux).bar
          (key + a.size ≤ bar ∨ bar + 16 ≤ key) →
          t.mem.read key a.size = toBytes a.size (if x.withheld then 0 else x.got)
          ∧ ∀ u, s.arrive c (redirOf x.aux).bar 1 0 = some u →
            t.bar c (redirOf x.aux).bar = u.bar c (redirOf x.aux).bar)

/-- 06 R135, 13 R276, R277: a class-1 access that has all it waits for completes: its registers are written and its flag may
set; a main-memory REDX turns to its redirects; an ordered RED is held by its grid. -/
def Sys2Proof.Claims.Class1Completes : Prop :=
  ∀ (s : State) (i : Nat) (a : Access) (w : Wave), s.accs[i]? = some a → a.cls1 = true → s.completes a = true →
    s.waveOf a.uid = some w →
    (isRedx a.i = true → exec (.class1Completion i) s = .next (s.updAcc a.id fun a => { a with effected := true })) ∧
    (isRedx a.i = false → a.collected = false → exec (.class1Completion i) s = .next
      (((a.writesTo w).foldl (fun s x => s.applyWr w x) (s.dropAcc a.id)).settleFlags a.bid)) ∧
    ∀ (op : AtomOp) (m : MForm) (g : Grid) (b : Block) (x : LaneAcc) (pa : Nat) (e : Option (Fin 128)) (n : Nat),
      a.i = .red op m → a.collected = true → s.gridOf a.gid = some g → g.phase = .run → s.blockOf a.bid = some b →
      (s.part a.part).preemptAt = none → a.lanes = [x] →
      x.withheld = false → x.loc = .main pa e → a.wnum = [(x.lane, n)] → s.heldRoom pa = true →
      ∃ t, exec (.class1Completion i) s = .next t
        ∧ t.held = s.held ++ [⟨a.gid, n, pa, e, m.sz == .b64, op, x.data, (b.bl * g.l.waves + a.dreg) * 32 + x.lane, x.aux, none,
            if a.paged then some a.id else none⟩]
        ∧ t.mem = s.mem ∧ t.accs = s.accs.filter fun c => c.id != a.id

/-- 06 R135: what a store leaves, and what a load finds. -/
def Obligations.LoadsAndStores : Prop :=
  Sys2Proof.Claims.StoreBytes ∧
  Sys2Proof.Claims.AccessEffect ∧
  Sys2Proof.Claims.CapMet ∧
  Sys2Proof.Claims.LoadedValues

/-- 06 R135, 13 R268 to R277: atomics, redirects and class-1 accesses as they complete. -/
def Obligations.AtomicsAndCompletions : Prop :=
  Sys2Proof.Claims.AtomicValues ∧
  Sys2Proof.Claims.AtomicChain ∧
  Sys2Proof.Claims.Redirects ∧
  Sys2Proof.Claims.Class1Completes

/-! ## Matrix engines and cards at work (09, 17) -/

/-- 09 R184, 13 R270: in the first cycle of round r + 2 the operands of an operation in the cluster pad are latched, and it
waits for the engine of its cluster. -/
def Sys2Proof.Claims.OperandsLatched : Prop :=
  ∀ (s : State) (i : Nat) (m : Mma) (fails : List Nat), s.Inv → s.mmas[i]? = some m → m.latched = none → m.cl < 32 →
    m.round + 2 ≤ (s.slice m.cl m.sl).round → s.mem.broken = [] →
    let b := (s.blockOf m.bid).getD default
    let at' := fun off n => s.mem.read (cpadKey m.cl (b.cbase + off)) n
    ∃ t, exec (.engineSpan (32 + i) fails) s = .next t
      ∧ t = { s with mmas := t.mmas, clusters := t.clusters }
      ∧ t.mmas = s.mmas.set i { m with latched := some (at' m.boff (if m.sparse then 49152 else 24576),
          (if m.sparse then at' m.moff (2 * kLen m.afmt true) else []),
          at' m.soff (kLen m.afmt m.sparse / 32 * ((if m.ascaled then 16 else 0) + (if m.bscaled then 128 else 0)))) }
      ∧ t.cluster m.cl = { s.cluster m.cl with queue := (s.cluster m.cl).queue ++ [(m.uid, m.round)] }

/-- 09 R184, R206, R207: a span opens on the twin that is to be on duty, which performs the operation that has waited longest;
with no proof of the other twin failing, the other twin's tiles are cleared. Duty leaves a twin that is out, and goes to no
twin that is out while one is in service; it leaves one whose comparator has tripped for one whose has not. -/
def Sys2Proof.Claims.SpanOpens : Prop :=
  ∀ (s : State) (cl : Nat) (q : Nat × Nat) (fails : List Nat), s.Inv → cl < 32 → (s.cluster cl).frozen = false →
    (s.cluster cl).spanAt ≤ s.cycle cl → (s.cluster cl).queue.head? = some q →
    (((s.cluster cl).fails ++ fails).filter fun x => decide (x < 8)) = [] →
    let c := s.cluster cl
    let d := s.onDuty cl
    ∃ t, exec (.engineSpan cl fails) s = .next t
      ∧ t = { s with mmas := t.mmas, clusters := t.clusters }
      ∧ t.mmas = s.mmas.map (fun (m : Mma) => if m.uid = q.1 ∧ m.round = q.2 then { m with twin := some d } else m)
      ∧ (t.cluster cl).duty = d ∧ (t.cluster cl).spans = (if d = c.duty then c.spans + 1 else 1)
      ∧ (t.cluster cl).queue = c.queue.tail ∧ (t.cluster cl).spanAt = c.spanAt + 6 * c.pass ∧ (t.cluster cl).fails = []
      ∧ (t.cluster cl).twin d = c.twin d
      ∧ ((c.other d).out = false → ((t.cluster cl).other d).tiles = [])
      ∧ ((c.twin d).out = false ∨ (c.other d).out = true)
      ∧ ((c.twin c.duty).out = false → (c.other c.duty).out = false → s.tripped (c.twin c.duty) = true →
          s.tripped (c.other c.duty) = false → d = !c.duty)

/-- 09 R207, R208: a proof of a twin in service that fails fences the sub-array, puts the twin out of service, marks its
tiles suspect and reports event 0x0108. -/
def Sys2Proof.Claims.ProofFails : Prop :=
  ∀ (s : State) (cl sub : Nat), s.Inv → cl < 32 → sub < 8 → (s.cluster cl).frozen = false →
    (s.cluster cl).spanAt ≤ s.cycle cl → (s.cluster cl).fails = [] →
    ((s.cluster cl).other (s.onDuty cl)).out = false → ((s.cluster cl).twin (s.onDuty cl)).out = false →
    let c := s.cluster cl
    let d := s.onDuty cl
    ∃ t, exec (.engineSpan cl [sub]) s = .next t
      ∧ ((t.cluster cl).other d).out = true ∧ sub ∈ ((t.cluster cl).other d).fenced
      ∧ ((t.cluster cl).other d).tiles = [] ∧ (c.queue = [] → ((t.cluster cl).twin d).tiles = [])
      ∧ (∃ e, (s.now, e) ∈ t.arb.inbox ∧ e.code = 0x0108) ∧ t.mem = s.mem ∧ t.waves = s.waves
      ∧ ∀ k ∈ (c.other d).tiles, (t.tileAt (16 * cl + k)).fl.getLsbD 7 = true

/-- 09 R186, R196, R200 to R202: the tile update of an operation replaces the tile's 2,048 elements by the result and ORs its
flags; TLD reads its image and then writes its tile; TST reads its tile, then writes its image. -/
def Sys2Proof.Claims.TileUpdates : Prop :=
  ∀ (s : State) (i : Nat), s.Inv → s.mem.broken = [] →
    (∀ m b ops, s.mmas[i]? = some m → m.latched = some ops → s.blockOf m.bid = some b →
      let k := b.tile m.tile
      let r := mmaResult m ops.1 ops.2.1 ops.2.2 fun j => ((s.tileAt k).el.get 0 j).toNat
      ∃ t, exec (.tileUpdate i) s = .next t ∧ t = { s with mmas := s.mmas.eraseIdx i, tiles := t.tiles, clusters := t.clusters }
        ∧ (∀ d, m.twin = some d → m.cl < 32 → b.tiles.getD m.tile 0 ∈ ((t.cluster m.cl).twin d).tiles)
        ∧ r.1.length = 2048 ∧ (∀ j, j < 2048 → (t.tileAt k).el.get 0 j = r.1.getD j 0)
        ∧ (t.tileAt k).fl = (s.tileAt k).fl ||| r.2.setWidth 8 ∧ ∀ j, j ≠ k → t.tileAt j = s.tileAt j) ∧
    ∀ m, s.moves[i]? = some m →
      let k := ((s.blockOf m.bid).getD default).tile m.tile
      let key := cpadKey m.cl (((s.blockOf m.bid).getD default).cbase + m.off)
      let n := if m.fm = .f then 8192 else 4096
      (m.store = false → m.img = none → exec (.class0AccessEffect (s.accs.length + i)) s = .next
        { s with moves := s.moves.set i { m with img := some (s.mem.read key n) } }) ∧
      (∀ img, m.store = false → m.img = some img → ∃ t, exec (.tileUpdate (s.mmas.length + i)) s = .next t
        ∧ t = { s with moves := s.moves.eraseIdx i, tiles := t.tiles } ∧ (t.tileAt k).fl.getLsbD 7 = false
        ∧ (m.fm = .f → img.length = 8192 → ∀ j, j < 2048 →
            (t.tileAt k).el.get 0 j = BitVec.ofNat 32 (ofBytes ((img.drop (4 * j)).take 4)))
        ∧ ∀ j, j ≠ k → t.tileAt j = s.tileAt j) ∧
      (m.store = true → m.img = none → ∃ t img, exec (.tileUpdate (s.mmas.length + i)) s = .next t
        ∧ t = { s with moves := s.moves.set i { m with img := some img }, tiles := t.tiles }
        ∧ (t.tileAt k).el = (s.tileAt k).el
        ∧ (m.fm = .f → ∀ j o, j < 2048 → o < 4 → img.getD (4 * j + o) 0 = ((s.tileAt k).el.get 0 j).extractLsb' (8 * o) 8)) ∧
      (∀ img, m.store = true → m.img = some img → m.done = false → ∃ t,
        exec (.class0AccessEffect (s.accs.length + i)) s = .next t
        ∧ t = { s with moves := s.moves.set i { m with done := true }, mem := t.mem }
        ∧ t.mem.read key img.length = img ∧ ∀ a, (a < key ∨ key + img.length ≤ a) → t.mem.byte a = s.mem.byte a)

/-- 02 R47: the window of one K-slice. A NaN among the products, or both infinities, makes it the canonical NaN; an infinity, that
infinity; products that are all zero, a zero. Otherwise each product is truncated toward zero to a multiple of 2^(E-60), with
2^E the power of two at or below the greatest, their exact sum is rounded once, and the accumulator takes the RNE sum. -/
def Sys2Proof.Claims.WindowValues : Prop :=
  (∀ ps : List Prod,
    let nan := ∃ p ∈ ps, ∃ g, p.v = .nan g
    let has := fun n => ∃ p ∈ ps, p.v = .inf n
    let w := windowSum ps
    ((nan ∨ (has true ∧ has false)) → w.1 = binary32.nan
      ∧ (w.2 = fInvalid ↔ (∃ p ∈ ps, p.bad = true) ∨ (has true ∧ has false)) ∧ (w.2 = fInvalid ∨ w.2 = 0)) ∧
    (¬ nan → ∀ n, has n → ¬ has (!n) → w = (binary32.inf + (if n then 2 ^ 31 else 0), 0)) ∧
    ((∀ p ∈ ps, ∃ n e, p.v = .fin n 0 e) →
      ((ps ≠ [] ∧ ∀ p ∈ ps, ∃ e, p.v = .fin true 0 e) → w = (2 ^ 31, 0)) ∧
      (¬ (ps ≠ [] ∧ ∀ p ∈ ps, ∃ e, p.v = .fin true 0 e) → w = (0, 0))) ∧
    ∀ top : Int, (∀ p ∈ ps, ∃ n m e, p.v = .fin n m e) →
      (∃ p ∈ ps, ∃ n m e, p.v = .fin n m e ∧ ∀ q : Int, q ≤ e → q ≤ top → 2 ^ (top - q).toNat ≤ m * 2 ^ (e - q).toNat) →
      (∀ p ∈ ps, ∀ n m e, p.v = .fin n m e → ∀ q : Int, q ≤ e → q ≤ top → m * 2 ^ (e - q).toNat < 2 ^ (top + 1 - q).toNat) →
      let q := top - 60
      let term : Prod → Int := fun p => match p.v with
        | .fin n m e => (if n then -1 else 1) * ((m * 2 ^ (e - q).toNat / 2 ^ (q - e).toNat : Nat) : Int)
        | _ => 0
      let sum : Int := (ps.map term).sum
      w = if sum = 0 then (0, 0) else binary32.of .rne false (.fin (decide (sum < 0)) sum.natAbs q)) ∧
  (∀ (acc : Nat × Fl) (ps : List Prod), let r := fAdd .f .rne false acc.1 (windowSum ps).1
    kSlice acc ps = (r.1, acc.2 ||| (windowSum ps).2 ||| r.2)) ∧
  (∀ (an bn : Bool) (am bm : Nat) (ae be sa sb : Int),
    mkProd (.fin an am ae) (.fin bn bm be) (some sa) (some sb) = ⟨.fin (an != bn) (am * bm) (ae + sa + (be + sb)), false⟩) ∧
  ∀ (a b : FV) (sa sb : Option Int),
    (sa = none ∨ sb = none ∨ (∃ g, a = .nan g) ∨ (∃ g, b = .nan g) → ∃ g, (mkProd a b sa sb).v = .nan g) ∧
    (∀ n m e, sa ≠ none → sb ≠ none → (a = .inf n ∧ b = .fin m 0 e) ∨ (b = .inf n ∧ a = .fin m 0 e) →
      ∃ g, mkProd a b sa sb = ⟨.nan g, true⟩)

/-- 09 R192 to R196, 02 R46 to R48, for the byte formats: each element of the tile takes the K-slices in ascending order, six of
an MMA and twelve of an MMASP, over the products of its row and column; of a pruned operand the products of the kept elements
alone, at the places that the metadata names. The flags are those of every element. -/
def Sys2Proof.Claims.TileElements : Prop :=
  ∀ (m : Mma) (panel metaB scales : List Byte) (acc : Nat → Nat), m.afmt ∈ [.e4m3, .e5m2, .e3m2, .e2m3, .mxi8] →
    m.bfmt ∈ [.e4m3, .e5m2, .e3m2, .e2m3, .mxi8] → m.a.length = 3072 → panel.length = (if m.sparse then 49152 else 24576) →
    (m.sparse = true → metaB.length = 768) → scales.length = (if m.sparse then 12 else 6) * ((if m.ascaled then 16 else 0) + (if m.bscaled then 128 else 0)) →
    let nb := if m.sparse then 12 else 6
    let scale := fun (on : Bool) (k : Nat) => if on then
        (if scales.getD k 0 = 0xFF then none else some (((scales.getD k 0).toNat : Int) - 127)) else some 0
    let place := fun (i c : Nat) => if m.sparse then
        4 * (c / 2) + (metaB.getD (48 * i + c / 4) 0).toNat / 2 ^ (2 * (c % 4)) % 4 else c
    let prod := fun (i n c : Nat) => mkProd (elemVal m.afmt (m.a.getD (192 * i + c) 0).toNat)
        (elemVal m.bfmt (panel.getD (32 * nb * n + place i c) 0).toNat)
        (scale m.ascaled (nb * i + place i c / 32)) (scale m.bscaled ((if m.ascaled then 16 * nb else 0) + nb * n + place i c / 32))
    let out := fun (i n : Nat) => (List.range nb).foldl (fun x q =>
        kSlice x (((List.range 192).filter fun c => decide (place i c / 32 = q)).map (prod i n))) (if m.z then 0 else acc (128 * i + n), 0)
    let r := mmaResult m panel metaB scales acc
    (∀ i n, i < 16 → n < 128 → r.1[128 * i + n]? = some (BitVec.ofNat 32 (out i n).1)) ∧
    ∀ b, r.2.getLsbD b = true ↔ ∃ i n, i < 16 ∧ n < 128 ∧ (out i n).2.getLsbD b = true

/-- 09 R184 to R208, 02 R46 to R48: spans, proofs and tile updates, and the arithmetic of the K-slices. -/
def Obligations.TileEngines : Prop :=
  Sys2Proof.Claims.WindowValues ∧
  Sys2Proof.Claims.TileElements ∧
  Sys2Proof.Claims.OperandsLatched ∧
  Sys2Proof.Claims.SpanOpens ∧
  Sys2Proof.Claims.ProofFails ∧
  Sys2Proof.Claims.TileUpdates

/-- 17 R315 to R322: the steps of a card: it starts, closes and may set its flags, ends with a code, sends its next chunk, asks
for what the chunk touches, reads, or writes a chunk's bytes, counted in its semaphore. Only a write changes bytes. -/
def Sys2Proof.Claims.CardSteps : Prop :=
  ∀ (s : State) (i : Nat) (c : Card) (st : CardStep) (ev : Instr), s.Inv → c.cl < 32 → s.CardDue i c st →
    (c.kind, ev) ∈ [(1, Instr.copyChunk i), (2, .gatherChunk i), (3, .digestChunk i)] →
    (∀ p, st ∈ [.index p, .read p, .write p] → s.cardGroups c p = []) →
    ∃ t, exec ev s = .next t ∧ t.waves = s.waves ∧ t.tiles = s.tiles ∧
      match st with
      | .close => t.mem.bytes = s.mem.bytes ∧ t.cards = s.cards.filter fun e => !(e.uid == c.uid && e.handle == c.handle)
      | .halt code addr => s.CardEnded t c code addr
      | .start => t.mem = s.mem ∧ ∃ d, t.cards.find? (fun e => e.uid == c.uid && e.handle == c.handle) = some d
          ∧ d = { c with started := true, fate := d.fate }
      | .ask p => t.mem.bytes = s.mem.bytes ∧ (((c.phase p).1 ≠ .main ∨ s.gaps c.ghost (c.phase p).2.2 = []) → ∃ d,
          t.cards.find? (fun e => e.uid == c.uid && e.handle == c.handle) = some d ∧ d = c.setChunk { p with asked := true })
      | .index _ | .read _ => t.mem.bytes = s.mem.bytes
      | .send _ _ _ => t.mem.bytes = s.mem.bytes ∧ ∃ d, t.cards.find? (fun e => e.uid == c.uid && e.handle == c.handle) = some d
          ∧ d.sent = c.sent + 1 ∧ d.chunk = c.chunk
          ∧ d.pipe.map (fun p => (p.c, p.id)) = c.pipe.map (fun p => (p.c, p.id)) ++ [(c.sent, s.nextUid)]
      | .write p => ∀ bs, p.data = some bs → c.kind = 1 → c.chunk + 1 < c.chunks → c.stop = none →
          s.cardFail c c.dspace .write (bs.map Prod.fst) = none →
          (∃ d, t.cards.find? (fun e => e.uid == c.uid && e.handle == c.handle) = some d
            ∧ d.chunk = c.chunk + 1 ∧ d.done = c.done + bs.length ∧ d.code = c.code ∧ d.pipe = c.pipe.filter fun q => q.c != p.c)
          ∧ (c.dspace ≠ .main → t.mem = bs.foldl (fun m x => match (s.cardLook c c.dspace .write x.1).loc with
              | some l => m.writeLoc l [x.2] | none => m) s.mem)
          ∧ (c.semen = true → c.events = false → c.sem < 64 →
              (((t.cluster c.cl).sem c.sem).count.toNat : Int)
                = min (((s.cluster c.cl).sem c.sem).count.toNat + bs.length) 4294967295)

/-- 17 R315, R316: over its chunks a copy names each byte of its rows once, in the order of its job; a transposing copy names
each byte of each element, with row and column exchanged. -/
def Sys2Proof.Claims.CopyAddresses : Prop :=
  ∀ (c : Card), c.kind = 1 →
    let all := (List.range c.chunks).flatMap c.copyBytes
    (c.transpose = false → all = (List.range c.rows).flatMap fun i => (List.range c.count).map fun j =>
      (c.src + i * c.sstride + j, c.dst + i * c.dstride + j)) ∧
    (c.transpose = true → c.count % c.esize = 0 →
      all = (List.range (c.count / c.esize)).flatMap fun j => (List.range c.rows).flatMap fun i =>
        (List.range c.esize).map fun k => (c.src + i * c.sstride + c.esize * j + k, c.dst + j * c.dstride + c.esize * i + k))

/-- 17 R316, R320: a gather chunk reads its eight indices, or those that are left, as 32-bit words; then its elements, byte by byte,
with zero for one out of bounds or withheld; and writes them where the destination takes them, counting what it wrote. -/
def Sys2Proof.Claims.GatherChunks : Prop :=
  ∀ (s : State) (i : Nat) (c : Card) (p : Chunk), s.Inv → c.cl < 32 → c.kind = 2 → s.cardGroups c p = [] →
    let found := fun (t : State) => t.cards.find? fun e => e.uid == c.uid && e.handle == c.handle
    (s.CardDue i c (.index p) →
      let as := (List.range (min 8 (c.count - 8 * p.c))).map fun j => c.idx + 32 * p.c + 4 * j
      (∀ a ∈ as, (s.cardLook c c.ispace .read a).refused = false) →
      ∃ t d q, exec (.gatherChunk i) s = .next t ∧ t.mem.bytes = s.mem.bytes ∧ found t = some d ∧ q ∈ d.pipe ∧ q.c = p.c ∧
        q.idx = some (as.map fun a => if (s.cardLook c c.ispace .read a).withheld then none
          else some (((List.range 4).map fun o => (s.byteAt c c.ispace (a + o)).toNat * 256 ^ o).sum))) ∧
    (∀ xs, p.idx = some xs → s.CardDue i c (.read p) →
      (∀ v, some v ∈ xs → c.esize * v + c.esize ≤ c.srclen → (s.cardLook c c.sspace .read (c.src + c.esize * v)).refused = false) →
      ∃ t d q bs, exec (.gatherChunk i) s = .next t ∧ t.mem.bytes = s.mem.bytes ∧ found t = some d ∧ q ∈ d.pipe ∧ q.c = p.c
        ∧ q.data = some bs ∧ bs.length = c.esize * xs.length ∧
        ∀ j o x, xs[j]? = some x → o < c.esize →
          let a := fun (v : Nat) => c.src + c.esize * v
          bs[c.esize * j + o]? = some (c.dst + c.esize * (8 * p.c + j) + o, match x with
            | none => 0
            | some v => if c.esize * v + c.esize ≤ c.srclen ∧ (s.cardLook c c.sspace .read (a v)).withheld = false then
                s.byteAt c c.sspace (a v + o) else 0)) ∧
    ∀ bs, p.data = some bs → s.CardDue i c (.write p) → c.chunk + 1 < c.chunks → c.stop = none →
      (∀ x ∈ bs, (s.cardLook c c.dspace .write x.1).refused = false) →
      ∃ t d, exec (.gatherChunk i) s = .next t ∧ found t = some d ∧ d.chunk = c.chunk + 1 ∧ d.code = c.code
        ∧ d.pipe = c.pipe.filter (fun q => q.c != p.c) ∧ t.mem = (s.putBytes c bs).mem
        ∧ (c.dspace ≠ .main → t.mem = bs.foldl (fun m x => match (s.cardLook c c.dspace .write x.1).loc with
            | some l => m.writeLoc l [x.2] | none => m) s.mem)
        ∧ d.done = c.done + (bs.filter fun x => (s.cardLook c c.dspace .write x.1).loc.isSome).length / c.esize
        ∧ d.ocount = c.ocount + p.outside

/-- 17 R317: a digest chunk reads up to 136 bytes on from those before it; once absorbed the last makes SHAKE256 of the message the
output, 32 bytes or in mode 1 64; and the output is written at dst, and the card ends with code 1. -/
def Sys2Proof.Claims.DigestChunks : Prop :=
  ∀ (s : State) (i : Nat) (c : Card) (p : Chunk), s.Inv → c.cl < 32 → c.kind = 3 → s.cardGroups c p = [] →
    let found := fun (t : State) => t.cards.find? fun e => e.uid == c.uid && e.handle == c.handle
    let as := (List.range (min 136 (c.count - 136 * p.c))).map fun o => c.src + 136 * p.c + o
    (s.CardDue i c (.read p) → s.cardFail c c.sspace .read as = none →
      ∃ t d q bs, exec (.digestChunk i) s = .next t ∧ t.mem.bytes = s.mem.bytes ∧ found t = some d ∧ q ∈ d.pipe ∧ q.c = p.c
        ∧ q.data = some bs ∧ bs.map Prod.snd = as.map fun a => s.byteAt c c.sspace a) ∧
    (∀ bs, p.data = some bs → s.CardDue i c (.write p) → c.stop = none → p.c ≠ c.chunks →
      let msg := c.msg ++ bs.map Prod.snd
      ∃ t d, exec (.digestChunk i) s = .next t ∧ t.mem.bytes = s.mem.bytes ∧ found t = some d ∧ d.msg = msg ∧ d.chunk = c.chunk + 1 ∧
        if c.chunk + 1 < c.chunks then d.pipe = c.pipe.filter fun q => q.c != p.c
        else ∃ q, d.pipe = [q] ∧ q.c = c.chunks
          ∧ q.data = some ((shake256 (if c.mode = 1 then 64 else 32) (msg.map BitVec.toNat)).zipIdx.map fun x => (c.dst + x.2, BitVec.ofNat 8 x.1))) ∧
    ∀ bs, p.data = some bs → s.CardDue i c (.write p) → c.stop = none → p.c = c.chunks → c.chunk = c.chunks →
      s.cardFail c c.dspace .write (bs.map Prod.fst) = none →
      ∃ (t u : State) (d : Card), exec (.digestChunk i) s = .next t ∧ u.CardEnded t d 1 0 ∧ u.mem = (s.putBytes c bs).mem ∧ u.now = s.now ∧ u.blocks = s.blocks
        ∧ (u.cluster c.cl).clock = (s.cluster c.cl).clock
        ∧ d.uid = c.uid ∧ d.handle = c.handle ∧ d.word = c.word ∧ d.bid = c.bid ∧ d.done = c.done + bs.length

/-- 17 R315 to R322: cards at work. -/
def Obligations.Cards : Prop :=
  Sys2Proof.Claims.CardSteps ∧
  Sys2Proof.Claims.CopyAddresses ∧
  Sys2Proof.Claims.GatherChunks ∧
  Sys2Proof.Claims.DigestChunks

/-! ## Main memory (11 R219, R232 to R234, 12) -/

/-- 12 R239, R251, R252: a request is tagged with the generation and the home of its granule: granule g of n live
pseudo-channels stands in the (g mod n)-th, at index g / n; above CAP it ends its context with the capacity fault. -/
def Sys2Proof.Claims.Dispatch : Prop :=
  ∀ (s : State) (i : Nat) (r : Req), s.mem.reqs[i]? = some r → s.Undispatched r →
    let g := r.addr / 512
    let at' := fun (live : List Nat) => (live.getD (g % live.length) 0, g / live.length)
    let tagged := fun (x : Option (Nat × Nat × Nat)) =>
      ∃ t, exec (.memoryRequestDispatch i) s = .next t ∧ (∀ d ∈ t.cards, ∃ c ∈ s.cards, d = { c with begun := d.begun })
        ∧ t = { s with
            mem := { s.mem with reqs := s.mem.reqs.set i { r with tag := x, retry := false, again := [] } }
            cards := t.cards }
    (r.addr < s.mem.cap → s.mem.sweep = none → tagged (some (s.mem.gen, at' s.mem.live))) ∧
    (∀ sw, r.addr < s.mem.cap → s.mem.sweep = some sw →
      (g = sw.f → tagged none) ∧
      (sw.f < g → tagged (some (s.mem.gen + 1, at' sw.live))) ∧
      (g < sw.f → tagged (some (s.mem.gen, at' s.mem.live)))) ∧
    ∀ gid, s.mem.cap ≤ r.addr → s.reqGrid r = some gid →
      ∃ t, exec (.memoryRequestDispatch i) s = .next t ∧ s.Faults t gid 0x0006 ∧ t.mem.bytes = s.mem.bytes
        ∧ (s.NoCard r → r.walk = none → t.mem.dataReqs = s.mem.dataReqs.erase r)

/-- 11 R232, R233, 12 R244, R245: a slot of a live pseudo-channel is claimed once; with nothing waiting it changes no byte; a class-0
request of the owner is served first, then one of class 1, whose store then stands in memory. A request of which the first reads
of some atoms meet detected errors waits for the retry of those, and changes no byte. -/
def Sys2Proof.Claims.SlotService : Prop :=
  ∀ (s : State) (pc : Nat) (ecc : List Ecc), s.Inv → pc ∈ s.mem.live → (s.chan pc).next ≤ s.slotNow →
    let e := (s.chan pc).entry s.slotNow
    ∃ t, exec (.memorySlotService pc ecc) s = .next t ∧ (t.chan pc).next = s.slotNow + 1 ∧ t.mem.live = s.mem.live ∧
      (s.waitingAt pc = [] → s.sweepAt pc = false → t.mem.bytes = s.mem.bytes ∧ t.mem.reqs = s.mem.reqs) ∧
      (e.1 = 2 → t.mem.bytes = s.mem.bytes ∧ t.mem.reqs = s.mem.reqs) ∧
      (∀ r, e.1 = 1 → (s.chan pc).half = true → s.pick pc e.2.1 false = [r] → (∀ x ∈ ecc, x ≠ .poison) →
        (∀ k ∈ s.readAtoms r, s.mem.atomKey k ∉ s.mem.poison) →
        let again := ((s.readAtoms r).zipIdx.filter fun x => ecc.getD x.2 .good == .detected).map Prod.fst
        again ≠ [] → t.mem.bytes = s.mem.bytes ∧ (t.chan pc).retried = (s.chan pc).retried + 1
          ∧ t.mem.reqs = s.mem.reqs.map fun q => if q = r then { q with retry := true, again := again } else q) ∧
      ∀ r a, e.1 = 1 → (s.chan pc).half = true → (∀ x ∈ ecc, x = .good) → r.walk = none → s.accOf r.acc = some a →
        (∀ k ∈ s.readAtoms r, s.mem.atomKey k ∉ s.mem.poison) →
        (s.pick pc e.2.1 false = [r] → a.cls1 = false → t.mem.bytes = s.mem.bytes ∧ t.mem.reqs = s.mem.reqs.erase r) ∧
        (s.pick pc e.2.1 false = [] → s.pick pc e.2.1 true = [r] → a.cls1 = true →
          ∀ x k, a.lanes = [x] → accKind a.i = some k → k.atomic = false → x.live = true → r.takes x = true →
            t.mem.bytes = (if k.need.wr then (s.mem.writeLoc x.loc (toBytes k.m.sz.bytes x.data)).bytes else s.mem.bytes)
            ∧ t.mem.reqs = s.mem.reqs.erase r)

/-- 12 R244, R245: the retry of a request takes a free gutter slot and reads again the atoms whose first reads met detected errors;
where one of them fails again the outcome is uncorrectable: nothing is delivered and the context ends. With no request waiting, the
slot goes to the retry of the sweep's reads of one transfer, and an atom that fails again is lost. -/
def Sys2Proof.Claims.GutterRetry : Prop :=
  ∀ (s : State) (pc : Nat) (ecc : List Ecc), s.Inv → s.gutterFree pc = true →
    (∀ gid r, s.oldestRetry pc = some r → s.reqGrid r = some gid →
      ((∃ j, j < (s.nextAtoms r).length ∧ (ecc.getD j .good = .detected ∨ ecc.getD j .good = .poison)) →
        ∃ t, exec (.eccRetry pc ecc) s = .next t ∧ (t.chan pc).next = s.slotNow + 1
          ∧ (t.chan pc).uncorrectable = (s.chan pc).uncorrectable + 1 ∧ t.mem.bytes = s.mem.bytes ∧ s.Faults t gid 0x0005) ∧
      (∀ a, r.walk = none → s.accOf r.acc = some a → a.cls1 = false → (∀ k ∈ s.readAtoms r, s.mem.atomKey k ∉ s.mem.poison) →
        (∀ x ∈ ecc, x = .good) →
        ∃ t, exec (.eccRetry pc ecc) s = .next t ∧ (t.chan pc).next = s.slotNow + 1
          ∧ t.mem.reqs = s.mem.reqs.erase r ∧ t.mem.bytes = s.mem.bytes ∧ t.grids = s.grids)) ∧
    ∀ sw, s.oldestRetry pc = none → s.mem.sweep = some sw → s.sweepAgain pc ≠ [] →
      let js := s.sweepAgain pc
      ∃ t n, exec (.eccRetry pc ecc) s = .next t ∧ (t.chan pc).next = s.slotNow + 1 ∧ t.mem.bytes = s.mem.bytes
        ∧ (∀ j ∈ js, j ∈ sw.again ∧ j / 4 = sw.again.headD 0 / 4) ∧ t.mem.sweep = some n
        ∧ n = { sw with again := sw.again.filter (fun j => !js.contains j), lost := n.lost }
        ∧ ∀ j, j ∈ n.lost ↔ j ∈ sw.lost ∨ ∃ k, js[k]? = some j ∧ (ecc.getD k .good = .detected ∨ ecc.getD k .good = .poison)

/-- 11 R232, 12 R237, R238, R244, 20 R394: a refresh takes a transfer of a gutter slot and nothing else; tables and widths change at a
period boundary; a link flit lost twice is uncorrectable. -/
def Sys2Proof.Claims.ChannelUpkeep : Prop :=
  ∀ (s : State) (pc ch i : Nat), s.Inv →
    (s.gutterFree pc = true →
      exec (.refresh pc) s = .next (s.updChan pc fun c =>
        { c with next := s.slotNow + 1, spare := decide (c.next ≤ s.slotNow) && !c.half })) ∧
    (∃ t, exec (.slotTablePeriod pc) s = .next t ∧ t.mem = { s.mem with chans := t.mem.chans }
      ∧ t.chan pc = { s.chan pc with table := (s.chan pc).tableNext, half := (s.chan pc).halfNext }
      ∧ (∀ p, p ≠ pc → t.chan p = s.chan p)
      ∧ t.arb = (if (s.chan pc).half ≠ (s.chan pc).halfNext ∧ pc % 2 = 0 then
          (s.report (chanEv 0x0104 pc [pc / 2, bit (s.chan pc).halfNext])).arb else s.arb)) ∧
    (∃ t, exec (.channelHalfWidth ch) s = .next t ∧ t = { s with mem := { s.mem with chans := t.mem.chans, laneFaults := t.mem.laneFaults } }
      ∧ ch ∈ t.mem.laneFaults
      ∧ ∀ p, t.chan p = if p / 2 = ch then { s.chan p with halfNext := true } else s.chan p) ∧
    (exec (.dieLinkRetry i true) s = .next s) ∧
    ∀ r x gid, s.mem.reqs[i]? = some r → r.tag = some x → s.reqGrid r = some gid →
      ∃ t, exec (.dieLinkRetry i false) s = .next t ∧ t.mem.bytes = s.mem.bytes
        ∧ (s.NoCard r → r.walk = none → t.mem.dataReqs = s.mem.dataReqs.erase r) ∧ s.Faults t gid 0x0005

/-- 12 R245, R248 to R250, R255: the reads of the granule at F are judged once all four are made: a poisoned atom is lost, one with
a detected error waits for its retry. A granule whose transfers are done stands at its new home with its 512 bytes, its lost atoms
poisoned there and event 0x0106 reported; the sweep goes on to the granule below, and after granule 0 the new live list and the next
generation stand, with event 0x0107. -/
def Sys2Proof.Claims.SweepMoves : Prop :=
  ∀ (s : State) (ecc : List Ecc) (sw : Sweep), s.Inv → s.mem.sweep = some sw →
    let a := home s.mem.live sw.f
    let b := home sw.live sw.f
    let src := homeKey a.1 a.2
    let dst := homeKey b.1 b.2
    (a ≠ b → sw.xfers < 8 → sw.xfers ≠ 4 ∨ sw.checked = true → exec (.sweepGranule ecc) s = .next s) ∧
    (a ≠ b → sw.xfers = 4 → sw.checked = false → ∃ t n, exec (.sweepGranule ecc) s = .next t ∧ t.mem.bytes = s.mem.bytes
      ∧ t.mem.sweep = some n ∧ n = { sw with checked := true, again := n.again, lost := n.lost }
      ∧ (∀ j, j ∈ n.lost ↔ j < 16 ∧ (src + 32 * j ∈ s.mem.poison ∨ ecc.getD j .good = .poison))
      ∧ ∀ j, j ∈ n.again ↔ j < 16 ∧ j ∉ n.lost ∧ ecc.getD j .good = .detected) ∧
    (a = b ∨ 8 ≤ sw.xfers → ∃ t, exec (.sweepGranule ecc) s = .next t
      ∧ (a = b → t.mem.bytes = s.mem.bytes)
      ∧ (a ≠ b → t.mem.read dst 512 = s.mem.read src 512
          ∧ (∀ k, (k < dst ∨ dst + 512 ≤ k) → t.mem.byte k = s.mem.byte k)
          ∧ ∀ j, j < 16 → (dst + 32 * j ∈ t.mem.poison ↔ j ∈ sw.lost))
      ∧ (sw.lost ≠ [] → ∃ e, (s.now, e) ∈ t.arb.inbox ∧ e.code = 0x0106 ∧ e.die = a.1 / 128 ∧ e.unit = a.1 / 128
          ∧ e.detail = [sw.f])
      ∧ (sw.f ≠ 0 → t.mem.live = s.mem.live ∧ t.mem.gen = s.mem.gen
          ∧ ∃ n, t.mem.sweep = some n ∧ n.f = sw.f - 1 ∧ n.live = sw.live ∧ n.xfers = 0 ∧ n.checked = false ∧ n.again = []
            ∧ n.lost = [] ∧ n.moved = sw.moved + (if a = b then 0 else 1)
            ∧ n.poisoned = sw.poisoned + (if sw.lost = [] then 0 else 1))
      ∧ (sw.f = 0 → t.mem.live = sw.live ∧ t.mem.gen = (s.mem.gen + 1) % 2 ^ 31 ∧ t.mem.sweep = none
          ∧ ∃ e, (s.now, e) ∈ t.arb.inbox ∧ e.code = 0x0107 ∧ e.die = b.1 / 128
            ∧ e.detail = [sw.moved + (if a = b then 0 else 1), sw.poisoned + (if sw.lost = [] then 0 else 1),
                (s.mem.gen + 1) % 2 ^ 31]))

/-- 12 R256 to R259: a groom visit that finds nothing uncorrectable changes nothing; a lane of an access that meets an
uncorrectable group finds it and delivers nothing; an uncorrectable group without an owner is
rewritten with zeros and reported; one that a grid owns ends its context. -/
def Sys2Proof.Claims.Grooming : Prop :=
  ∀ (s : State) (k : Nat), s.Inv →
    (k ∉ s.mem.broken → exec (.groomVisit k .good) s = .next s ∧ exec (.groomVisit k .correctable) s = .next s) ∧
    (∀ f, k ∈ s.mem.broken → exec (.groomVisit k f) s = exec (.groomVisit k .uncorrectable) s) ∧
    (∀ (i : Instr) (n : Nat) (x : LaneAcc), x.live = true → s.brokenLoc x.loc n ≠ [] →
      s.laneEffect i n x = (s.found (s.brokenLoc x.loc n), { x with withheld := true, done := true })) ∧
    (s.ownerOf k = none → k < 2 ^ 47 → ∃ t, exec (.groomVisit k .uncorrectable) s = .next t ∧ k ∉ t.mem.broken ∧ k ∉ t.mem.toMend
      ∧ (∀ j, t.mem.byte j = if k / 32 = j / 32 then 0 else s.mem.byte j)
      ∧ (∃ e, (s.now, e) ∈ t.arb.inbox ∧ e.code = 0x010D) ∧ t.waves = s.waves ∧ t.grids = s.grids) ∧
    ∀ gid, s.ownerOf k = some gid → ∃ t, exec (.groomVisit k .uncorrectable) s = .next t
      ∧ t.mem.bytes = s.mem.bytes ∧ k ∈ t.mem.broken ∧ k ∈ t.mem.toMend ∧ s.Faults t gid 0x0005

/-- 11 R219, R220: an entry that a walk has read goes to its wave, and to the cache of the die unless it is of type 00 or
malformed. -/
def Sys2Proof.Claims.WalkReads : Prop :=
  ∀ (s : State) (i uid ia level : Nat) (r : Req), s.mem.reqs[i]? = some r → r.walk = some (uid, ia, level) → r.read = true →
    let pte := BitVec.ofNat 64 (s.mem.word r.addr 8)
    let bad := pte.toNat % 4 = 0 ∨ pteBad s.mem.cap level pte.toNat = true
    let page := ia / 2 ^ levelShift level
    ∃ t, exec (.pageWalkRead i) s = .next t ∧ t.mem.bytes = s.mem.bytes ∧ t.mem.reqs = s.mem.reqs.erase r
      ∧ (∀ w, s.waveOf uid = some w → t.waveOf uid = some { w with walked := ⟨page, level, pte⟩ :: w.walked })
      ∧ (bad → t.mem.tlb = s.mem.tlb)
      ∧ (¬ bad → t.mem.tlb = ⟨r.cl / 8, r.asid, level, page, pte⟩ :: s.mem.tlb)

/-- 11 R219, R232 to R234, 12: requests, slots, retries, sweeps, grooming and page walks. -/
def Obligations.MainMemory : Prop :=
  Sys2Proof.Claims.Dispatch ∧
  Sys2Proof.Claims.SlotService ∧
  Sys2Proof.Claims.GutterRetry ∧
  Sys2Proof.Claims.ChannelUpkeep ∧
  Sys2Proof.Claims.SweepMoves ∧
  Sys2Proof.Claims.Grooming ∧
  Sys2Proof.Claims.WalkReads

/-! ## Page service and ordered windows (11 R226 to R230, 13 R279, R280) -/

/-- 11 R226, R227: the first record held goes into the next slot of the queue, once that slot is free: 32 bytes with its
sequence number, page, window and kind. -/
def Sys2Proof.Claims.RecordPosted : Prop :=
  ∀ (s : State) (asid : Nat) (e : AsidSt) (r : FaultRec), s.Inv → s.asid asid = some e →
    e.recs.find? (fun r => !r.posted) = some r → e.slotFree = true → s.mem.live.Nodup → s.mem.sweep = none →
    let a := e.fqbase + 32 * (e.prod % 2 ^ e.fqn)
    a + 32 ≤ s.mem.cap → (∀ j, j < 32 → s.mem.key (a + j) / 32 * 32 ∉ s.mem.poison) →
    s.postLost e.root (r.ipage * 65536) = none →
    ∃ t f q, exec (.faultRecordPost asid) s = .next t ∧ t.asid asid = some f ∧ f.prod = e.prod + 1
      ∧ q ∈ f.recs ∧ q.posted = true ∧ q.seq = e.prod ∧ q.vpage = r.vpage ∧ q.ipage = r.ipage
      ∧ s.mem.keysOf (.main a none) 32 = (List.range 32).map (fun j => s.mem.key (a + j))
      ∧ (let x := t.mem.word a 32
         (r.vpage < 2 ^ 48 → r.ipage < 2 ^ 48 → r.window < 16 → asid < 2 ^ 13 → q.mapgen < 2 ^ 64 →
           fld x 208 48 = r.vpage ∧ fld x 160 32 = e.prod % 2 ^ 32 ∧ fld x 147 13 = asid ∧ fld x 143 4 = r.window
             ∧ fld x 142 1 = bit r.write ∧ fld x 16 48 = r.ipage))
      ∧ ∀ k, k ∉ s.mem.keysOf (.main a none) 32 → t.mem.byte k = s.mem.byte k

/-- 12 R245, R252: a record whose slot lies at or above CAP, or whose walk meets a poisoned entry, ends its context as it is posted. -/
def Sys2Proof.Claims.RecordLost : Prop :=
  ∀ (s : State) (asid : Nat) (e : AsidSt) (r : FaultRec), s.asid asid = some e →
    e.recs.find? (fun r => !r.posted) = some r → e.slotFree = true →
    let lost := s.postLost e.root (r.ipage * 65536)
    let aboveCap := s.mem.cap < e.fqbase + 32 * (e.prod % 2 ^ e.fqn) + 32
    (aboveCap → ∃ t, exec (.faultRecordPost asid) s = .next t ∧ s.Faults t r.gid 0x0006 ∧ t.mem.bytes = s.mem.bytes) ∧
    (¬ aboveCap → lost ≠ none → ∃ t, exec (.faultRecordPost asid) s = .next t ∧ s.Faults t r.gid 0x0005) ∧
    (s.mem.poison = [] → lost = none)

/-- 11 R228, 23 R474: the next completion record is read once its phase bit is that of its pass; it completes the record of its
sequence number, or is ignored and reported. A read at or above CAP, or of a poisoned atom, ends the contexts of the ASID (the
model's choice, log 113). -/
def Sys2Proof.Claims.CompletionRead : Prop :=
  ∀ (s : State) (asid : Nat) (e : AsidSt), s.asid asid = some e →
    (e.asid = asid → s.complBad e = true → e.recs.any (fun r => r.posted) = true → (s.grids.map Grid.gid).Nodup →
      ∃ t, exec (.completionRecordRead asid) s = .next t ∧ t.mem.bytes = s.mem.bytes
        ∧ ∀ g ∈ t.grids, g.l.asid = asid → g.phase ≠ .run) ∧
    (s.complBad e = true ↔ s.mem.cap < e.cqbase + 16 * (e.cons % 2 ^ e.cqn) + 16
      ∨ s.mem.lostPa (e.cqbase + 16 * (e.cons % 2 ^ e.cqn)) 16 = true) ∧
    (s.complBad e = false →
    let v := s.mem.word (e.cqbase + 16 * (e.cons % 2 ^ e.cqn)) 16
    let seq := fld v 32 32
    fld v 1 1 = (if e.cons / 2 ^ e.cqn % 2 = 0 then 1 else 0) →
    let mine := fun (r : FaultRec) => r.posted && r.seq % 2 ^ 32 == seq
    ∃ t f, exec (.completionRecordRead asid) s = .next t ∧ t.asid asid = some f ∧ f.cons = e.cons + 1 ∧ t.mem = s.mem
      ∧ (fld v 2 17 = 0 → fld v 19 13 = asid → e.recs.any mine = true →
          f.recs = e.recs.map (fun r => if mine r then { r with compl := some (fld v 64 64, odd (fld v 0 1)) } else r)
          ∧ t.arb = s.arb)
      ∧ (fld v 2 17 ≠ 0 ∨ fld v 19 13 ≠ asid ∨ e.recs.any mine = false →
          f.recs = e.recs ∧ ∃ x, (s.now, x) ∈ t.arb.inbox ∧ x.code = 0x010A ∧ x.detail = [seq, fld v 19 13]))

/-- 11 R228 to R230: a completed record whose target is reached leaves the queue and is remembered; a mapping fence, its
accesses done and the ordered ones merged, counts MAPGEN on in each live grid of the ASID; its translations went with the command (`OtherCommands`). -/
def Sys2Proof.Claims.PagesServed : Prop :=
  ∀ (s : State) (asid seq : Nat) (e : AsidSt), s.asid asid = some e →
    (∀ r, e.recs.find? (fun r => r.seq == seq && s.servable r) = some r →
      ∃ t f, exec (.faultRecordServed asid seq) s = .next t ∧ t.asid asid = some f ∧ f.recs = e.recs.erase r
        ∧ t = { s with asids := t.asids }
        ∧ f.served.head? = some (r.gid, r.vpage, (r.compl.map Prod.snd).getD false)) ∧
    (∀ f fs, e.fences = f :: fs → ((∃ id ∈ f.accs, ∃ a, s.accOf id = some a ∧ a.effected = false) ∨
        ∃ h ∈ s.held, ∃ id ∈ f.accs, h.acc = some id) → exec (.mappingFenceComplete asid) s = .next s) ∧
    (∀ f fs, e.fences = f :: fs → (∀ id ∈ f.accs, ∀ a, s.accOf id = some a → a.effected = true) →
      (∀ h ∈ s.held, ∀ id ∈ f.accs, h.acc ≠ some id) →
      ∃ t g, exec (.mappingFenceComplete asid) s = .next t ∧ t.asid asid = some g ∧ g.fences = fs
        ∧ t.mem = s.mem
        ∧ t.grids = s.grids.map (fun (g : Grid) =>
            if g.l.asid = asid ∧ g.phase = .run then { g with mapgen := g.mapgen + 1 } else g)
        ∧ ∃ x, (s.now, x) ∈ t.arb.inbox ∧ x.code = 0x011D)

/-- 13 R279, R280: the close of a window applies its held updates in the order of address, issuer and program order, and
releases the ORDFLs that waited for it; an update at or above CAP ends the context with the capacity fault. -/
def Sys2Proof.Claims.WindowCloses : Prop :=
  ∀ (s : State) (gid : Nat) (g : Grid), s.Inv → s.gridOf gid = some g → s.closable g = true →
    let mine := fun (h : Held) => h.gid == gid && h.window == g.closed
    let ups := s.held.filter mine
    (s.mem.poison = [] → (∃ h ∈ ups, s.mem.cap < h.pa + if h.wide then 8 else 4) →
      ∃ t, exec (.windowCloseMerge gid) s = .next t ∧ s.Reported t 0x0006 ∧ ∀ h ∈ t.held, h.gid ≠ gid) ∧
    ((∀ h ∈ ups, (h.pa + if h.wide then 8 else 4) ≤ s.mem.cap ∧ s.mem.lostPa h.pa (if h.wide then 8 else 4) = false) →
    ∃ (t : State) (order : List Held), exec (.windowCloseMerge gid) s = .next t ∧ order.Perm ups
      ∧ order.Pairwise (fun a b => a.pa < b.pa ∨ (a.pa = b.pa ∧ (a.gtid < b.gtid ∨ (a.gtid = b.gtid ∧ a.seq ≤ b.seq))))
      ∧ t.held = s.held.filter (fun h => !mine h)
      ∧ (g.phase = .run → g.retired < g.blocks → t.mem = order.foldl (fun m h =>
          let n := if h.wide then 8 else 4
          m.writeLoc (.main h.pa h.enc)
            (toBytes n (atomVal h.op n (ofBytes (m.readLoc (.main h.pa h.enc) n)) h.x))) s.mem)
      ∧ ∀ a ∈ s.accs, a.gid = gid → isOrdfl a.i = true → (∀ x ∈ a.wnum, x.2 ≤ g.closed) →
          { a with effected := true } ∈ t.accs)

/-- 11 R226 to R230, 13 R279, R280: page service and ordered windows. -/
def Obligations.PageServiceAndWindows : Prop :=
  Sys2Proof.Claims.RecordPosted ∧
  Sys2Proof.Claims.RecordLost ∧
  Sys2Proof.Claims.CompletionRead ∧
  Sys2Proof.Claims.PagesServed ∧
  Sys2Proof.Claims.WindowCloses

/-! ## The marshal's own steps (07 R156 to R161, 18, 19 R375 to R391) -/

/-- 18 R333: an idle partition takes its next queue entry and starts its graph; an entry above CAP, or with a reserved field
set, stops it. -/
def Sys2Proof.Claims.QueueTaken : Prop :=
  ∀ (s : State) (p : Nat), p < 8 →
    let q := s.part p
    let a := q.qbase.toNat + 16 * (q.qhead.toNat % 2 ^ q.qsize.toNat)
    let x := s.mem.word a 16
    q.mstate = .idle → q.qhead ≠ q.qtail → q.preemptAt = none →
    let u := s.updPart p fun q => { q with qhead := q.qhead + 1 }
    (s.mem.cap < a + 16 → exec (.queueEntryTake p) s = .next (u.gstop p 0x04 [])) ∧
    (a + 16 ≤ s.mem.cap → (x / 2 ^ 64 % 2 ^ 32 ≠ 0 ∨ x % 8 ≠ 0) → exec (.queueEntryTake p) s = .next (u.gstop p 0x03 [])) ∧
    (a + 16 ≤ s.mem.cap → x / 2 ^ 64 % 2 ^ 32 = 0 → x % 8 = 0 →
      exec (.queueEntryTake p) s = .next (s.updPart p fun q => q.took x))

/-- 03 R77, 07 R154 to R156, 18 R339: the launch check of a partition's first grid that waits for it: a grid that fails leaves
with its code; one that passes has its record in range and becomes a context with the larger of the two pace values. -/
def Sys2Proof.Claims.LaunchChecked : Prop :=
  ∀ (s : State) (p : Nat) (g : Grid), s.grids.find? (fun g => g.part == p && g.phase == .check) = some g →
    s.gridOf g.gid = some g →
    ∃ t, exec (.launchCheck p) s = .next t ∧
      (∀ c, s.launchCode g = some c → t.grids = s.grids.filter (fun h => h.gid != g.gid)
        ∧ ((s.part g.part).nodes.find? (fun n => n.id == g.node) = none → t = { s with grids := t.grids })) ∧
      (s.launchCode g = none →
        1 ≤ g.l.waves ∧ g.l.waves ≤ 36 ∧ 16 ≤ g.l.regs ∧ g.l.regs ≤ 256 ∧ g.l.regs % 16 = 0 ∧ 1 ≤ g.l.barriers
        ∧ g.l.barriers ≤ 32 ∧ g.l.tiles ≤ 16 ∧ g.l.spill ≤ 1976 ∧ g.l.spill % 8 = 0 ∧ g.l.gx ≠ 0 ∧ g.l.gy ≠ 0 ∧ g.l.gz ≠ 0
        ∧ g.l.cpad + 16 * g.l.barriers ≤ 8388608 ∧ g.l.part = g.part
        ∧ (s.fabric.agreed = true ∨ g.start = 0)
        ∧ ∃ h : Grid, t = { s with grids := modifyFirst (fun x => x.gid == g.gid) (fun _ => h) s.grids }
          ∧ h.phase = .run ∧ h.l = g.l ∧ h.start = g.start ∧ h.next = g.next ∧ h.blocks = g.blocks ∧ g.l.pace ≤ h.pace
          ∧ (g.l.bbudget ≠ 0 → h.budget = g.l.bbudget.toNat) ∧ h.params.length ≤ g.l.nparam)

/-- 07 R156 to R158, 08 R172, 12 R257, 01 R10: a block of a team of one goes to the first cluster of the search that has room,
with cleared pads, barrier 0 armed for every thread, and its waves at the entry header with the parameter words. -/
def Sys2Proof.Claims.BlockPlaced : Prop :=
  ∀ (s : State) (p cl : Nat) (g : Grid) (r : Room), s.Inv → p < 8 → s.nextSaved p = none → s.placing p = some g →
    s.gridOf g.gid = some g → g.phase = .run → (s.part p).preemptAt = none → g.l.team = 1 → g.l.waves ≤ 36 →
    (s.part p).searchOrder.find? (fun c => (s.room g.l c).isSome) = some cl → s.room g.l cl = some r →
    ∃ (t : State) (b : Block) (ws : List Wave), exec (.blockPlacement p) s = .next t ∧ t.blocks = s.blocks ++ [b] ∧ t.waves = s.waves ++ ws
      ∧ b.bid = s.nextUid ∧ b.gid = g.gid ∧ b.bl = g.next ∧ b.cl = cl ∧ b.live = g.l.waves ∧ b.flags = 0
      ∧ (t.gridOf g.gid).map Grid.next = some (g.next + 1)
      ∧ t.bar b 0 = ⟨32 * g.l.waves, 0, 0, 1, 0⟩
      ∧ (∀ o, o < g.l.cbytes → (o < g.l.cpad ∨ g.l.cpad + 12 ≤ o) → t.mem.byte (cpadKey cl (b.cbase + o)) = 0)
      ∧ ws.length = g.l.waves
      ∧ ∀ (k : Nat) (w : Wave), ws[k]? = some w → w.bid = b.bid ∧ w.cl = cl ∧ w.widx = k ∧ w.started = none ∧ w.v = [] ∧ w.pend = []
          ∧ (∀ n, n < 64 → w.sreg n = g.params.getD n 0)
          ∧ ∀ l, l < 32 → (w.th l).pc = g.entry ∧ (w.th l).status = .run ∧ (w.th l).ex = none ∧ (w.th l).depth = 0
            ∧ (w.th l).ths = 0

/-- 07 R150, R157, R158, 19 R391: a placement completes: a team that the partition's clusters can take goes to them whole, all
on one die when it has more than one block, and the grid counts its blocks as placed; saved blocks go ahead of new ones. -/
def Sys2Proof.Claims.PlacementCompletes : Prop :=
  ∀ (s : State) (p : Nat) (g : Grid), p < 8 →
    (s.nextSaved p = none → s.placing p = some g → s.gridOf g.gid = some g → g.phase = .run → (s.part p).preemptAt = none →
      (s.placeNext p).isSome = true →
      let n := min g.l.team (g.blocks - g.next)
      ∃ t bs, exec (.blockPlacement p) s = .next t ∧ t.blocks = s.blocks ++ bs
        ∧ bs.map Block.bl = (List.range n).map (fun k => g.next + k)
        ∧ (∀ b ∈ bs, b.gid = g.gid ∧ b.live = g.l.waves ∧ b.flags = 0 ∧ b.retired = false ∧ b.cl ∈ (s.part p).clusters)
        ∧ (g.l.team ≠ 1 → ∀ a ∈ bs, ∀ b ∈ bs, a.cl / 8 = b.cl / 8)
        ∧ (t.gridOf g.gid).map Grid.next = some (g.next + n)) ∧
    ∀ v xs, s.nextSaved p = some (v, xs) → (s.placeSaved p).isSome = true →
      ∃ t bs, exec (.blockPlacement p) s = .next t ∧ t.blocks.map Block.bid = s.blocks.map Block.bid ++ bs
        ∧ bs.length = xs.length ∧ ∀ b ∈ bs, ∃ x ∈ xs, x.b.bid = b

/-- 07 R160, 12 R257: a wave starts in a round that is a multiple of 36 and begins at or after its placement, once the start GC has come,
its A-latch with good code; with the first wave of its block the block budget begins to count. -/
def Sys2Proof.Claims.WaveStarts : Prop :=
  ∀ (s : State) (wv : Nat) (w : Wave), s.HasWave wv w →
    (s.startable w = true ↔ w.started = none ∧ s.leaving w = false ∧ s.round w % 36 = 0
      ∧ (s.cluster w.cl).frozen = false ∧ s.cycle w.cl = (s.slice w.cl w.sl).c0
      ∧ (s.grd (s.blk w)).start ≤ (s.slice w.cl w.sl).gc ∧ (s.blk w).placedAt ≤ (s.slice w.cl w.sl).opened
      ∧ (s.grd (s.blk w)).phase = .run) ∧
    (s.startable w = true → ∃ t u, exec (.waveStart wv) s = .next t
      ∧ t = { s with
          waves := modifyFirst (fun x => x.uid == w.uid) (fun _ => u) s.waves
          blocks := t.blocks
          grids := t.grids
          mem := { s.mem with broken := t.mem.broken, toMend := t.mem.toMend } }
      ∧ (∀ k, k ∈ t.mem.broken ↔ k ∈ s.mem.broken ∧ ¬ (latchKey w.place ≤ k ∧ k + 32 ≤ latchKey w.place + 2 ^ 20))
      ∧ (∀ g, s.gridOf (s.blk w).gid = some g →
          t.gridOf (s.blk w).gid = some { g with began := some (g.began.getD s.gc) })
      ∧ u.started = some (s.round w) ∧ u.due = s.round w ∧ u.v = w.v ∧ u.s = w.s
      ∧ (∀ l, l < 32 → (w.th l).status = .run → u.th l = { w.th l with readyAt := s.round w })
      ∧ (s.blockOf w.bid = some (s.blk w) → (s.waves.find? fun x => x.bid == w.bid) = some w → (s.blk w).budgetAt = none →
          ∃ b, t.blockOf w.bid = some b ∧ b.budgetAt = some (s.round w)))

/-- 07 R160: a wave that has not started starts as a round opens whose number is a multiple of 36, in a grid that runs and whose
start GC has come, on a cluster that runs, unless a pre-emption is in effect: its threads may issue in that round. -/
def Sys2Proof.Claims.WaveStartCompletes : Prop :=
  ∀ (s : State) (wv : Nat) (w : Wave), s.HasWave wv w → w.started = none → s.round w % 36 = 0 →
    (s.grd (s.blk w)).phase = .run → (s.grd (s.blk w)).start ≤ (s.slice w.cl w.sl).gc →
    (s.blk w).placedAt ≤ (s.slice w.cl w.sl).opened → (s.cluster w.cl).frozen = false → s.cycle w.cl = (s.slice w.cl w.sl).c0 →
    (s.part (s.grd (s.blk w)).part).preemptAt = none →
    ∃ t u, exec (.waveStart wv) s = .next t ∧ t.waveOf w.uid = some u ∧ u.started = some (s.round w) ∧ u.v = w.v ∧ u.s = w.s
      ∧ t.mem.bytes = s.mem.bytes ∧ ∀ l, l < 32 → (w.th l).status = .run → u.th l = { w.th l with readyAt := s.round w }

/-- 07 R161: a block whose waves have ended and whose operations have completed retires: it is gone, or, while another block of
its team has not retired, stays for its cluster pad alone; its grid counts it, and commits with its last. -/
def Sys2Proof.Claims.RetirementCompletes : Prop :=
  ∀ (s : State) (b : Block) (g : Grid), s.blocks.find? (fun c => c.gid == b.gid && c.bl == b.bl) = some b →
    s.blockOf b.bid = some b → s.gridOf b.gid = some g → g.phase = .run → b.retired = false → b.live = 0 →
    (∀ a ∈ s.accs, a.bid ≠ b.bid) → (∀ c ∈ s.cards, c.bid ≠ b.bid) → (∀ m ∈ s.mmas, m.bid ≠ b.bid) →
    (∀ m ∈ s.moves, m.bid ≠ b.bid) → (∀ w ∈ s.ended, w.bid = b.bid → w.pend = []) → (s.part g.part).preempt = none →
    let mate := fun (c : Block) => c.gid == b.gid && c.bl / g.l.team == b.bl / g.l.team
    let bs := modifyFirst (fun c => c.bid == b.bid) (fun c => { c with retired := true }) s.blocks
    ∃ t, exec (.blockRetire b.gid b.bl) s = .next t
      ∧ t.blocks = (if bs.any fun c => mate c && !c.retired then bs else bs.filter fun c => !mate c)
      ∧ (g.retired + 1 ≠ g.blocks → t.gridOf b.gid = some { g with retired := g.retired + 1 })

/-- 07 R160, 19 R383: a block budget that has run out in a running grid, and a grid budget at its GC, end the context with the
deadline fault: code 0x0003 or 0x0004. -/
def Sys2Proof.Claims.DeadlinesComplete : Prop :=
  ∀ (s : State) (g : Grid), s.gridOf g.gid = some g → g.phase = .run →
    (∀ (b : Block) (r : Nat), s.blocks.find? (fun c => c.gid == g.gid && c.bl == b.bl) = some b → b.retired = false →
      b.budget ≠ 0 → b.budgetAt = some r → r + b.budget ≤ (s.slice b.cl b.wave0).round →
      ∃ t h, exec (.blockBudgetExpiry g.gid b.bl) s = .next t ∧ t.gridOf g.gid = some h ∧ h.phase = .faulted 0x0003
        ∧ s.Reported t 0x0003 ∧ ∀ w ∈ t.waves, ∀ c, s.blockOf w.bid = some c → c.gid ≠ g.gid) ∧
    (g.l.gbudget ≠ 0 → g.saved = none → g.start + g.l.gbudget.toNat ≤ s.gc →
      ∃ t, exec (.gridBudgetExpiry g.gid) s = .next t ∧ s.Reported t 0x0004
        ∧ ∀ w ∈ t.waves, ∀ c, s.blockOf w.bid = some c → c.gid ≠ g.gid)

/-- 07 R161: a block retires once its waves have ended and its operations completed; alone in its team, it gives up its cluster
pad at once. -/
def Sys2Proof.Claims.BlockRetires : Prop :=
  ∀ (s : State) (b : Block) (g : Grid), s.blocks.filter (fun c => c.gid == b.gid && c.bl == b.bl) = [b] →
    s.blockOf b.bid = some b → s.gridOf b.gid = some g →
    g.phase = .run → g.l.team = 1 → s.retirable b = true → (s.part g.part).preempt = none →
    ∃ t, exec (.blockRetire b.gid b.bl) s = .next t ∧ (∀ c ∈ t.blocks, c.gid = b.gid → c.bl ≠ b.bl)
      ∧ (g.retired + 1 ≠ g.blocks → (t.gridOf b.gid).map Grid.retired = some (g.retired + 1))
      ∧ (g.retired + 1 = g.blocks → g.next = g.blocks → g.saved = none → (∀ h ∈ s.held, h.gid ≠ b.gid) →
          t.gridOf b.gid = none)

/-- 07 R160, 19 R383: a budget that has run out ends the context with the deadline fault. -/
def Sys2Proof.Claims.BudgetsExpire : Prop :=
  ∀ (s : State) (b : Block) (g : Grid), s.gridOf g.gid = some g →
    (s.blocks.find? (fun c => c.gid == g.gid && c.bl == b.bl) = some b → s.blockLate b = true →
      ∃ t, exec (.blockBudgetExpiry g.gid b.bl) s = .next t ∧ s.Faults t g.gid 0x0003) ∧
    (s.gridLate g = true → ∃ t, exec (.gridBudgetExpiry g.gid) s = .next t ∧ s.Reported t 0x0004
      ∧ ∀ w ∈ t.waves, ∀ c, s.blockOf w.bid = some c → c.gid ≠ g.gid) ∧
    (s.gridLate g = true ↔ g.phase = .run ∧ g.l.gbudget ≠ 0 ∧ g.saved = none ∧ g.start + g.l.gbudget.toNat ≤ s.gc) ∧
    ∀ r, (s.grd b).phase = .run → b.budget ≠ 0 → b.retired = false → b.budgetAt = some r →
      (s.blockLate b = true ↔ r + b.budget ≤ (s.slice b.cl b.wave0).round)

/-- 18 R342, R345, R346, R350: a GWAITGC passes at its target; a GWAITSEM commits once its semaphore is reached; a phase whose
deadline passes with a node outstanding stops the graph with code 7. -/
def Sys2Proof.Claims.GraphWaits : Prop :=
  ∀ (s : State) (p i : Nat), p < 8 →
    (∀ g, (s.part p).waitgc = some g → g ≤ s.gc → exec (.gwaitgcTargetReached p) s
      = .next (s.updPart p fun q => { q with waitgc := none, lastIssue := some s.gc })) ∧
    (∀ n cl k th, (s.part p).nodes[i]? = some n → n.kind = .sem cl k th → n.sten = false →
      ((s.cluster cl).sem k).fail = true ∨ th ≤ ((s.cluster cl).sem k).count →
      exec (.gwaitsemSatisfied p i) s
        = .next (s.updPart p fun q => { q with nodes := q.nodes.filter fun m => m.id != n.id })) ∧
    (∀ d, (s.part p).deadline = some d → d < s.gc → s.outstanding p = true →
      ∃ t, exec (.phaseDeadlineExpiry p) s = .next t ∧ (t.part p).mstate = .stopped) ∧
    (s.phaseLate p = true → ∃ t, exec (.phaseDeadlineExpiry p) s = .next t ∧ (t.part p).mstate = .stopped
      ∧ ∃ e, (s.now, e) ∈ t.arb.inbox ∧ e.code = 0x0110 ∧ e.detail = [p, (s.part p).gpc.toNat, 7])

/-- 03 R77, 07 R154 to R161, 18: queue entries, launch checks, placement, starts, retirement, budgets and waits. -/
def Obligations.MarshalSteps : Prop :=
  Sys2Proof.Claims.QueueTaken ∧
  Sys2Proof.Claims.LaunchChecked ∧
  Sys2Proof.Claims.BlockPlaced ∧
  Sys2Proof.Claims.PlacementCompletes ∧
  Sys2Proof.Claims.WaveStarts ∧
  Sys2Proof.Claims.WaveStartCompletes ∧
  Sys2Proof.Claims.BlockRetires ∧
  Sys2Proof.Claims.RetirementCompletes ∧
  Sys2Proof.Claims.DeadlinesComplete ∧
  Sys2Proof.Claims.BudgetsExpire ∧
  Sys2Proof.Claims.GraphWaits

/-! ## Pre-emption (19 R386 to R391) -/

/-- 19 R386, R389: a pre-emption takes effect, at the folio gutter that a partition with armed entries awaits, not before: its GC is
noted, every entry armed and not fired has failed, and every class-1 card is to stop with code 0x20. -/
def Sys2Proof.Claims.PreemptTakesEffect : Prop :=
  ∀ (s : State) (p : Nat) (a : Nat × Nat), p < 8 → (s.part p).preempt = some a → (s.part p).preemptAt = none →
    (∀ g, (s.part p).gutter = some g → s.gc < g → exec (.preemptTakeEffect p) s = .next s) ∧
    ((∀ g, (s.part p).gutter = some g → g ≤ s.gc) → s.mem.broken = [] →
    ∃ t, exec (.preemptTakeEffect p) s = .next t ∧ (t.part p).preemptAt = some s.gc
      ∧ (∀ x ∈ s.fabric.ents, x.part = p → x.st = 1 → (t.tent p x.e).st = 4)
      ∧ ((∀ h ∈ s.held, ∀ g, s.gridOf h.gid = some g → g.part ≠ p) → ∀ c ∈ s.cards, c.part = p → c.cls1 = true → c.finished = false → c.stop = none → { c with stop := some 0x20 } ∈ t.cards))

/-- 19 R387, R388, R390: a wave whose threads stand at save points is saved, and its threads at restart headers take their record
from there; the last one completes the save: the blocks leave, the area holds the header, the offsets and the sections, and event 0x0115 is
reported. -/
def Sys2Proof.Claims.WaveSaved : Prop :=
  ∀ (s : State) (wv : Nat) (w : Wave), s.HasWave wv w → s.savable w = true →
    let p := (s.grd (s.blk w)).part
    let at' := fun l => (w.th l).status = .run ∧ (w.th l).wait = .none ∧ (w.th l).ex = none ∧ w.started.isSome = true
      ∧ s.atRestart w (w.th l) = true
    let saved := fun (u : Wave) => u.saved = true ∧ ∀ l, l < 32 → u.th l = if at' l then
      { w.th l with restart := some ((w.th l).pc, (w.th l).depth) } else w.th l
    ((∃ x ∈ s.waves, x.uid ≠ w.uid ∧ (s.grd (s.blk x)).part = p ∧ x.saved = false) →
      ∃ t u, exec (.waveSave wv) s = .next t ∧ t = s.updWave w.uid (fun _ => u) ∧ saved u) ∧
    ∀ area limit gc, p < 8 → s.mem.broken = [] → (s.part p).preempt = some (area, limit) → (s.part p).preemptAt = some gc →
      (s.updWave w.uid fun w => { w with saved := true }).allSaved p = true →
      ∃ t, exec (.waveSave wv) s = .next t ∧ (t.part p).preempt = none ∧ s.Reported t 0x0115
        ∧ (∃ v : Wave, saved v
            ∧ let bs := ((s.updWave w.uid fun _ => v).dropSidings p).saveBytes p
              (area + bs.length ≤ s.mem.cap → s.mem.live.Nodup → s.mem.sweep = none → s.mem.poison = [] →
                t.mem.readMany area bs.length = bs)
              ∧ (let h := ofBytes (bs.take 64)
                 h % 2 ^ 32 = 0x53564B34 ∧ h / 2 ^ 32 % 8 = p
                  ∧ ((∀ b ∈ s.partBlocks p, (s.grd b).l.asid < 2 ^ 13) → h / 2 ^ 48 % 2 ^ 16 = 1)))
        ∧ (∀ g ∈ t.grids, g.part = p → g.phase = .run → g.saved.isSome = true)
        ∧ ∀ b ∈ t.blocks, ∀ c ∈ s.partBlocks p, b.bid ≠ c.bid

/-- 19 R388: at the limit every thread of an unsaved wave that is not at a save point goes back to its restart point; a thread
without one, or a wave in its handler, ends the context with the pre-emption fault. The wave will save its whole allotment. -/
def Sys2Proof.Claims.PreemptLimit : Prop :=
  ∀ (s : State) (p area limit gc : Nat) (w : Wave), p < 8 → (s.part p).preempt = some (area, limit) →
    (s.part p).preemptAt = some gc → gc + limit ≤ s.gc → s.partWaves p = [w] → s.waveOf w.uid = some w → w.saved = false →
    let late := fun l => l < 32 ∧ (w.th l).status = .run ∧ s.stopped w (w.th l) = false
    ∃ t, exec (.preemptLimitExpiry p) s = .next t ∧
      (w.handler = true ∨ (∃ l, late l ∧ (w.th l).restart = none) → s.Faults t (s.blk w).gid 0x000A) ∧
      (∀ m : W32, (∀ l, m.getLsbD l = true ↔ late l) → s.spillsLost w (w.restartSlots m) = [] →
        w.handler = false → (∀ l, late l → (w.th l).restart ≠ none) →
        ∃ u, t = s.updWave w.uid (fun _ => u) ∧ u.saved = false ∧ u.forced = true ∧ ∀ l, l < 32 →
          (∀ h d, late l → (w.th l).restart = some (h, d) →
            (u.th l).pc = h ∧ (u.th l).depth = d ∧ (u.th l).ex = none ∧ (u.th l).wait = .none) ∧
          (¬ late l → u.th l = w.th l))

/-- 19 R386 to R390: pre-emption. -/
def Obligations.PreemptSteps : Prop :=
  Sys2Proof.Claims.PreemptTakesEffect ∧
  Sys2Proof.Claims.WaveSaved ∧
  Sys2Proof.Claims.PreemptLimit

/-! ## The fabric's own events (20 R397 to R418, 19 R384, R385) -/

/-- 20 R413, R417, R418: at its first read point an armed entry that is ready fires with its ready flag cleared; one that is
not ready is missed: failed with reason 2, its semaphore marked, and its folio failed. -/
def Sys2Proof.Claims.EntryFires : Prop :=
  ∀ (s : State) (p e : Nat), (s.tent p e).st = 1 →
    (((s.tent p e).ready || (s.tent p e).replay) = true →
      ∃ t, exec (.entryFire p e) s = .next t ∧ (t.tent p e).ready = false ∧ (t.tent p e).st ≠ 1
        ∧ ∀ w, (s.tent p e).word = some w → w.recv = false → (s.tent p e).bad = [] →
            (∀ n, n < 12 → (s.port n).siding = []) → t = s.setTent { s.tent p e with ready := false, st := 2 }) ∧
    ((s.tent p e).ready = false → (s.tent p e).replay = false →
      ∃ t, exec (.entryFire p e) s = .next t ∧ (t.tent p e).st = 4 ∧ (t.tent p e).reason = 2 ∧ (t.tent p e).ready = false
        ∧ max (s.tent p e).folio s.fabric.folio ∈ t.fabric.failed
        ∧ ∀ w c, (s.tent p e).word = some w → w.semen = true → s.physCluster p w.semcl = some c → c < s.clusters.length →
            s.owns c w.sem p = true → ((t.cluster c).sem w.sem).fail = true)

/-- 20 R401, R411, R413, 21 R441, R443: a transmit slot at its read point: idle for an entry that has not fired for this
folio, and for a slot of a path that its mode leaves out; the node's chunk, or the trailer with its flags, for one that has; a
failed entry's trailer carries marker 1, or 2 where a child's trailer did, and its data slots zeros; a chunk that the device
does not hold fails the entry with reason 5, and a contribution that may not be read with reason 1, and the trailer of that node
carries a marker. A read of the granule that a sweep is moving waits (12 R251). -/
def Sys2Proof.Claims.TxReads : Prop :=
  ∀ (s : State) (n frame pos : Nat), n < 12 →
    let q := s.port n
    let folio := q.dataAt.1
    let ts := tslot (q.tx.get 0 (256 * frame + pos))
    let t := s.tent ts.part ts.e
    let idle := s.updPort n fun q => { q with dataAt := (folio, 256 * frame + pos + 1) }
    let sends := fun (s : State) (d : List Byte) => s.updPort n fun q => q.send folio frame pos d
    let on := ts.kind ≠ 0 ∧ q.trained = true ∧ s.inHold folio = false ∧ t.folio = folio ∧ 2 ≤ t.st ∧ t.leavesOut ts = false
    let t' := if ts.lo = ts.hi ∧ ts.trailer = false then
      { t with own := t.own.filter fun x => !(x.1 == ts.alt && x.2.1 == ts.chunk) } else t
    let gone := t.unsent.contains (ts.alt, ts.lo, ts.hi) = true
    let marked := trailerBytes folio ts.e ts.lo ts.hi (if ts.alt = false ∧ ∃ r ∈ t.twos, ts.lo ≤ r.1 ∧ r.2 ≤ ts.hi then 2 else 1) 0
    (¬ on ∨ t.word = none → exec (.transmitSlotRead n frame pos) s = .next idle) ∧
    ∀ w, on → t.word = some w →
      let r := (idle.setTent t').readOwn t' w ts.alt ts.chunk ts.lo ts.hi
      (t.st = 4 ∨ gone → ts.trailer = true → exec (.transmitSlotRead n frame pos) s = .next (sends idle marked)) ∧
      (t.st = 4 → ts.trailer = false → exec (.transmitSlotRead n frame pos) s = .next idle) ∧
      (t.st ≠ 4 → ts.trailer = false → idle.ownHeld t' w ts.alt ts.chunk ts.lo ts.hi = true →
        exec (.transmitSlotRead n frame pos) s
          = .next (idle.updPort n fun q => { q with held := q.held ++ [(folio, 256 * frame + pos)] })) ∧
      (t.st ≠ 4 → ts.trailer = false → idle.ownHeld t' w ts.alt ts.chunk ts.lo ts.hi = false →
        (t'.usesOwn w ts.alt ts.chunk ts.lo ts.hi = false → r = idle.setTent t') ∧
        (∀ d fl, r.node t' w ts.alt ts.chunk ts.lo ts.hi = some (d, fl) →
          exec (.transmitSlotRead n frame pos) s = .next (sends r d))) ∧
      (t.st ≠ 4 → ts.trailer = true → ¬ gone →
        (∀ fl, s.nodeFlags t w ts.alt ts.lo ts.hi = some fl →
          exec (.transmitSlotRead n frame pos) s = .next (sends (idle.setTent
            { t with flags := if w.recv then t.flags else t.flags ||| fl }) (trailerBytes folio ts.e ts.lo ts.hi 0 fl))) ∧
        (s.nodeFlags t w ts.alt ts.lo ts.hi = none → ∃ u, exec (.transmitSlotRead n frame pos) s = .next u
          ∧ (u.port n).sent folio frame pos = marked)) ∧
      (t.st = 2 → ts.trailer = false → s.mem.broken = [] → idle.ownHeld t' w ts.alt ts.chunk ts.lo ts.hi = false →
        s.node t' w ts.alt ts.chunk ts.lo ts.hi = none → t.mode = .plain → ts.alt = false → w.recv = false → w.nslots ≠ 0 →
        t.bad = [] → t.written = [] → t.replay = false →
        ∃ u, exec (.transmitSlotRead n frame pos) s = .next u ∧ (u.tent ts.part ts.e).st = 4
          ∧ (u.tent ts.part ts.e).reason = (if s.ownFails t' w ts.alt ts.chunk ts.lo ts.hi = some 1 then 1 else 5)
          ∧ (u.port n).out = q.out)

/-- 12 R251: a transmit read that waits for a sweep is made once it need wait no longer, in the folio for which it was read: it then
sends its node as `TxReads` does at the read point. -/
def Sys2Proof.Claims.HeldReads : Prop :=
  ∀ (s : State) (n folio k : Nat) (rest : List (Nat × Nat)) (w : EWord) (d : List Byte) (fl : Fl), n < 12 →
    (s.port n).held = (folio, k) :: rest →
    let ts := tslot ((s.port n).tx.get 0 k)
    let t := s.tent ts.part ts.e
    let u := s.updPort n fun q => { q with held := rest }
    let t' := if ts.lo = ts.hi then { t with own := t.own.filter fun x => !(x.1 == ts.alt && x.2.1 == ts.chunk) } else t
    t.word = some w → (s.port n).trained = true → s.inHold folio = false → ts.kind ≠ 0 → ts.trailer = false → t.folio = folio →
    t.st = 2 → t.leavesOut ts = false → s.ownHeld t' w ts.alt ts.chunk ts.lo ts.hi = false →
    let r := (u.setTent t').readOwn t' w ts.alt ts.chunk ts.lo ts.hi
    r.node t' w ts.alt ts.chunk ts.lo ts.hi = some (d, fl) →
    s.doAct (.heldRead n) = r.updPort n fun q => q.send folio (k / 256) (k % 256) d

/-- 12 R245, R252, 20 R413: what the fabric's own access to main memory meets: nothing, an event for bytes at or above CAP,
or one for an uncorrectable atom that it reads; it ends no context (log 97). -/
def Sys2Proof.Claims.FabricMeets : Prop :=
  ∀ (s : State) (p pa n : Nat) (k : Option (Fin 128)) (write : Bool),
    let t := s.meets p (.main pa k) n write
    (pa + n ≤ s.mem.cap → write = true ∨ s.mem.lost (.main pa k) n = false → t = s) ∧
    (s.mem.cap < pa + n → t = { s with arb := t.arb } ∧ ∃ e, (s.now, e) ∈ t.arb.inbox ∧ e.code = 0x0006 ∧ e.part = some p
      ∧ e.detail = [pa / 512]) ∧
    (pa + n ≤ s.mem.cap → write = false → s.mem.lost (.main pa k) n = true → t = { s with arb := t.arb }
      ∧ ∃ e, (s.now, e) ∈ t.arb.inbox ∧ e.code = 0x0005 ∧ e.part = some p ∧ e.detail = [pa / 512])

/-- 20 R403, R411: the bits of a trailer and of a sync slot, each 256 bytes. -/
def Sys2Proof.Claims.SlotLayouts : Prop :=
  (∀ (folio e lo hi marker : Nat) (fl : Fl), e < 2 ^ 12 → lo < 2 ^ 14 → hi < 2 ^ 14 → marker < 8 →
    let v := ofBytes (trailerBytes folio e lo hi marker fl)
    (trailerBytes folio e lo hi marker fl).length = 256 ∧ v < 2 ^ 128 ∧ v / 2 ^ 112 = folio % 65536
      ∧ v / 2 ^ 100 % 2 ^ 12 = e ∧ v / 2 ^ 86 % 2 ^ 14 = lo ∧ v / 2 ^ 72 % 2 ^ 14 = hi ∧ v / 2 ^ 8 % 2 ^ 64 = 0
      ∧ v / 2 ^ 5 % 8 = marker ∧ v % 32 = fl.toNat) ∧
  (∀ (rpos : List Nat) (mark : Option (Nat × Nat)) (ptp : BitVec 512), (∀ x ∈ mark, x.1 < 2 ^ 14) →
    let v := ofBytes (syncBytes rpos mark ptp)
    (syncBytes rpos mark ptp).length = 256
      ∧ v / 2 ^ 1984 = crc64 (bytesNat ((syncBytes rpos mark ptp).take 248))
      ∧ v / 2 ^ 654 % 2 ^ 1330 = 0 ∧ v / 2 ^ 538 % 2 ^ 38 = 0 ∧ v % 2 ^ 512 = ptp.toNat
      ∧ v / 2 ^ 640 % 2 ^ 14 = (mark.map Prod.fst).getD 0 ∧ v / 2 ^ 639 % 2 = bit mark.isSome
      ∧ v / 2 ^ 576 % 2 ^ 63 = (mark.map fun x => x.2 % 2 ^ 63).getD 0
      ∧ v / 2 ^ 536 % 4 = min rpos.length 3
      ∧ ∀ k, k < 3 → v / 2 ^ (528 - 8 * k) % 256 = (rpos.map (· % 256)).getD k 0)

/-- 20 R396, R399, R401 to R405, 19 R384, R385: the sync slot of a frame carries the positions asked for two frames before, one marker
(one to forward, or that of the device's own fault in the folio before) and what the PTP instance sends; a tag slot of plaintext groups
holds their CRCs; retry slots resend what was asked for, in order. A port that has failed training sends nothing, and the frames of a
held folio carry sync slots alone. -/
def Sys2Proof.Claims.ControlSlotsSent : Prop :=
  ∀ (s : State) (n frame : Nat) (pl : Plan), n < 12 → s.fabric.plan = some pl →
    let q := s.port n
    let folio := q.ctlAt.1
    (∀ ptp, frame ≤ pl.f + 1 → ∃ t, exec (.syncSlotSend n frame ptp) s = .next t ∧ t = { s with fabric := t.fabric }
      ∧ (q.trained = true → (t.port n).sent folio (min frame pl.f) (if frame = pl.f + 1 then 266 else 0)
          = syncBytes (asksOf q.asks frame)
              (if q.mark = [] then s.fabric.marks.find? (fun m => m.1 == s.flash.devid.toNat && m.2 + 1 == folio) else q.mark.head?)
              (if ptp = 0 then (s.ptpSend n frame).2 else ptp)
          ∧ (t.port n).mark = q.mark.tail)
      ∧ (t.port n).ctlAt = (folio, if frame < pl.f then 3 * frame + 1 else 3 * pl.f + 1 + (frame - pl.f))
      ∧ (q.trained = false → t.fabric.synced = s.fabric.synced ∧ (t.port n).out = q.out ∧ (t.port n).mark = q.mark)
      ∧ (ptp ≠ 0 → q.trained = true → t.fabric.synced
          = if s.fabric.isMaster = true ∧ ptpField ptp 0 1 % 16 = 0 then some s.gc else s.fabric.synced)) ∧
    (frame < pl.f → s.inHold folio = true → exec (.tagSlotSend n frame) s
      = .next (s.updPort n fun q => { q with ctlAt := (folio, 3 * frame + 2) })) ∧
    (frame < pl.f → q.trained = true → s.inHold folio = false → (∀ g, g < 15 → s.groupKey q.tx frame g = none) →
      ∃ t, exec (.tagSlotSend n frame) s = .next t ∧ (t.port n).ctlAt = (folio, 3 * frame + 2)
        ∧ (∀ g, g < 15 → (((t.port n).sent folio frame 256).drop (16 * g)).take 16
            = toBytes 16 (crc64 (bytesNat ((groupPos g).flatMap fun i => q.sent folio frame i))))
        ∧ ((t.port n).sent folio frame 256).length = 256) ∧
    (frame < pl.f → q.trained = false → s.inHold folio = false → ∃ t, exec (.tagSlotSend n frame) s = .next t
      ∧ ∀ pos, 1 ≤ pos → pos < 256 → (q.rxAt frame pos).kind ≠ 0 → (folio, frame, pos) ∈ (t.port n).losses) ∧
    (exec (.tagSlotSend n pl.f) s = .next (s.updPort n fun q =>
      { q with ctlAt := (folio + 1, 0), out := q.out.filter fun x => decide (folio < x.folio) })) ∧
    (frame ≤ pl.f + 1 → ∃ t, exec (.retrySlotSend n frame) s = .next t
      ∧ (t.port n).ctlAt = (folio, if frame < pl.f then 3 * (frame + 1) else 3 * pl.f + 3 + (frame - pl.f))
      ∧ (q.trained = false ∨ s.inHold folio = true → (t.port n).out = q.out)
      ∧ ∀ (k : Nat) (i : Nat), q.trained = true → s.inHold folio = false → k < 3 → (asksOf q.asked frame)[k]? = some i → i < 256 →
        (t.port n).sent folio (min frame pl.f)
          (257 + 3 * (if frame < pl.f then 0 else 1 + (frame - pl.f)) + k) = q.sent folio (frame - 2) i)

/-- 20 R404, R405: a tag slot of plaintext groups. When every check holds, the named slots pass in ascending order, to be
handled in the next tick; when the tag slot itself failed, or no group's check holds, every named position fails, and up to
three are asked for; a sealed group is kept for its retries, under a tag slot that failed without a check that it could pass (21
R437). A port that is not trained gets nothing. -/
def Sys2Proof.Claims.TagArrives : Prop :=
  ∀ (s : State) (n frame : Nat) (tagBad : Bool) (tag : List Byte) (slots : List RxSlot) (pl : Plan), n < 12 →
    s.fabric.plan = some pl →
    let q := s.port n
    let named := ((List.range 255).map (· + 1)).filter fun i => (q.rxAt frame i).kind != 0
    let data := fun i => ((slots.find? fun x => x.pos == i).map RxSlot.bytes).getD []
    let plain := ∀ g, g < 15 → s.groupKey q.rx frame g = none
    let whole := ∀ i, 1 ≤ i → i ≤ 255 → ∃ x, slots.find? (fun x => x.pos == i) = some x ∧ x.bad = false
    let check := fun g => (tag.drop (16 * g)).take 16 = plainCheck ((groupPos g).flatMap data)
    (q.trained = false → exec (.tagSlotArrival n frame tagBad tag slots) s = .next s) ∧
    (q.trained = true → frame < pl.f → frame < 3 →
      (tagBad = true → named.length ≤ 3 → exec (.tagSlotArrival n frame tagBad tag slots) s = .next (s.updPort n fun q =>
        { q with
          tagged := (s.fabric.folio, frame + 1), asks := q.asks ++ (if named.isEmpty then [] else [(frame, named)])
          waiting := q.waiting ++ (List.range 15).filterMap fun g => if (s.groupKey q.rx frame g).isSome then
            some ⟨frame, g, [], (groupPos g).map fun i => (i, ((slots.find? fun x => x.pos == i).map RxSlot.bytes).getD zeroSlot),
              (groupPos g).filter fun i => (q.rxAt frame i).kind != 0, true⟩ else none })) ∧
      (tagBad = false → plain → whole → (∀ g, g < 15 → ¬ check g) → named.length ≤ 3 →
        exec (.tagSlotArrival n frame tagBad tag slots) s = .next (s.updPort n fun q =>
          { q with
            tagged := (s.fabric.folio, frame + 1), asks := q.asks ++ (if named.isEmpty then [] else [(frame, named)]) })) ∧
      (tagBad = false → plain → whole → (∀ g, g < 15 → check g) →
        exec (.tagSlotArrival n frame tagBad tag slots) s = .next (s.updPort n fun q =>
          { q with
            tagged := (s.fabric.folio, frame + 1)
            arrived := q.arrived ++ named.map fun i => (s.gcTime (s.gc + 1), ⟨s.fabric.folio, frame, i, data i⟩) })))

/-- 20 R396, R403, R405, 19 R384: a sync slot that fails its CRC is discarded whole; a good one leaves its requests with the
port, its fault marker goes out once on every port, after those that still wait (but not one of this device, which raised it), and its
PTP message goes to the instance. -/
def Sys2Proof.Claims.SyncArrives : Prop :=
  ∀ (s : State) (n frame : Nat) (y : SyncSlot), n < 12 →
    (y.crcOk = false ∨ (s.port n).trained = false → exec (.syncSlotArrival n frame y) s = .next s) ∧
    (y.crcOk = true → (s.port n).trained = true →
      (y.fmark = false → y.ptp = 0 → 2 ≤ frame → y.rpos ≠ [] → exec (.syncSlotArrival n frame y) s
        = .next (s.updPort n fun q => { q with
          asked := (frame - 2, (y.rpos.take 3).map BitVec.toNat) :: q.asked.filter fun x => x.1 != frame - 2 })) ∧
      (y.fmark = false → y.rpos = [] ∨ frame < 2 → exec (.syncSlotArrival n frame y) s
        = .next (if y.ptp = 0 then s else s.ptpIn n y.ptp)) ∧
      (y.fmark = true → y.ptp = 0 → ∃ t, exec (.syncSlotArrival n frame y) s = .next t ∧ t = { s with fabric := t.fabric }
        ∧ (y.fdev.toNat, y.ffolio.toNat) ∈ t.fabric.marks
        ∧ ∀ m, m < 12 → (t.port m).mark = if (y.fdev.toNat, y.ffolio.toNat) ∈ s.fabric.marks ∨ y.fdev.toNat = s.flash.devid.toNat
            then (s.port m).mark
            else (s.port m).mark ++ [(y.fdev.toNat, y.ffolio.toNat)]))

/-- 20 R414, R416, 21 R442: a checked slot that is due is handled. One whose entry is firing is consumed: its chunk is held,
and with the root of a receiving entry of one chunk held and its trailer valid, the chunk is written and the entry is done.
Any other slot waits in the siding, and one that finds it full fails its entry with reason 4; a trailer of zeros shows that
nothing was sent, and the zeros of its node leave the siding with it (the model's choice, log 23). -/
def Sys2Proof.Claims.SlotArrives : Prop :=
  ∀ (s : State) (n i g : Nat) (r : RxRec), n < 12 → (s.port n).arrived[i]? = some (g, r) →
    let ts := (s.port n).rxAt r.frame r.pos
    let t := s.tent ts.part ts.e
    let took := s.updPort n fun q => { q with arrived := q.arrived.eraseIdx i }
    let late := t.folio = r.folio ∧ t.mode ≠ .plain ∧ (t.st = 3 ∨ (t.st = 1 ∧ t.leavesOut ts = true))
    let sameNode := fun (x : RxRec) =>
      let u := (s.port n).rxAt x.frame x.pos
      u.part = ts.part ∧ u.e = ts.e ∧ u.alt = ts.alt ∧ u.lo = ts.lo ∧ u.hi = ts.hi
    (s.now < g → exec (.slotArrival n i) s = .next s) ∧
    (g ≤ s.now →
      (ts.kind = 0 → exec (.slotArrival n i) s = .next took) ∧
      (ts.kind ≠ 0 → ¬(t.st = 2 ∧ t.folio = r.folio) → r.data = zeroSlot → ts.trailer = true →
        exec (.slotArrival n i) s = .next (took.updPort n fun q =>
          { q with siding := q.siding.filter fun x => decide (¬ (sameNode x ∧ x.data = zeroSlot)) })) ∧
      (ts.kind ≠ 0 → t.st ≠ 2 → r.data ≠ zeroSlot ∨ ts.trailer = false →
        (late → exec (.slotArrival n i) s = .next took) ∧
        (¬ late → (s.port n).siding.length < 256 → exec (.slotArrival n i) s
          = .next (s.updPort n fun q => { q with arrived := q.arrived.eraseIdx i, siding := q.siding ++ [r] })) ∧
        (¬ late → 256 ≤ (s.port n).siding.length → t.replay = false → t.st ≠ 4 →
          ∃ u, exec (.slotArrival n i) s = .next u ∧ (u.tent ts.part ts.e).st = 4 ∧ (u.tent ts.part ts.e).reason = 4
            ∧ r.folio ∈ u.fabric.failed)) ∧
      (∀ w, ts.kind ≠ 0 → t.st = 2 → t.word = some w → t.mode = .plain → ts.trailer = false → ts.chunk < w.nslots →
        (w.recv = false → t.bad = [] → exec (.slotArrival n i) s = .next (took.setTent
          { t with got := t.got ++ [⟨ts.alt, ts.lo, ts.hi, ts.chunk, r.data⟩] })) ∧
        (∀ fl l, w.recv = true → w.contrib = false → w.nslots = 1 → w.isw = false → ts.alt = false → ts.lo = 0 →
          ts.hi = w.n - 1 → t.got = [] → t.bad = [] → t.written = [] → t.node = none → t.trails = [⟨false, 0, w.n - 1, fl⟩] →
          s.destStalled ts.part w = false → s.mem.broken = [] →
          s.regionPlace ts.part w.dspace w.dloc w.dkey w.dst w.bytes = some l →
          s.regionHere ts.part w.dspace w.dloc w.dst w.bytes = true → (∀ k, l = .pad k → s.liveBar k 256 = false) →
          (∀ pa k, l = .main pa k → pa + 256 ≤ s.mem.cap) →
          ∃ u, exec (.slotArrival n i) s = .next u ∧ u.mem = (s.writeBytes l r.data).mem ∧ (u.tent ts.part ts.e).st = 3
            ∧ (u.tent ts.part ts.e).flags = t.flags ||| fl)))

/-- 19 R384, R385, 20 R397, R416, R418: the boundary that ends a folio: no slot of the folio stays in a siding; a failed folio,
or a GC out of agreement, is a schedule fault; two boundaries after a marked folio the device enters hold, and what failed
in that folio or the next and waits for a replay is armed again. -/
def Sys2Proof.Claims.FolioEnds : Prop :=
  ∀ (s : State), s.fabric.plan.isSome = true →
    let n := s.fabric.folio
    ∃ t, exec .folioBoundary s = .next t ∧ t.fabric.folio = n + 1
      ∧ (∀ m, m < 12 → (∀ r ∈ (t.port m).siding, n < r.folio) ∧ (t.port m).asks = [] ∧ (t.port m).asked = [] ∧ (t.port m).waiting = [])
      ∧ (n ∈ s.fabric.failed ∨ s.gcDisagrees n = true → (∃ e, (s.now, e) ∈ t.arb.inbox ∧ e.code = 0x0113 ∧ e.detail = [])
          ∧ (s.flash.devid.toNat, n) ∈ t.fabric.marks ∧ t.fabric.resume = none)
      ∧ (∀ d f, s.fabric.marks.find? (fun m => m.2 + 1 == n) = some (d, f) → s.fabric.hold = none →
          t.fabric.hold = some (n + 1) ∧ ((s.fabric.ents.map fun (x : Tent) => (x.part, x.e)).Nodup →
            ∀ p e, (s.tent p e).st = 4 → (s.tent p e).folio = f ∨ (s.tent p e).folio = f + 1 → (s.tent p e).node.isSome = true →
              (t.tent p e).st = 1 ∧ (t.tent p e).replay = true ∧ (t.tent p e).folio = f + 2))
      ∧ ((∀ m ∈ s.fabric.marks, m.2 + 1 ≠ n) ∨ s.fabric.hold ≠ none → t.fabric.hold = s.fabric.hold)
      ∧ ((∀ m, m < 12 → (s.port m).siding = []) →
          (∀ x ∈ s.fabric.ents, (s.tent x.part x.e).st ≠ 2) → n ∉ s.fabric.failed →
          s.gcDisagrees n = false → (∀ m ∈ s.fabric.marks, m.2 + 1 ≠ n) → (∀ x ∈ s.fabric.stops, n < x.2.2) →
          t = State.mgmtSend { s with
            fabric := { s.fabric with
              folio := n + 1, failed := s.fabric.failed.filter fun f => decide (n < f)
              ports := s.fabric.ports.mapIdx fun _ (q : Port) =>
                { q with asks := [], asked := [], waiting := [], losses := q.losses.filter fun x => decide (n < x.1) } } }
            (n % 2))

/-- 19 R385: the master announces the folio `b` with which the schedule goes on; every entry armed for a held folio before
it moves to it; at its boundary the hold ends and event 0x0114 is reported. A device that is not in hold, or does not agree
with the master's GC, does nothing (log 99). -/
def Sys2Proof.Claims.PodResumes : Prop :=
  ∀ (s : State) (b : Nat),
    (s.fabric.hold = none → exec (.resyncResume b) s = .next s) ∧
    (∀ h, s.fabric.hold = some h →
      (s.fabric.resume = some b → b ≤ s.fabric.folio → ∃ t, exec (.resyncResume b) s = .next t
        ∧ t = { s with fabric := { s.fabric with hold := none, resume := none }, arb := t.arb }
        ∧ ∃ e, (s.now, e) ∈ t.arb.inbox ∧ e.code = 0x0114 ∧ e.detail = []) ∧
      (s.fabric.folio < b → s.fabric.isMaster = true ∨ s.fabric.offset.natAbs ≤ 20 → exec (.resyncResume b) s
        = .next { s with fabric := { s.fabric with
          resume := some b
          ents := s.fabric.ents.map (fun (x : Tent) =>
            if (x.st = 1 ∨ x.st = 2) ∧ h ≤ x.folio ∧ x.folio < b then { x with folio := b } else x) } }) ∧
      (¬(s.fabric.resume = some b ∧ b ≤ s.fabric.folio) →
        b ≤ s.fabric.folio ∨ (s.fabric.isMaster = false ∧ 20 < s.fabric.offset.natAbs) →
        exec (.resyncResume b) s = .next s))

/-- 20 R396 to R398: a PTP message at a port, and host software's configuration of its role. A Sync at a slave port that
knows the delay of its link steps the GC once, forward, at the first agreement, and afterwards only changes its rate, by at
most 200 ppm, toward the master. -/
def Sys2Proof.Claims.PtpExchange : Prop :=
  ∀ (s : State) (n : Nat) (m : BitVec 512), n < 12 →
    let q := (s.port n).ptp
    let mine := ptpField m 1 1 % 16 = 2 ∧ ptpField m 4 1 = s.flash.domain
    let est := fun (d : Int) => (ptpStamp m : Int) + ptpCorr m + d - s.gc
    let put := fun (p : PtpPort) => s.updPort n fun q => { q with ptp := p }
    let heard := { s with fabric := { s.fabric with synced := some s.gc } }
    (¬ mine → exec (.ptpMessage n (.frame m)) s = .next s) ∧
    (mine → ptpField m 0 1 % 16 = 0 →
      (q.role ≠ .slave → exec (.ptpMessage n (.frame m)) s = .next s) ∧
      (q.role = .slave → q.delay = none → exec (.ptpMessage n (.frame m)) s = .next heard) ∧
      (∀ d, q.role = .slave → q.delay = some d → ∃ t, exec (.ptpMessage n (.frame m)) s = .next t
        ∧ t = { s with gcVal := t.gcVal, gcAt := t.gcAt, gcRate := t.gcRate, fabric := t.fabric } ∧ s.gc ≤ t.gc
        ∧ t.fabric.agreed = true ∧ -200 ≤ t.gcRate ∧ t.gcRate ≤ 200 ∧ t.fabric.synced = some t.gc
        ∧ (s.fabric.agreed = true → t.gc = s.gc ∧ t.fabric.offset = est d
            ∧ (0 ≤ est d → 0 ≤ t.gcRate) ∧ (est d ≤ 0 → t.gcRate ≤ 0))
        ∧ (s.fabric.agreed = false → t.gc = s.gc + (est d).toNat))) ∧
    (mine → ptpField m 0 1 % 16 = 2 → exec (.ptpMessage n (.frame m)) s
      = .next (put { q with resp := some (ptpField m 20 10, ptpField m 30 2, s.gc) })) ∧
    (mine → ptpField m 0 1 % 16 = 3 → ∀ k g, q.req = some (k, g) → ptpField m 30 2 = k →
      ptpField m 44 10 = s.portIdentity n → exec (.ptpMessage n (.frame m)) s
      = .next (put { q with req := none, delay := some (((s.gc - g : Int) - ptpCorr m) / 2) })) ∧
    (exec (.ptpMessage 12 (.frame m)) s = .next ((s.ptpIn 12 m).mgmtSend 2)) ∧
    (∀ r, exec (.ptpMessage n (.role r)) s = .next (put { q with role := r })) ∧
    (∀ r, exec (.ptpMessage 12 (.role r)) s
      = .next { s with fabric := { s.fabric with mgmt := { s.fabric.mgmt with role := r } } }) ∧
    (∀ b, exec (.ptpMessage n (.grandmaster b)) s = .next { s with fabric := { s.fabric with master := b } })

/-- 20 R396 to R398: what a PTP port sends in its turn: the answer to a request first; then a Sync of a master port that
agrees, or a request of its own; each names the configured domain and the device's clock identity (the turns are log 101). -/
def Sys2Proof.Claims.PtpSends : Prop :=
  ∀ (s : State) (n k : Nat), n < 12 →
    let q := (s.port n).ptp
    let x := s.ptpSend n k
    (∀ who seq g, q.resp = some (who, seq, g) → x.2 = s.delayResp n who seq g
      ∧ x.1 = s.updPort n fun r => { r with ptp := { q with resp := none } }) ∧
    (q.resp = none → k = 0 → q.role = .master → s.fabric.agreed = true ∨ s.fabric.isMaster = true → x.2 = s.syncMsg n
      ∧ (s.fabric.isMaster = true → x.1.fabric.synced = some s.gc)) ∧
    (q.resp = none → k = 1 → x.2 = s.delayReq n ∧ ((x.1.port n).ptp).req = some (q.seq, s.gc)) ∧
    (q.resp = none → 2 ≤ k ∨ (k = 0 ∧ q.role ≠ .master) → x = (s, 0)) ∧
    (s.flash.domain < 256 → q.seq < 2 ^ 16 → ∀ m kind, (m, kind) ∈ [(s.syncMsg n, 0), (s.delayReq n, 2)] →
      ptpField m 0 1 = kind ∧ ptpField m 1 1 % 16 = 2 ∧ ptpField m 4 1 = s.flash.domain
        ∧ ptpField m 20 8 = s.flash.devid.toNat ∧ ptpField m 28 2 = n + 1 ∧ ptpField m 30 2 = q.seq)

/-- 19 R384, 20 R401 to R418: entries and slots of the fabric. -/
def Obligations.FabricEvents : Prop :=
  Sys2Proof.Claims.EntryFires ∧
  Sys2Proof.Claims.TxReads ∧
  Sys2Proof.Claims.HeldReads ∧
  Sys2Proof.Claims.FabricMeets ∧
  Sys2Proof.Claims.SlotLayouts ∧
  Sys2Proof.Claims.ControlSlotsSent ∧
  Sys2Proof.Claims.TagArrives ∧
  Sys2Proof.Claims.SyncArrives ∧
  Sys2Proof.Claims.SlotArrives

/-- 19 R384, R385, 20 R397, R416, R418: folio boundaries, the resume, and PTP. -/
def Obligations.FolioEvents : Prop :=
  Sys2Proof.Claims.FolioEnds ∧
  Sys2Proof.Claims.PodResumes ∧
  Sys2Proof.Claims.PtpExchange ∧
  Sys2Proof.Claims.PtpSends

/-! ## Trusted switches (21 R426 to R434) -/

/-- 21 R426: the bits of a control flit, and that a receiver reads them back; a changed bit of the CRC makes it unreadable. A
port with nothing to send sends flits of len 0. -/
def Sys2Proof.Claims.ControlFlits : Prop :=
  (∀ (f : Flit), f.dst < 2 ^ 16 → f.src < 2 ^ 16 → f.msg < 256 → f.frag < 256 → f.len = f.payload.length → f.len ≤ 48 →
    let v := f.word.toNat
    v / 2 ^ 448 = crc64 (leBytes 56 (v % 2 ^ 448)) ∧ v / 2 ^ 432 % 2 ^ 16 = f.dst ∧ v / 2 ^ 416 % 2 ^ 16 = f.src
      ∧ v / 2 ^ 408 % 256 = f.msg ∧ v / 2 ^ 400 % 256 = f.frag ∧ v / 2 ^ 392 % 256 = f.len ∧ v / 2 ^ 386 % 2 ^ 6 = 0
      ∧ v / 2 ^ 385 % 2 = bit f.last ∧ v / 2 ^ 384 % 2 = bit f.first ∧ v % 2 ^ 384 = ofBytes f.payload
      ∧ readFlit f.word = some f) ∧
  (∀ w : BitVec 512, w.toNat / 2 ^ 448 ≠ crc64 (leBytes 56 (w.toNat % 2 ^ 448)) → readFlit w = none) ∧
  (∀ (s : State) (n j : Nat), n < 12 →
    let q := s.port n
    let t := s.controlSend n
    (t.port n).flits = q.queue.take 128 ∧ (t.port n).queue = q.queue.drop 128
      ∧ (j < 128 → q.queue.length ≤ j → (t.controlFlit n j).toNat / 2 ^ 392 % 256 = 0)
      ∧ (j < 128 → ∀ w, q.queue[j]? = some w → t.controlFlit n j = w))

/-- 21 R427: a message is accepted when its fragments arrive in order, each with a good CRC and the receiver's identifier;
a gap, a bad CRC or a foreign dst discards it whole. -/
def Sys2Proof.Claims.ControlMessages : Prop :=
  (∀ (own src no : Nat) (m : List Byte) (z : Option (Nat × Nat × List Byte)) (ms : List (List Byte)),
    own < 2 ^ 16 → src < 2 ^ 16 → m ≠ [] → m.length ≤ 12288 →
    (fragments own src no m).foldl (takeFlit own) (z, ms) = (none, ms ++ [m])) ∧
  ∀ (own : Nat) (w : BitVec 512) (z : Option (Nat × Nat × List Byte)) (ms : List (List Byte)),
    (readFlit w = none → takeFlit own (z, ms) w = (none, ms)) ∧
    (∀ f, readFlit w = some f →
      (f.dst ≠ own → takeFlit own (z, ms) w = (none, ms)) ∧
      (f.dst = own → f.len = 0 → takeFlit own (z, ms) w = (z, ms)) ∧
      (f.dst = own → f.len ≠ 0 → f.first = false → (∀ bs, z ≠ some (f.msg, f.frag, bs)) →
        takeFlit own (z, ms) w = (none, ms)) ∧
      (f.dst = own → f.len ≠ 0 → f.first = false → ∀ bs, z = some (f.msg, f.frag, bs) → takeFlit own (z, ms) w
        = if f.last then (none, ms ++ [bs ++ f.payload]) else (some (f.msg, f.frag + 1, bs ++ f.payload), ms)))

/-- 21 R434: the payload with which a key is installed or removed, and the message that carries it. -/
def Sys2Proof.Claims.KeyMessages : Prop :=
  ∀ (s : State) (k op : Nat) (key : BitVec 256) (id : W32), s.fabric.jkeys.get none k = some (key, id) → k < 128 →
    op = 1 ∨ op = 2 →
    let v := (s.keyMessage k op).toNat
    v / 2 ^ 256 = (if op = 1 then key.toNat else 0) ∧ v / 2 ^ 224 % 2 ^ 32 = id.toNat ∧ v / 2 ^ 216 % 2 ^ 8 = k
      ∧ v / 2 ^ 208 % 2 ^ 8 = op ∧ v % 2 ^ 208 = 0
      ∧ (s.vendorRequest k op).length = 77 ∧ leNat ((s.vendorRequest k op).drop 13) = v
      ∧ (s.flash.vendor < 2 ^ 32 → leNat (((s.vendorRequest k op).drop 7).take 4) = s.flash.vendor)

/-- 21 R429, R431, R432, R434: the exchanges of an attestation: the step that fails ends the procedure with event 0x0119 and
its reason, a step that passes sends the request of the next, and the eighth admits the switch with event 0x0118. -/
def Sys2Proof.Claims.AttestSteps : Prop :=
  ∀ (s : State) (n k : Nat) (x : Session) (r : AttestResp) (m : List Byte), n < 12 → s.Hears n x r m → x.step = some k →
    1 ≤ k → k ≤ 8 → msgAt m 1 1 ≠ 0x68 →
    let chain := if msgAt m 1 1 = 0x02 then x.chain ++ (m.drop 8).take (msgAt m 4 2) else []
    let queued := fun (t : State) (y : Session) => (t.port n).session = some y ∧ (t.port n).queue = (s.port n).queue ++ y.last
      ∧ y.sentAt = s.fabric.folio ∧ y.resent = false ∧ y.unit = x.unit ∧ y.policy = x.policy ∧ y.jslot = x.jslot
    (¬ s.stepPasses x r m k → ¬ s.stepGoesOn x k m → ∃ t, exec (.attestResponse n r) s = .next t
      ∧ t = { s with fabric := t.fabric, arb := t.arb }
      ∧ (t.port n).session = (if x.live then some { x.heard with step := none } else none)
      ∧ ∃ e, (s.now, e) ∈ t.arb.inbox ∧ e.code = 0x0119
        ∧ e.detail = [x.unit, k, if k = 4 ∧ s.policyOf x.policy = none then 0x0D else k]) ∧
    (s.stepGoesOn x k m → ∃ t y, exec (.attestResponse n r) s = .next t ∧ t = { s with fabric := t.fabric } ∧ queued t y
      ∧ y.step = some 4 ∧ y.chain = chain ∧ y.live = x.live ∧ y.sent = natBytes (certRequest chain.length)
      ∧ y.last = s.sessionFlits n x (certRequest chain.length)) ∧
    (s.stepPasses x r m k → k ≠ 8 → ∃ t y, exec (.attestResponse n r) s = .next t
      ∧ t = { s with fabric := t.fabric, free := t.free } ∧ queued t y ∧ y.step = some (k + 1)
      ∧ y.live = (x.live || k == 6) ∧ y.digest = (if k = 7 then BitVec.ofNat 384 (hashNat (measRecord m)) else x.digest)
      ∧ (k ≤ 3 → y.vca = x.vca ++ x.sent ++ m)
      ∧ (k = 4 → y.chain = chain)
      ∧ (k = 5 → y.rsp = msgAt m 4 2 ∧ y.kex = x.sent ++ m ∧ y.mutualAuth = decide (msgAt m 6 1 ≠ 0)
        ∧ y.hs.toNat % 2 ^ 384 = leNat (hmac (List.replicate 48 0)
            (leBytes 32 (Config.decaps ((x.sent.drop 40).take 1568) ((m.drop 40).take 1568)).toNat)) % 2 ^ 384)
      ∧ (k ≤ 5 → y.sent = natBytes (s.request n y (k + 1)) ∧ y.last = s.sessionFlits n x (s.request n y (k + 1)))
      ∧ (k = 6 → y.tx = 1 ∧ y.rx = 0 ∧ y.beat = s.fabric.folio
        ∧ y.outKey = x.recordKey "req" (s.ownChain x ++ bytesNat x.sent ++ bytesNat m)
        ∧ y.inKey = x.recordKey "rsp" (s.ownChain x ++ bytesNat x.sent ++ bytesNat m))
      ∧ (k = 7 → y.rx = x.heard.rx)
      ∧ (k = 7 → y.last = s.sessionFlits n x (s.vendorRequest x.jslot 1))) ∧
    (s.stepPasses x r m k → k = 8 → ∃ t y, exec (.attestResponse n r) s = .next t
      ∧ t = { s with fabric := t.fabric, arb := t.arb }
      ∧ (t.port n).session = some y ∧ y.step = none ∧ x.jslot ∈ y.keys ∧ (∀ j ∈ x.keys, j ∈ y.keys) ∧ y.live = x.live
      ∧ ∃ e, (s.now, e) ∈ t.arb.inbox ∧ e.code = 0x0118 ∧ e.detail = [x.unit + x.jslot * 2 ^ 16, x.digest.toNat % 2 ^ 64,
          x.digest.toNat / 2 ^ 64 % 2 ^ 64, x.digest.toNat / 2 ^ 128 % 2 ^ 64])

/-- 21 R427, R430: what else a control channel brings: part of a message, a message for no session, the answer to a
heartbeat, or a secured message whose AEAD check fails, which ends the session with event 0x011A, and the procedure under way, if
there is one, with event 0x0119. -/
def Sys2Proof.Claims.ControlReceived : Prop :=
  ∀ (s : State) (n : Nat) (r : AttestResp), n < 12 →
    let z := s.received n r.flits
    (z.2 = [] ∨ (s.port n).session = none → exec (.attestResponse n r) s
      = .next (s.updPort n fun q => { q with inMsg := z.1 })) ∧
    ∀ x, (s.port n).session = some x →
      (∀ m, s.Hears n x r m → msgAt m 1 1 = 0x68 → exec (.attestResponse n r) s
        = .next (s.updPort n fun q => { q with session := some { x.heard with awaiting := false, missed := 0 } })) ∧
      (∀ c ms, x.live = true → z.2 = c :: ms → x.openMsg n (bytesNat c) = none →
        ∃ t, exec (.attestResponse n r) s = .next t ∧ (t.port n).session = none ∧ (t.port n).trained = (s.port n).trained
          ∧ (∃ e, (s.now, e) ∈ t.arb.inbox ∧ e.code = 0x011A ∧ e.detail = [x.unit, 2])
          ∧ ∀ k, x.step = some k → ∃ e, (s.now, e) ∈ t.arb.inbox ∧ e.code = 0x0119 ∧ e.detail = [x.unit, k, k])

/-- 21 R427, R430: a request unanswered for 8 folios is sent once more, and the second time ends the procedure with reason
0x0E; a heartbeat goes while fewer than three in a row stand unanswered, and the third, or a port whose training fails, ends
the session with event 0x011A. -/
def Sys2Proof.Claims.SessionEnds : Prop :=
  ∀ (s : State) (n : Nat) (x : Session), n < 12 → (s.port n).session = some x →
    let gone := fun (t : State) (tr : Bool) => (t.port n).session = none ∧ (t.port n).trained = tr ∧ (x.live = true →
      ∃ e, (s.now, e) ∈ t.arb.inbox ∧ e.code = 0x011A ∧ e.detail.head? = some x.unit)
    (∀ k, x.step = some k → x.sentAt + 8 ≤ s.fabric.folio →
      (x.resent = false → exec (.controlRequestTimeout n) s = .next (s.updPort n fun q => { q with
        queue := q.queue ++ x.last, session := some { x with resent := true, sentAt := s.fabric.folio } })) ∧
      (x.resent = true → ∃ t, exec (.controlRequestTimeout n) s = .next t
        ∧ (t.port n).session = (if x.live then some { x with step := none } else none)
        ∧ ∃ e, (s.now, e) ∈ t.arb.inbox ∧ e.code = 0x0119 ∧ e.detail = [x.unit, k, 0x0E])) ∧
    ((∀ k, x.step = some k → s.fabric.folio < x.sentAt + 8) → exec (.controlRequestTimeout n) s = .next s) ∧
    (x.live = false → ∀ b, exec (.heartbeat n b) s = .next s) ∧
    (∀ b, x.live = true →
      let missed := if x.awaiting = true ∧ b = false then x.missed + 1 else 0
      (missed < 3 → exec (.heartbeat n b) s = .next (s.updPort n fun q =>
        { (q.queued (s.sessionFlits n x [0x14, 0xE8, 0, 0])) with
          session := some { x with missed := missed, awaiting := true, beat := s.fabric.folio, tx := x.tx + 1 } })) ∧
      (3 ≤ missed → ∃ t, exec (.heartbeat n b) s = .next t ∧ gone t (s.port n).trained)) ∧
    (∃ t, exec (.portTrainingFailure n) s = .next t ∧ gone t false)

/-- 20 R399, R405: a port that fails training carries nothing from then on: lost are the slots of frames of the folio that have passed
without their tag slot, and those that it has asked for again. -/
def Sys2Proof.Claims.TrainingFails : Prop :=
  ∀ (s : State) (n : Nat), n < 12 →
    let q := s.port n
    let folio := s.fabric.folio
    let seen := if q.tagged.1 = folio then q.tagged.2 else 0
    let past := if q.ctlAt.1 = folio then (q.ctlAt.2 + 1) / 3 else 0
    (q.session = none → q.asks = [] → (∀ pl, s.fabric.plan = some pl → s.inHold folio = true ∨ min past pl.f ≤ seen) →
      exec (.portTrainingFailure n) s = .next (s.updPort n fun q => { q with trained := false })) ∧
    ∃ t, exec (.portTrainingFailure n) s = .next t ∧ (t.port n).trained = false ∧ (t.port n).asks = []
      ∧ (∀ pl k i, s.fabric.plan = some pl → s.inHold folio = false → seen ≤ k → k < min past pl.f → 1 ≤ i → i < 256 →
          (q.rxAt k i).kind ≠ 0 → (folio, k, i) ∈ (t.port n).losses)
      ∧ ∀ x ∈ q.asks, ∀ i ∈ x.2, s.groupKey q.rx x.1 (groupOf i) = none → (∀ g ∈ q.waiting, g.frame ≠ x.1 ∨ i ∉ g.missing) →
          (folio, x.1, i) ∈ (t.port n).losses

/-- 20 R399, 21 R427 to R434: attestation, timeouts, heartbeats and training. -/
def Obligations.SwitchEvents : Prop :=
  Sys2Proof.Claims.ControlFlits ∧
  Sys2Proof.Claims.ControlMessages ∧
  Sys2Proof.Claims.KeyMessages ∧
  Sys2Proof.Claims.AttestSteps ∧
  Sys2Proof.Claims.ControlReceived ∧
  Sys2Proof.Claims.SessionEnds ∧
  Sys2Proof.Claims.TrainingFails

/-! ## The event arbiter and power (19 R379 to R382, 23 R456 to R463) -/

/-- 19 R379: the bits of an event record. -/
def Sys2Proof.Claims.EventRecord : Prop :=
  ∀ (e : Ev), e.die < 4 → e.cluster < 8 → e.slice < 8 → e.slot < 8 → e.kind < 32 → e.unit < 2 ^ 48 → e.code < 2 ^ 16 →
    e.seq < 2 ^ 64 → e.gc < 2 ^ 64 → (∀ a ∈ e.asid, a < 2 ^ 13) → (∀ p ∈ e.part, p < 8) →
    let v := e.bits
    v < 2 ^ 512 ∧ v % 2 ^ 48 = e.unit ∧ v / 2 ^ 48 % 2 ^ 5 = e.kind ∧ v / 2 ^ 53 % 8 = e.slot ∧ v / 2 ^ 56 % 8 = e.slice
      ∧ v / 2 ^ 59 % 8 = e.cluster ∧ v / 2 ^ 62 % 4 = e.die ∧ v / 2 ^ 64 % 2 ^ 30 = 0 ∧ v / 2 ^ 94 % 2 = bit e.part.isSome
      ∧ v / 2 ^ 95 % 8 = e.part.getD 0 ∧ v / 2 ^ 98 % 2 = bit e.asid.isSome ∧ v / 2 ^ 99 % 2 ^ 13 = e.asid.getD 0
      ∧ v / 2 ^ 112 % 2 ^ 16 = e.code ∧ v / 2 ^ 128 % 2 ^ 64 = e.seq ∧ v / 2 ^ 192 % 2 ^ 64 = e.gc
      ∧ ∀ k, k < 4 → v / 2 ^ (256 + 64 * k) % 2 ^ 64 = e.detail.getD k 0 % 2 ^ 64

/-- 19 R379, R380, R382, 23 R448: an act of the arbiter: the oldest event of its store goes to the ring, and the port that owns command
is signalled; else a count of dropped events becomes event 0x0117; else the earliest event, of the lowest source among those of one
cycle, takes the next number. -/
def Sys2Proof.Claims.ArbiterActs : Prop :=
  ∀ (s : State),
    let a := s.arb
    let room := 4 ≤ a.size ∧ a.size ≤ 20 ∧ (a.tail - a.head).toNat < 2 ^ a.size
    (∀ e es, room → a.held = e :: es → exec .eventRingWrite s = .next { s with
      mem := s.mem.writeMany (a.base.toNat + 64 * (a.tail.toNat % 2 ^ a.size)) (toBytes 64 e.bits)
      arb := { a with
        held := es, tail := a.tail + 1
        irq := a.irq.setIfInBounds (bit s.host.owner) ((a.irq[bit s.host.owner]?.getD 0) + 1) } }) ∧
    (¬ room ∨ a.held = [] →
      (∀ c k rest, a.dropped = (c, k) :: rest → a.held.length < 256 → ∃ e, exec .eventRingWrite s = .next { s with
        arb := { a with dropped := rest, seq := a.seq + 1, held := a.held ++ [e] } }
        ∧ e.code = 0x0117 ∧ e.detail = [c, k] ∧ e.seq = a.seq ∧ e.gc = s.gc) ∧
      (a.dropped = [] ∨ 256 ≤ a.held.length →
        (a.inbox = [] → exec .eventRingWrite s = .next s) ∧
        (a.inbox ≠ [] → ∃ (t : State) (pre : List (Nat × Ev)) (x : Nat × Ev) (post : List (Nat × Ev)),
          exec .eventRingWrite s = .next t ∧ a.inbox = pre ++ x :: post
            ∧ (∀ y ∈ pre, x.1 < y.1 ∨ (x.1 = y.1 ∧ x.2.source < y.2.source))
            ∧ (∀ y ∈ post, x.1 < y.1 ∨ (x.1 = y.1 ∧ x.2.source ≤ y.2.source))
            ∧ t.arb.seq = a.seq + 1 ∧ t.arb.inbox = pre ++ post
            ∧ (x.2.code ≠ 0 → t.mem = match x.2.stamp with
                | some at' => s.mem.writeMany at' (toBytes 8 a.seq)
                | none => s.mem)
            ∧ (x.2.code ≠ 0 → a.held.length < 256 →
                t.arb.held = a.held ++ [{ x.2 with seq := a.seq, gc := s.gc }] ∧ t.arb.dropped = a.dropped)
            ∧ (x.2.code ≠ 0 → 256 ≤ a.held.length → t.arb.held = a.held
                ∧ (((t.arb.dropped.find? fun d => d.1 == x.2.code).map Prod.snd).getD 0
                    = ((a.dropped.find? fun d => d.1 == x.2.code).map Prod.snd).getD 0 + 1
                  ∨ ¬ a.dropped.Pairwise (fun c d => c.1 < d.1))))))

/-- 23 R457, R458: the mailbox, and a move: down, the clocks go first and then the voltage; up, the voltage first, and the clocks once
it has settled; the move is complete when every cluster runs at the new clock and the voltage has settled, and then a pending point
starts its own. A write while no move is in progress starts one, or does nothing. -/
def Sys2Proof.Claims.ClockMoves : Prop :=
  ∀ (s : State) (port : Bool) (v : W32), s.Owned port →
    let vf := s.host.vf
    let b : Fin 16 := Fin.ofNat 16 v.toNat
    let volt := fun (c : Fin 16) => (s.flash.points[c.val]?.getD (1, 0)).2
    let clocks := fun (c : Fin 16) => s.clusters.map fun (x : Cluster) => { x with clockNext := s.clockOf c }
    let begins := fun (c : Fin 16) (pend : Option (Fin 16)) =>
      if s.clockOf c < s.clockOf vf.current then
        { s with
          host := { s.host with vf := { vf with target := some c, pending := pend, voltAt := none, settled := false } }
          clusters := clocks c }
      else { s with host := { s.host with vf := { vf with
        target := some c, pending := pend, voltAt := some s.now, volt := volt c, settled := false } } }
    let all := fun (c : Fin 16) => ∀ x ∈ s.clusters, x.clock = s.clockOf c
    (vf.target = none → b = vf.current → exec (.vftgtWrite port v) s = .next s) ∧
    (vf.target = none → b ≠ vf.current → exec (.vftgtWrite port v) s = .next (begins b vf.pending)) ∧
    (∀ c, vf.target = some c →
      exec (.vftgtWrite port v) s = .next { s with host := { s.host with
        vf := { vf with pending := if b = c then none else some b } } } ∧
      (vf.voltAt = none → all c → exec .vfMoveComplete s
        = .next { s with host := { s.host with vf := { vf with volt := volt c, voltAt := some s.now } } }) ∧
      (vf.voltAt ≠ none → vf.settled = true → all c → exec .vfMoveComplete s = .next { s with
        host := { s.host with vf := { vf with current := c, target := none, since := s.now } } }) ∧
      (¬ all c ∨ (vf.voltAt ≠ none ∧ vf.settled = false) → exec .vfMoveComplete s = .next s) ∧
      (vf.settled = false → vf.voltAt ≠ none → exec .voltageSettled s = .next { s with
        host := { s.host with vf := { vf with settled := true } }, clusters := clocks c }) ∧
      (vf.settled = true ∨ vf.voltAt = none → exec .voltageSettled s = .next s)) ∧
    (∀ c, vf.target = none → vf.pending = some c → exec .vfMoveComplete s = .next (begins c none))

/-- 23 R460: a cluster whose estimate has stood over its limit for 64 cycles steps its override up, at its ceiling event 0x011C once; one
that has stayed below 80% of it for 65,536 cycles steps down, unless the budget rule holds it; either count then begins anew. -/
def Sys2Proof.Claims.OverridesStep : Prop :=
  ∀ (s : State) (cl : Nat), s.Inv → cl < 32 →
    let c := s.cluster cl
    let due := (c.overNext.map Prod.fst).getD c.ovr
    let for' := fun (since : Option Nat) n => ∃ t, since = some t ∧ t + n * Config.cycle c.clock ≤ s.now
    let becomes := fun (t : State) (d : Cluster) => t.cluster cl = d ∧ ∀ k, k < 32 → k ≠ cl → t.cluster k = s.cluster k
    (¬ for' c.overAt 64 → exec (.currentLimitExceeded cl) s = .next s) ∧
    (for' c.overAt 64 → due < c.ceil → ∃ t, exec (.currentLimitExceeded cl) s = .next t
      ∧ becomes t { c with overAt := some s.now, overNext := some (2 * due, 1) } ∧ cl ∉ t.host.raised
      ∧ ∀ k, k ≠ cl → (k ∈ t.host.raised ↔ k ∈ s.host.raised)) ∧
    (for' c.overAt 64 → c.ceil ≤ due → ∃ t, exec (.currentLimitExceeded cl) s = .next t
      ∧ becomes t { c with overAt := some s.now, unmet := true } ∧ t.host = s.host
      ∧ (if c.unmet then t.arb = s.arb else ∃ e, e.code = 0x011C ∧ t.arb.inbox = s.arb.inbox ++ [(s.now, e)])) ∧
    (¬ for' c.lowAt 65536 → exec (.currentLowStepDown cl) s = .next s) ∧
    (for' c.lowAt 65536 → ∃ t, exec (.currentLowStepDown cl) s = .next t
      ∧ (1 < due → cl ∉ s.host.raised → becomes t { c with lowAt := some s.now, overNext := some (due / 2, 3) })
      ∧ (due ≤ 1 ∨ cl ∈ s.host.raised → becomes t { c with lowAt := some s.now }))

/-- 23 R460: a reading of a cluster's current estimate starts the count above its limit, or below 80% of it, and stops the other; a want
that has cleared may be reported again. -/
def Sys2Proof.Claims.CurrentReadings : Prop :=
  ∀ (s : State) (cl at' v : Nat), s.Inv → cl < 32 →
    let c := s.cluster cl
    let limit := s.flash.limits[cl]?.getD 0
    let since := fun (t : Option Nat) => if t = none then some at' else t
    let d := (s.sense at' (.current cl v)).cluster cl
    (limit < v → d = { c with overAt := since c.overAt, lowAt := if 5 * v < 4 * limit then since c.lowAt else none }) ∧
    (v ≤ limit → d = { c with overAt := none, lowAt := if 5 * v < 4 * limit then since c.lowAt else none, unmet := false })

/-- 23 R461, R463: the budget is 2,400 W or the cap in force, or the floor without one; every 65,536 GC ticks it is held against the mean
power: above it the lowest cluster below its ceiling steps up, below 0.9 of it the highest that the rule raised steps down; a cap
that expires leaves the floor. -/
def Sys2Proof.Claims.BudgetRule : Prop :=
  ∀ (s : State), s.Inv →
    let due := fun c => (((s.cluster c).overNext).map Prod.fst).getD (s.cluster c).ovr
    let mean := s.meanPower
    let next := (s.gc / 65536 + 1) * 65536
    (∀ u (m : BitVec 128), s.host.capUntil = some u → s.gc < u → s.host.rcap = some m → s.budget = min 2400 (m.toNat / 2 ^ 48 % 2 ^ 16)) ∧
    ((s.host.capUntil = none ∨ (∃ u, s.host.capUntil = some u ∧ u ≤ s.gc) ∨ s.host.rcap = none) → s.budget = min 2400 s.flash.floor) ∧
    (∀ k, s.gc < s.host.budgetAt ∨ k ≠ mean → exec (.budgetRecompute k) s = .next s) ∧
    (s.host.budgetAt ≤ s.gc → ∃ t, exec (.budgetRecompute mean) s = .next t ∧ t.host.budgetAt = next ∧
      (s.budget < mean → ∀ c, c < 32 → due c < (s.cluster c).ceil → (∀ k, k < c → (s.cluster k).ceil ≤ due k) →
        (t.cluster c).overNext = some (2 * due c, 2) ∧ c ∈ t.host.raised ∧ t.arb = s.arb) ∧
      (s.budget < mean → (∀ k, k < 32 → (s.cluster k).ceil ≤ due k) →
        t.clusters = s.clusters ∧ t.host.unmet = true
          ∧ (if s.host.unmet then t.arb = s.arb else ∃ e, e.code = 0x011C ∧ t.arb.inbox = s.arb.inbox ++ [(s.now, e)])) ∧
      (10 * mean < 9 * s.budget → ∀ c ∈ s.host.raised, c < 32 → (∀ d ∈ s.host.raised, d ≤ c) →
        (t.cluster c).overNext = some (max 1 (due c / 2), 2) ∧ t.arb = s.arb) ∧
      (9 * s.budget ≤ 10 * mean → mean ≤ s.budget → t = { s with host := { s.host with unmet := false, budgetAt := next } })) ∧
    (∀ u, s.host.capUntil = some u → exec .rackCapExpiry s
      = .next (if u ≤ s.gc then { s with host := { s.host with capUntil := none } } else s))

/-- 23 R461: the mean is that of the readings over the last 1,048,576 GC ticks, each standing until the next; a reading joins them. -/
def Sys2Proof.Claims.MeanPower : Prop :=
  ∀ (s : State) (t w : Nat) (rest : List (Nat × Nat)), s.host.power = (t, w) :: rest → t ≤ s.gc - 1048576 → 1048576 ≤ s.gc →
    s.meanPower = w ∧
    ∀ at' v, (s.sense at' (.power v)).host.power.head? = some (s.tickOf at', v)
      ∧ (s.gc - 1048576 ≤ s.tickOf at' → s.tickOf at' ≤ s.gc →
          (s.sense at' (.power v)).meanPower = ((s.gc - s.tickOf at') * v + (s.tickOf at' - (s.gc - 1048576)) * w) / 1048576)

/-- 23 R462, R463: a rack cap message of the management port is accepted with its fields in range and a greater seq than any
accepted; any other one is counted and changes nothing else. -/
def Sys2Proof.Claims.CapMessages : Prop :=
  ∀ (s : State) (port : Bool) (m : BitVec 128), s.booted = true →
    let v := m.toNat
    let good := 400 ≤ v / 2 ^ 48 % 2 ^ 16 ∧ v / 2 ^ 48 % 2 ^ 16 ≤ 2400 ∧ v / 2 ^ 40 % 2 ^ 8 = 0 ∧ v % 2 ^ 40 ≠ 0
      ∧ ∀ o ∈ s.host.rcap, o.toNat / 2 ^ 64 < v / 2 ^ 64
    (good → exec (.rackcap (some m) port) s = .next { s with host := { s.host with
      rcap := some m, capUntil := some (s.gc + v % 2 ^ 40) } }) ∧
    (¬ good → exec (.rackcap (some m) port) s = .next { s with host := { s.host with
      rcapIgn := min (2 ^ 32 - 1) (s.host.rcapIgn + 1) } })

/-- 19 R379 to R382, 23 R456 to R463: events, clocks, overrides and budget. -/
def Obligations.PowerEvents : Prop :=
  Sys2Proof.Claims.EventRecord ∧
  Sys2Proof.Claims.ArbiterActs ∧
  Sys2Proof.Claims.ClockMoves ∧
  Sys2Proof.Claims.OverridesStep ∧
  Sys2Proof.Claims.CurrentReadings ∧
  Sys2Proof.Claims.BudgetRule ∧
  Sys2Proof.Claims.MeanPower ∧
  Sys2Proof.Claims.CapMessages

/-! ## The boot (01 R6, 12 R240, 23 R450, R467, R468) -/

/-- 12 R240, 23 R468: a boot that completes applies the configuration and builds the live list; nothing that the device held
before remains. -/
def Sys2Proof.Claims.BootCompletes : Prop :=
  ∀ (s : State), s.flash.signed = true → s.flash.wellFormed = true → s.flash.retire ≠ BitVec.allOnes 512 →
    ∃ t, exec (.reset true) s = .next t ∧ t.booted = true ∧ t.gc = 0 ∧ t.waves = [] ∧ t.blocks = [] ∧ t.grids = []
      ∧ t.accs = [] ∧ t.cards = [] ∧ t.tiles = [] ∧ t.asids = [] ∧ t.mem.bytes = [] ∧ t.mem.keys = [] ∧ t.mem.sweep = none
      ∧ t.mem.gen = 0 ∧ t.arb = Arb.reset ∧ t.parts = Vector.replicate 8 Part.reset ∧ t.fabric.plan = none
      ∧ t.fabric.agreed = false ∧ t.flash = s.flash
      ∧ t.mem.live = ((List.range 512).map fun i => 64 * (i % 8) + i / 8).filter (fun p => !s.flash.retire.getLsbD p)
      ∧ t.mem.live ≠ []
      ∧ t.host.owner = false ∧ t.host.busy = none ∧ t.host.rota = s.flash.rota ∧ t.host.templim = s.flash.templim
      ∧ t.host.vf.current = s.flash.point ∧ t.host.vf.target = none ∧ t.host.vf.pending = none
      ∧ t.host.vf.volt = (s.flash.points[s.flash.point.val]?.getD (1, 0)).2
      ∧ t.host.rcap = none ∧ t.host.capUntil = none
      ∧ t.host.measured = [s.flash.rom, s.flash.firmware, s.flash.records].map
          (fun b => natBytes (sha3_384 (bytesNat b)))
      ∧ (∀ c, c < 32 → (t.cluster c).clock = (s.flash.points[s.flash.point.val]?.getD (1, 0)).1 ∧ (t.cluster c).pass = 1
          ∧ (t.cluster c).ovr = 1 ∧ (t.cluster c).ceil = 4 ∧ t.cycle c = 0)
      ∧ (∀ c sl, c < 32 → sl < 6 → t.slice c sl = Slice.reset)
      ∧ t.readReg false 0x0008 = 2 ^ 31 + 5 * 2 ^ 8

/-- 12 R240, 23 R468: a boot that stops: in step 2 with code 0x01 for a signature, in step 4 with 0x02 for a malformed record
or 0x04 for training, in step 5 with 0x03 without a live pseudo-channel (the steps of the last three are the model's reading). The
measurements of step 3 stand from then on. -/
def Sys2Proof.Claims.BootStops : Prop :=
  ∀ (s : State) (trained : Bool),
    let measured := [s.flash.rom, s.flash.firmware, s.flash.records].map fun b => natBytes (sha3_384 (bytesNat b))
    let stops := fun stage code => ∃ t, exec (.reset trained) s = .next t ∧ t.booted = false ∧ t.host.bootCode = some code
      ∧ t.host.measured = (if stage = 2 then [] else measured)
      ∧ t.readReg false 0x0008 = 2 ^ 30 + stage * 2 ^ 8 + code ∧ ∀ off, 16 ≤ off → t.readReg false off = 0
    (s.flash.signed = false → stops 2 0x01) ∧
    (s.flash.signed = true → s.flash.wellFormed = false → stops 4 0x02) ∧
    (s.flash.signed = true → s.flash.wellFormed = true → trained = false → stops 4 0x04) ∧
    (s.flash.signed = true → s.flash.wellFormed = true → trained = true → s.flash.retire = BitVec.allOnes 512 → stops 5 0x03)

/-- 12 R240, 23 R467, R468: the boot. -/
def Obligations.BootSteps : Prop :=
  Sys2Proof.Claims.BootCompletes ∧
  Sys2Proof.Claims.BootStops

/-! ## The host's registers (23 R448 to R452, R455 to R459, R475) -/

/-- 23 R449, R453, R468: a write of a port that does not own command is ignored and counted; before boot completes every
write is ignored; a command while another is in progress is ignored and sets overrun. -/
def Sys2Proof.Claims.WritesIgnored : Prop :=
  ∀ (s : State) (p bound clear : Bool) (part : Fin 8) (v : W32) (x : W64) (r : BitVec 192) (pc i off n : Nat) (b : Byte)
    (data : List Byte) (slot : BitVec 8),
    let writes := ownerWrites p part v x r pc i off n b data bound
    let commands := (mailboxCommands p slot clear).map Prod.fst
    let counted : State := { s with host := { s.host with
      ign := s.host.ign.setIfInBounds (bit p) (min (2 ^ 32 - 1) ((s.host.ign[bit p]?.getD 0) + 1)) } }
    (s.booted = false → ∀ i ∈ writes ++ commands, exec i s = .next s) ∧
    (s.Idle → s.host.owner ≠ p → ∀ i ∈ writes ++ commands, exec i s = .next counted) ∧
    (s.booted = true → s.host.owner = p → (∀ m, s.host.moveAt = some m → s.now < m) → ∀ t q, s.host.busy = some (t, q) → s.now < t → ∀ i ∈ commands,
      exec i s = .next { s with host := { s.host with overrun := true } })

/-- 23 R449: FAILOVER moves ownership to the port that writes 0x0000_F0F0 and does not own command: at once, or after the
command in progress has ended (`CommandEnds`); any other write of it is ignored and counted. -/
def Sys2Proof.Claims.Failover : Prop :=
  ∀ (s : State) (p : Bool) (v : W32), s.booted = true →
    let counted : State := { s with host := { s.host with
      ign := s.host.ign.setIfInBounds (bit p) (min (2 ^ 32 - 1) ((s.host.ign[bit p]?.getD 0) + 1)) } }
    (s.Idle → s.host.owner = p ∨ v ≠ 0xF0F0 → exec (.failoverWrite p v) s = .next counted) ∧
    (s.Idle → s.host.owner ≠ p → v = 0xF0F0 → ∃ t, exec (.failoverWrite p v) s = .next t ∧ t.host.owner = p
      ∧ t = { s with host := { s.host with owner := p, moving := false, moveAt := none }, arb := t.arb }
      ∧ ∃ e, t.arb = { s.arb with inbox := s.arb.inbox ++ [(s.now, e)] } ∧ e.code = 0x011E ∧ e.detail = [bit p]) ∧
    (∀ t q, s.host.busy = some (t, q) → s.now < t → s.host.moveAt = none → s.host.owner ≠ p → v = 0xF0F0 →
      exec (.failoverWrite p v) s = .next { s with host := { s.host with moving := true } }) ∧
    (∀ off (x : W64), off = 0x0018 → BitVec.ofNat 32 x.toNat = v → exec (.registerWrite p off x) s = exec (.failoverWrite p v) s)

/-- 23 R449, R453: the end of the command in progress writes its status and result, clears busy and signals its port; a failover that
has waited takes place a GC tick later, with event 0x011E. -/
def Sys2Proof.Claims.CommandEnds : Prop :=
  ∀ (s : State) (t : Nat) (p : Bool),
    (s.host.busy = some (t, p) → t ≤ s.now → s.host.moveAt = none → (s.host.moving = true → s.now < t + Config.gcTick) →
      s.doAct .command = { s with host := { s.host with
        busy := none, status := s.host.reply.1, res := s.host.reply.2, moving := false
        irqs := s.host.irqs.setIfInBounds (bit p) ((s.host.irqs[bit p]?.getD 0) + 1)
        moveAt := if s.host.moving then some (t + Config.gcTick) else none } }) ∧
    (s.host.busy = none → s.host.moveAt = some t → t ≤ s.now → ∃ u, s.doAct .command = u
      ∧ u = { s with host := { s.host with owner := !s.host.owner, moving := false, moveAt := none }, arb := u.arb }
      ∧ ∃ e, u.arb = { s.arb with inbox := s.arb.inbox ++ [(s.now, e)] } ∧ e.code = 0x011E ∧ e.detail = [bit !s.host.owner])

/-- 23 R450, R457, R459, R460: PASSHOST, OVRCEIL and RATIO take effect at the next boundary; an override above its new ceiling
comes down to it. -/
def Sys2Proof.Claims.ClockRegisters : Prop :=
  ∀ (s : State) (p : Bool) (x : W64) (r : BitVec 192), s.Inv → s.Owned p →
    (∃ t, exec (.passhostWrite p x) s = .next t ∧ t = { s with clusters := t.clusters } ∧ ∀ c, c < 32 →
      t.cluster c = { s.cluster c with hostPass := fieldOf (s.cluster c).hostPass x.toNat c }) ∧
    (∃ t, exec (.ovrceilWrite p x) s = .next t ∧ t = { s with clusters := t.clusters } ∧ ∀ c, c < 32 →
      let n := fieldOf (s.cluster c).ceil x.toNat c
      let due := (((s.cluster c).overNext).map Prod.fst).getD (s.cluster c).ovr
      t.cluster c = { s.cluster c with ceil := n, overNext := if n < due then some (n, 4) else (s.cluster c).overNext }) ∧
    (∃ t, exec (.ratioWrite p r) s = .next t ∧ t = { s with slices := t.slices } ∧ ∀ c sl, c < 32 → sl < 6 →
      t.slice c sl = { s.slice c sl with ratioNext := if r.getLsbD (6 * c + sl) then 2 else 1 })

/-- 18 R332, 23 R451, R475: QTAIL takes a value that submits entries within the ring; a page register takes a value of its row
while the partition's state lets it; anything else is ignored, counted and reported by event 0x011F. -/
def Sys2Proof.Claims.PageWrites : Prop :=
  ∀ (s : State) (p : Bool) (part : Fin 8) (v : W32) (x : W64), s.Owned p → (s.part part.val).locked = false →
    let q := s.part part.val
    let page := fun off => 0x20000 + 0x1000 * part.val + off
    let ignored := fun (t : State) (off val : Nat) =>
      t = { s with host := { s.host with
          ign := s.host.ign.setIfInBounds (bit p) (min (2 ^ 32 - 1) ((s.host.ign[bit p]?.getD 0) + 1)) }, arb := t.arb }
        ∧ ∃ e, t.arb = { s.arb with inbox := s.arb.inbox ++ [(s.now, e)] } ∧ e.code = 0x011F ∧ e.detail = [part.val, off, val]
    let fits := (q.qtail - q.qhead).toNat ≤ (v - q.qhead).toNat ∧ (v - q.qhead).toNat ≤ 2 ^ q.qsize.toNat
    (fits → exec (.qtailWrite p part v) s = .next (s.updPart part.val fun q => { q with qtail := v })) ∧
    (¬ fits → ∃ t, exec (.qtailWrite p part v) s = .next t ∧ ignored t 0x010 v.toNat) ∧
    (exec (.registerWrite p (page 0x010) (v.setWidth 64)) s = exec (.qtailWrite p part v) s) ∧
    (q.mstate = .idle →
      (x.toNat % 16 = 0 → exec (.registerWrite p (page 0x000) x) s
        = .next (s.updPart part.val fun q => { q with qbase := x })) ∧
      (x.toNat % 16 ≠ 0 → ∃ t, exec (.registerWrite p (page 0x000) x) s = .next t ∧ ignored t 0x000 x.toNat) ∧
      (v.toNat ≤ 12 → exec (.registerWrite p (page 0x008) (v.setWidth 64)) s
        = .next (s.updPart part.val fun q => { q with qsize := v.setWidth 8 })) ∧
      (x.toNat % 65536 = 0 → exec (.registerWrite p (page 0x020) x) s
        = .next (s.updPart part.val fun q => { q with grbase := x })) ∧
      (exec (.registerWrite p (page 0x028) (v.setWidth 64)) s = .next (s.updPart part.val fun q => { q with grsize := v })) ∧
      (x.toNat % 512 = 0 → q.grbase.toNat ≤ x.toNat → x.toNat + 512 ≤ q.grbase.toNat + 65536 * q.grsize.toNat →
        exec (.registerWrite p (page 0x030) x) s = .next (s.updPart part.val fun q => { q with cwbase := x }))) ∧
    (q.mstate ≠ .idle → ∀ off ∈ [0x000, 0x020, 0x030], ∃ t, exec (.registerWrite p (page off) x) s = .next t
      ∧ ignored t off x.toNat) ∧
    (∀ off ∈ [0x018, 0x038, 0x040, 0x048, 0x080], exec (.registerWrite p (page off) x) s = .next s) ∧
    (s.resident part.val = false → (∀ e ∈ s.fabric.ents, e.part = part.val → e.st ≠ 1) →
      (64 ≤ v.toNat → v.toNat ≤ 65535 → exec (.registerWrite p (page 0x088) (v.setWidth 64)) s
        = .next (s.updPart part.val fun q => { q with stalllim := v.toNat })) ∧
      (x.toNat % 32 = 0 → exec (.registerWrite p (page 0x090) x) s
        = .next (s.updPart part.val fun q => { q with spillbase := x })) ∧
      (exec (.registerWrite p (page 0x0A0) x) s = .next (s.updPart part.val fun q => { q with wstbase := x })) ∧
      (x.toNat % 64 = 0 → exec (.registerWrite p (page 0x0A8) x) s
        = .next (s.updPart part.val fun q => { q with ttbase := x })) ∧
      (v.toNat ≤ 4096 → exec (.registerWrite p (page 0x0B0) (v.setWidth 64)) s
        = .next (s.updPart part.val fun q => { q with ttsize := v.toNat })) ∧
      (exec (.registerWrite p (page 0x0C8) (v.setWidth 64)) s
        = .next (s.updPart part.val fun q => { q with policy := BitVec.ofNat 8 (v.toNat % 2) }))) ∧
    (s.resident part.val = true → ∀ off ∈ [0x090, 0x0A0, 0x0A8, 0x0B8, 0x0C0],
      ∃ t, exec (.registerWrite p (page off) x) s = .next t ∧ ignored t off x.toNat)

/-- 11 R232, 12 R244, 23 R450, R451: a slot-table entry takes effect at the next period; one of a locked partition, one that a
resident partition holds, or one that leaves a run of 16 without a gutter, is ignored and counted. -/
def Sys2Proof.Claims.SlotTableWrites : Prop :=
  ∀ (s : State) (p : Bool) (pc i : Nat) (b : Byte), s.Owned p → pc < 512 → i < 64 →
    let c := s.chan pc
    let old := c.tableNext[i]?.getD 0
    let v := b &&& 0xFC
    let t := c.tableNext.setIfInBounds i v
    let holds := fun (e : Byte) (f : Nat → Bool) => slotKind e = 1 ∧ f (e.toNat / 8 % 8) = true
    let counted : State := { s with host := { s.host with
      ign := s.host.ign.setIfInBounds (bit p) (min (2 ^ 32 - 1) ((s.host.ign[bit p]?.getD 0) + 1)) } }
    let gutters := ∀ k, k < 64 → ∃ j, j < 16 ∧ slotKind (t[(k + j) % 64]?.getD 0) = 2
    let barred := holds old s.isLocked ∨ holds v s.isLocked ∨ holds old s.resident ∨ holds (c.table[i]?.getD 0) s.resident
      ∨ holds v s.resident
    (v = old → exec (.slotTableWrite p pc i b) s = .next s) ∧
    (v ≠ old → ¬ barred → (pc ∈ s.mem.live → gutters) → (s.mem.sweep = none) →
      exec (.slotTableWrite p pc i b) s = .next (s.updChan pc fun c => { c with tableNext := t })) ∧
    (v ≠ old → barred ∨ (pc ∈ s.mem.live ∧ ¬ gutters) → exec (.slotTableWrite p pc i b) s = .next counted) ∧
    (exec (.registerWrite p (0x8000 + 64 * pc + i) (b.setWidth 64)) s = exec (.slotTableWrite p pc i b) s)

/-- 23 R450, R475: the other registers that a write can change, and the values that they ignore. -/
def Sys2Proof.Claims.DeviceRegisters : Prop :=
  ∀ (s : State) (p : Bool) (x : W64), s.Owned p →
    let w := fun off => exec (.registerWrite p off x) s
    let counted : State := { s with host := { s.host with
      ign := s.host.ign.setIfInBounds (bit p) (min (2 ^ 32 - 1) ((s.host.ign[bit p]?.getD 0) + 1)) } }
    (∀ k, k < 8 → ∃ t, w (0x1000 + 8 * k) = .next t ∧ t = { s with host := { s.host with arg := t.host.arg } }
      ∧ ∀ j, j < 8 → argOf t.host.arg j = if j = k then x.toNat else argOf s.host.arg j) ∧
    w 0x2000 = exec (.vftgtWrite p (x.setWidth 32)) s ∧ w 0x2010 = exec (.passhostWrite p x) s
    ∧ w 0x2018 = exec (.ovrceilWrite p x) s
    ∧ w 0x2040 = .next { s with host := { s.host with rota := (x.setWidth 16).setWidth 32 } }
    ∧ (∃ t, w 0x2048 = .next t
      ∧ t = { s with host := { s.host with templim := (x.setWidth 16).setWidth 32 }, mem := { s.mem with chans := t.mem.chans } }
      ∧ ∀ k pc, k < 8 → 64 * k ≤ pc → pc < 64 * k + 64 → (t.chan pc).halfNext
        = if x.toNat % 256 < (s.host.temps[32 + k]?.getD 0).toNat then true else (s.chan pc).halfNext)
    ∧ w 0x3000 = .next (if s.arb.tail = s.arb.head ∧ x.toNat % 64 = 0 then { s with arb := { s.arb with base := x } } else counted)
    ∧ w 0x3008 = .next (if s.arb.tail = s.arb.head ∧ 4 ≤ x.toNat % 2 ^ 32 ∧ x.toNat % 2 ^ 32 ≤ 20 then
        { s with arb := { s.arb with size := x.toNat % 2 ^ 32 } } else counted)
    ∧ w 0x3010 = .next { s with arb := { s.arb with head := x.setWidth 32 } }
    ∧ w 0x3020 = .next (if x.toNat % 65536 = 0 then { s with host := { s.host with asidtbl := x } } else counted)
    ∧ w 0x3028 = .next (if x.toNat % 2 ^ 32 = 0 then { s with host := { s.host with apbase := x } } else counted)
    ∧ ∀ off ∈ [0x0000, 0x0008, 0x0010, 0x0020, 0x1048, 0x1050, 0x2008, 0x2020, 0x2050, 0x2110, 0x2118, 0x3018, 0x4000, 0x4008,
        0x4010, 0x4400, 0x10000], w off = .next s

/-- 12 R245, 23 R448, R455: a BAR2 access reads or writes plaintext bytes at APBASE; it completes with Completer Abort at or
above CAP, with event 0x0006, at an uncorrectable atom, with event 0x0005, and in the windows of a locked partition outside its stream. -/
def Sys2Proof.Claims.Aperture : Prop :=
  ∀ (s : State) (p write bound : Bool) (off n : Nat) (data : List Byte), s.booted = true → off + n ≤ 2 ^ 32 →
    (write = true → s.Owned p) →
    let pa := s.host.apbase.toNat + off
    let free := s.inLocked pa n = false ∨ bound = true
    (¬ free → exec (.bar2Access p write bound off n data) s = .next { s with host := { s.host with bar2 := none } }) ∧
    (free → s.mem.cap < pa + n → ∃ t, exec (.bar2Access p write bound off n data) s = .next t ∧ t.host.bar2 = none
      ∧ t.mem = s.mem ∧ s.Reported t 0x0006) ∧
    (free → pa + n ≤ s.mem.cap → s.mem.poison = [] →
      (write = false → exec (.bar2Access p write bound off n data) s = .next { s with
        host := { s.host with bar2 := some (s.mem.readMany pa n) } }) ∧
      (write = true → data.length = n → exec (.bar2Access p write bound off n data) s = .next { s with
        mem := s.mem.writeMany pa data, host := { s.host with bar2 := some [] } })) ∧
    (free → pa + n ≤ s.mem.cap → write = false → (∃ k ∈ s.atomsAt pa n, k ∈ s.mem.poison) →
      ∃ t, exec (.bar2Access p write bound off n data) s = .next t ∧ t.host.bar2 = none ∧ t.mem = s.mem ∧ s.Reported t 0x0005)

/-- 23 R448, R455, R469: a request is answered from the certificate slot and the measurements, signed with the identity key
where it asks for that, and changes nothing else; TDISP locks and unlocks a partition's interface, and in its session run the commands
that concern it, unless they concern another locked one too, and its register writes; any other is ignored (the model's reading, log
120). -/
def Sys2Proof.Claims.SpdmMessages : Prop :=
  ∀ (s : State) (p : Bool), s.Owned p →
    (∀ m, exec (.hostSpdmRequest (.request m)) s = .next { s with
      host := { s.host with doe := natBytes (s.respond m) }, free := s.free + respDraws m }) ∧
    (∀ m, msgAt m 1 1 = 0x82 → msgAt m 2 1 % 16 = 0 → (s.respond m).drop 8
      = bytesNat ((s.flash.chain.drop (msgAt m 4 2)).take (msgAt m 6 2))) ∧
    (∀ m, msgAt m 1 1 = 0xE0 → msgAt m 3 1 = 0xFF → msgAt m 2 1 % 2 = 1 → ∃ body, s.respond m
        = body ++ bytesNat (Config.sign s.flash.idKey (natBytes body))
      ∧ (body.drop 8).take (s.measBytes 0xFF).1.length = (s.measBytes 0xFF).1) ∧
    (s.measBytes 0xFF).1 = s.host.measured.zipIdx.flatMap (fun x => measBlock (x.2 + 1) x.1) ∧
    (∀ part l, exec (.hostSpdmRequest (.lock part l)) s = .next (s.updPart part.val fun q => { q with locked := l })) ∧
    (∀ (part : Fin 8) (op : BitVec 16) (slot : BitVec 8) (a : Vector W64 8) (arg : BitVec 512),
      (∀ k, k < 8 → argOf arg k = (a[k]?.getD 0).toNat) →
      let mine := s.lockedBy part.val op.toNat slot.toNat arg = true
        ∧ ∀ q, q < 8 → q ≠ part.val → s.lockedBy q op.toNat slot.toNat arg = false
      (mine → exec (.hostSpdmRequest (.command part op slot a.toList)) s = .next (s.perform op.toNat slot.toNat false arg).st) ∧
      (¬ mine → exec (.hostSpdmRequest (.command part op slot a.toList)) s = .next s)) ∧
    (∀ (part : Fin 8) (x : W64), (s.part part.val).locked = true → s.resident part.val = false →
      (∀ e ∈ s.fabric.ents, e.part = part.val → e.st ≠ 1) →
      exec (.hostSpdmRequest (.write part (0x20000 + 0x1000 * part.val + 0x0A0) x.toNat)) s
        = .next (s.updPart part.val fun q => { q with wstbase := x })) ∧
    (∀ (part : Fin 8) (off v : Nat), (s.part part.val).locked = false ∨ off < 0x8000 ∨ 0x28000 ≤ off →
      exec (.hostSpdmRequest (.write part off v)) s = .next s) ∧
    (∀ (part : Fin 8) (x : W64) (v : W32), (s.part part.val).locked = true →
      exec (.registerWrite p (0x20000 + 0x1000 * part.val + 0x0A0) x) s = exec (.qtailWrite p part v) s
        ∧ exec (.qtailWrite p part v) s = .next { s with host := { s.host with
            ign := s.host.ign.setIfInBounds (bit p) (min (2 ^ 32 - 1) ((s.host.ign[bit p]?.getD 0) + 1)) } })

/-- 12 R242, R249, 18 R332, 23 R450, R453, R456: what the status registers read as. -/
def Sys2Proof.Claims.RegisterReads : Prop :=
  ∀ (s : State) (p : Bool), s.booted = true → s.host.moveAt = none → (∀ c ∈ s.clusters, c.clock ≤ 36) →
    s.host.status < 256 → s.host.op < 2 ^ 16 →
    (s.readReg p 0x0000 = 0x4B34 * 2 ^ 48 + 2 ^ 40 + 2 * 2 ^ 32 + s.flash.devid.toNat) ∧
    (s.host.busy = none → s.readReg p 0x0010 = bit s.host.owner
      ∧ s.readReg p 0x1048 = bit s.host.overrun * 2 ^ 30 + s.host.status * 2 ^ 16 + s.host.op
      ∧ s.readReg p 0x1050 = s.host.res.toNat) ∧
    (∀ t q, s.host.busy = some (t, q) → s.now < t → s.readReg p 0x1048 / 2 ^ 31 = 1
      ∧ s.readReg p 0x1048 / 2 ^ 16 % 256 = s.host.status ∧ s.readReg p 0x1050 = s.host.res.toNat) ∧
    (∀ v, v = s.readReg p 0x2008 → v / 2 ^ 31 = bit s.host.vf.target.isSome ∧ v / 2 ^ 30 % 2 = bit s.host.vf.pending.isSome
        ∧ v / 2 ^ 20 % 16 = (s.host.vf.pending.map Fin.val).getD 0 ∧ v / 2 ^ 16 % 16 = (s.host.vf.target.map Fin.val).getD 0
        ∧ (∀ c ∈ s.clusters, c.clock ≤ v / 2 ^ 8 % 256) ∧ (v / 2 ^ 8 % 256 ≠ 0 → ∃ c ∈ s.clusters, c.clock = v / 2 ^ 8 % 256)
        ∧ v % 16 = s.host.vf.current.val ∧ v / 2 ^ 4 % 16 = 0) ∧
    (s.budget < 2 ^ 16 → s.readReg p 0x2110 = bit (!s.capStands) * 2 ^ 31 + s.budget) ∧
    (s.readReg p 0x4008 = s.mem.live.length) ∧
    (s.readReg p 0x4010 = (s.mem.sweep.map Sweep.f).getD (2 ^ 64 - 1)) ∧
    (∀ part, part < 8 → s.readReg p (0x20000 + 0x1000 * part + 0x048)
      = (match (s.part part).mstate with | .idle => 0 | .running => 1 | .stopped => 2) + 2 ^ 8 * (s.part part).mcode.toNat)

/-- 23 R449, R453, R468: ownership. -/
def Obligations.HostOwnership : Prop :=
  Sys2Proof.Claims.WritesIgnored ∧
  Sys2Proof.Claims.Failover ∧
  Sys2Proof.Claims.CommandEnds

/-- 11 R232, 12 R242 to R249, 18 R332, 23 R448 to R460, R475: registers, slot tables, the aperture and messages. -/
def Obligations.HostRegisters : Prop :=
  Sys2Proof.Claims.ClockRegisters ∧
  Sys2Proof.Claims.PageWrites ∧
  Sys2Proof.Claims.SlotTableWrites ∧
  Sys2Proof.Claims.DeviceRegisters ∧
  Sys2Proof.Claims.Aperture ∧
  Sys2Proof.Claims.SpdmMessages ∧
  Sys2Proof.Claims.RegisterReads

/-! ## The host's commands (23 R453) -/

/-- 23 R455: a command that a locked partition takes only in its session answers 0x04 and does nothing: PARTDEF and SEMASSIGN
of its clusters and semaphores, ASIDSET of its ASIDs, and MKEYLOAD and JKEYLOAD of a slot it uses. -/
def Sys2Proof.Claims.LockedOut : Prop :=
  ∀ (s : State) (p clear : Bool) (slot : BitVec 8), s.Owned p →
    (∀ x ∈ mailboxCommands p slot clear, s.lockedOut x.2.1 x.2.2 s.host.arg = true →
      exec x.1 s = .next (s.replied p x.2.1 0x04 0)) ∧
    (∀ k, k < 8 → (s.part k).locked = true → s.arg 0 = k → exec (.partdef p) s = .next (s.replied p 0x0001 0x04 0)) ∧
    (∀ k, k < 8 → (s.part k).locked = true → s.arg 1 = k → exec (.asidset p) s = .next (s.replied p 0x0002 0x04 0)) ∧
    (∀ k, k < 8 → (s.part k).locked = true → s.arg 2 = k → exec (.semassign p) s = .next (s.replied p 0x0005 0x04 0)) ∧
    ((∀ k, k < 8 → (s.part k).locked = false) → ∀ x ∈ mailboxCommands p slot clear,
      s.lockedOut x.2.1 x.2.2 s.host.arg = false) ∧
    (∀ x ∈ mailboxCommands p slot clear, x.2.1 ∉ [0x0001, 0x0002, 0x0005, 0x000B, 0x000D] →
      s.lockedOut x.2.1 x.2.2 s.host.arg = false)

/-- 23 R453: PARTDEF. -/
def Sys2Proof.Claims.Partdef : Prop :=
  ∀ (s : State) (p : Bool), s.Commands p 0x0001 0 →
    let cs := maskBits 32 (s.arg 1)
    let bad := 8 ≤ s.arg 0 ∨ 2 ^ 32 ≤ s.arg 1
    let held := s.resident (s.arg 0) = true ∨ (∃ b ∈ s.blocks, b.retired = false ∧ b.cl ∈ cs)
      ∨ ∃ q, q < 8 ∧ q ≠ s.arg 0 ∧ ∃ c ∈ (s.part q).clusters, c ∈ cs
    (bad → exec (.partdef p) s = .next (s.replied p 0x0001 0x02 0)) ∧
    (¬ bad → held → exec (.partdef p) s = .next (s.replied p 0x0001 0x03 0)) ∧
    (¬ bad → ¬ held → exec (.partdef p) s
      = .next ((s.updPart (s.arg 0) fun q => { q with clusters := cs, search := 0 }).replied p 0x0001 0 0))

/-- 23 R452, R453: ASIDSET. -/
def Sys2Proof.Claims.Asidset : Prop :=
  ∀ (s : State) (p : Bool), s.Commands p 0x0002 0 →
    let n := s.arg 0
    let at' := s.host.asidtbl.toNat + 64 * n
    let x := s.mem.word at' 64
    let rest := s.asids.filter fun e => e.asid != n
    let bad := 8192 ≤ n ∨ 8 ≤ s.arg 1 ∨ 2 ≤ s.arg 2
    let live := ∃ g ∈ s.grids, g.l.asid = n ∧ (g.phase = .check ∨ g.phase = .run)
    let fits := at' + 64 ≤ s.mem.cap ∧ x / 2 ^ 18 % 2 ^ 302 = 0 ∧ x % 2 ^ 8 = 0 ∧ 4 ≤ x / 2 ^ 13 % 32 ∧ x / 2 ^ 13 % 32 ≤ 16
      ∧ 4 ≤ x / 2 ^ 8 % 32 ∧ x / 2 ^ 8 % 32 ≤ 16 ∧ x / 2 ^ 448 % 2 ^ 64 % 16 = 0 ∧ x / 2 ^ 384 % 2 ^ 64 % 32 = 0
      ∧ x / 2 ^ 320 % 2 ^ 64 % 4096 = 0
    (bad → exec (.asidset p) s = .next (s.replied p 0x0002 0x02 0)) ∧
    (¬ bad → live → exec (.asidset p) s = .next (s.replied p 0x0002 0x03 0)) ∧
    (¬ bad → ¬ live → s.arg 2 = 0 → exec (.asidset p) s = .next ({ s with asids := rest }.replied p 0x0002 0 0)) ∧
    (¬ bad → ¬ live → s.arg 2 = 1 → ¬ fits → exec (.asidset p) s = .next (s.replied p 0x0002 0x02 0)) ∧
    (¬ bad → ¬ live → s.arg 2 = 1 → fits → ∃ e, exec (.asidset p) s = .next ({ s with asids := e :: rest }.replied p 0x0002 0 0)
      ∧ e.asid = n ∧ e.part.val = s.arg 1 ∧ e.root = x / 2 ^ 320 % 2 ^ 64 ∧ e.fqbase = x / 2 ^ 384 % 2 ^ 64
      ∧ e.cqbase = x / 2 ^ 448 % 2 ^ 64 ∧ e.cqn = x / 2 ^ 13 % 32 ∧ e.fqn = x / 2 ^ 8 % 32 ∧ e.prod = 0 ∧ e.cons = 0
      ∧ e.recs = [] ∧ e.served = [] ∧ e.fences = [])

/-- 11 R229, 19 R376, 23 R453: MAPFENCE, which drops the translations of its ASID with the walks under way and waits for the accesses that
used them, held ones too, and TERMINATE. -/
def Sys2Proof.Claims.MapfenceTerminate : Prop :=
  ∀ (s : State) (p : Bool), s.Owned p →
    let n := s.arg 0
    (8192 ≤ n → exec (.mapfence p) s = .next (s.replied p 0x0003 0x02 0)
      ∧ exec (.terminate p) s = .next (s.replied p 0x0004 0x02 0)) ∧
    (n < 8192 → s.asid n = none → exec (.mapfence p) s = .next (s.replied p 0x0003 0x03 0)) ∧
    (n < 8192 → ∀ e, s.asid n = some e → ∃ (f : MapFence),
      exec (.mapfence p) s
          = .next (((s.dropAsid n).updAsid n fun e => { e with fences := e.fences ++ [f] }).replied p 0x0003 0 0)
        ∧ (∀ a ∈ s.accs, a.asid = n → a.paged = true → a.effected = false → isPgreq a.i = false → isOrdfl a.i = false → a.id ∈ f.accs)
        ∧ (∀ h ∈ s.held, ∀ g id, s.gridOf h.gid = some g → g.l.asid = n → h.acc = some id → id ∈ f.accs)
        ∧ (∀ r ∈ (s.dropAsid n).mem.reqs, r ∈ s.mem.reqs ∧ (r.walk = none ∨ r.asid ≠ n))
        ∧ (∀ e ∈ (s.dropAsid n).mem.tlb, e.asid ≠ n) ∧ ∀ e ∈ s.mem.tlb, e.asid ≠ n → e ∈ (s.dropAsid n).mem.tlb) ∧
    (n < 8192 → (∀ g ∈ s.grids, g.l.asid ≠ n) → exec (.terminate p) s = .next (s.replied p 0x0004 0 0)) ∧
    (n < 8192 → (s.grids.map Grid.gid).Nodup → ∃ t, exec (.terminate p) s = .next t ∧ t.host = (s.replied p 0x0004 0 0).host
      ∧ (∀ g ∈ t.grids, g.l.asid = n → g.phase ≠ .run ∧ g.phase ≠ .check)
      ∧ (∀ w ∈ t.waves, ∀ b g, s.blockOf w.bid = some b → s.gridOf b.gid = some g → g.phase = .run → g.l.asid ≠ n)
      ∧ ((∃ g ∈ s.grids, g.l.asid = n ∧ (g.phase = .run ∨ g.phase = .check)) → s.Reported t 0x000B))

/-- 17 R324, 23 R453: SEMASSIGN: a semaphore that changes hands reads zero. -/
def Sys2Proof.Claims.Semassign : Prop :=
  ∀ (s : State) (p : Bool), s.Inv → s.Commands p 0x0005 0 →
    let c := s.arg 0
    let own : Option (Fin 8) := if s.arg 2 < 8 then some (Fin.ofNat 8 (s.arg 2)) else none
    let bad := 32 ≤ c ∨ 8 < s.arg 2
    let held := ∃ k, k < 64 ∧ (s.arg 1).testBit k = true ∧ ∃ q, ((s.cluster c).sem k).owner = some q ∧ q.val ≠ s.arg 2
      ∧ s.resident q.val = true
    (bad → exec (.semassign p) s = .next (s.replied p 0x0005 0x02 0)) ∧
    (¬ bad → held → exec (.semassign p) s = .next (s.replied p 0x0005 0x03 0)) ∧
    (¬ bad → ¬ held → ∃ t, exec (.semassign p) s = .next t
      ∧ t = { s.replied p 0x0005 0 0 with clusters := t.clusters } ∧ t.clusters.length = 32
      ∧ (∀ d, d < 32 → d ≠ c → t.cluster d = s.cluster d)
      ∧ ∀ k, k < 64 → (t.cluster c).sem k = if (s.arg 1).testBit k = true ∧ ((s.cluster c).sem k).owner ≠ own then
          { Sem.reset with owner := own } else (s.cluster c).sem k)

/-- 12 R246 to R248, 23 R453: RETIRE: the codes of R247, and the start of the sweep. -/
def Sys2Proof.Claims.Retire : Prop :=
  ∀ (s : State) (p : Bool), s.Owned p →
    let m := s.host.arg.toNat
    let keep := s.mem.live.filter fun q => !m.testBit q
    let few := ∃ q ∈ s.mem.live, ((s.chan q).table.toList.filter fun e => decide (slotKind e = 3)).length < 4
    let refused := fun code => exec (.retire p) s = .next (s.replied p 0x0006 0x10 code)
    let unnamed := m = 0 ∨ ∃ q, q < 512 ∧ m.testBit q = true ∧ q ∉ s.mem.live
    (s.mem.sweep ≠ none → refused 0x01) ∧
    (s.mem.sweep = none → unnamed → refused 0x02) ∧
    (s.mem.sweep = none → ¬ unnamed → keep = [] → refused 0x03) ∧
    (s.mem.sweep = none → ¬ unnamed → keep ≠ [] → few → refused 0x04) ∧
    (s.mem.sweep = none → ¬ unnamed → keep ≠ [] → ¬ few → ∃ t, exec (.retire p) s = .next t
      ∧ t.host = (s.replied p 0x0006 0 0).host ∧ t.mem.live = s.mem.live ∧ t.mem.bytes = s.mem.bytes
      ∧ t.mem.cap = keep.length * 1572864 * 512
      ∧ (∃ w, t.mem.sweep = some w ∧ w.live = keep ∧ w.f = keep.length * 1572864 - 1 ∧ w.poisoned = 0)
      ∧ (∀ e ∈ t.mem.tlb, e ∈ s.mem.tlb) ∧ s.arb.inbox.length ≤ t.arb.inbox.length
      ∧ ∀ x ∈ t.arb.inbox.drop s.arb.inbox.length, x.2.code = 0x0105)

/-- 19 R386, R391, 23 R453: PREEMPT and RESUME. -/
def Sys2Proof.Claims.PreemptResume : Prop :=
  ∀ (s : State) (p : Bool), s.Owned p →
    let n := s.arg 0
    let h := s.mem.word (s.arg 1) 64
    (8 ≤ n ∨ s.mem.cap < s.arg 1 + s.arg 2 → exec (.preempt p) s = .next (s.replied p 0x0007 0x02 0)) ∧
    (n < 8 → s.arg 1 + s.arg 2 ≤ s.mem.cap →
      ((s.part n).preempt ≠ none ∨ (s.part n).preemptAt ≠ none → exec (.preempt p) s = .next (s.replied p 0x0007 0x03 0)) ∧
      ((s.part n).preempt = none → (s.part n).preemptAt = none →
        (s.arg 2 < s.saveSize n → exec (.preempt p) s = .next (s.replied p 0x0007 0x10 (s.saveSize n))) ∧
        (s.saveSize n ≤ s.arg 2 → exec (.preempt p) s
          = .next ((s.updPart n fun q => { q with
              preempt := some (s.arg 1, s.arg 3), gutter := if s.holdsArmed n then some s.nextGutter else none }).replied
                p 0x0007 0 0)))) ∧
    (8 ≤ n ∨ s.mem.cap < s.arg 1 + 64 → exec (.resume p) s = .next (s.replied p 0x0008 0x02 0)) ∧
    (n < 8 → s.arg 1 + 64 ≤ s.mem.cap →
      (h % 2 ^ 32 ≠ 0x53564B34 ∨ h / 2 ^ 48 % 2 ^ 16 ≠ 1 → exec (.resume p) s = .next (s.replied p 0x0008 0x10 0)) ∧
      (h % 2 ^ 32 = 0x53564B34 → h / 2 ^ 48 % 2 ^ 16 = 1 →
        let bs := s.savedAt n (s.arg 1)
        let graph := s.arg 1 + s.mem.word (s.arg 1 + 8) 8
        ∃ t, exec (.resume p) s = .next t ∧ t.host = (s.replied p 0x0008 0 0).host ∧ t.mem = s.mem
          ∧ (t.part n).gpc.toNat = s.mem.word graph 8 ∧ (t.part n).epoch.toNat = s.mem.word (graph + 8) 8
          ∧ (t.part n).loops.length = s.mem.word (graph + 16) 2 ∧ (t.part n).preemptAt = none
          ∧ (bs ≠ [] → t.resuming = s.resuming ++ [⟨s.arg 1, n, bs⟩] ∧ t.arb = s.arb)
          ∧ (bs = [] → t.resuming = s.resuming ∧ s.Reported t 0x0116)
          ∧ ∀ g ∈ s.grids, g.part = n → ∀ used, g.saved = some used →
              ∃ h ∈ t.grids, h.gid = g.gid ∧ h.saved = none ∧ h.start = s.gc - used))

/-- 18 R348, R350, 23 R453: MRESUME and GSIGACK. -/
def Sys2Proof.Claims.MarshalCommands : Prop :=
  ∀ (s : State) (p : Bool), s.Owned p →
    let n := s.arg 0
    (8 ≤ n → exec (.mresume p) s = .next (s.replied p 0x0009 0x02 0)) ∧
    (n < 8 → (s.part n).mstate = .stopped → exec (.mresume p) s
      = .next ((s.updPart n fun q => { q with mstate := .idle }).replied p 0x0009 0 0)) ∧
    (n < 8 → (s.part n).mstate ≠ .stopped → exec (.mresume p) s = .next (s.replied p 0x0009 0x03 0)) ∧
    (∃ t, exec (.gsigack p) s = .next t ∧ t = { s.replied p 0x000A 0 0 with parts := t.parts, mem := t.mem, arb := t.arb }
      ∧ ∀ k (m : Node) a, k < 8 → (s.part k).nodes.find? (fun m => match m.kind with | .sig _ (some j) => j == n | _ => false) = some m →
          m.sten = false → m.kind = .sig a (some n) → (t.part k).nodes = (s.part k).nodes.filter fun x => x.id != m.id)

/-- 11 R223, 21 R433, 23 R453: the key slots. -/
def Sys2Proof.Claims.KeyCommands : Prop :=
  ∀ (s : State) (p : Bool) (slot : BitVec 8),
    let k := slot.toNat
    let used := ∃ g ∈ s.grids, g.phase = .run ∧ ∃ w ∈ g.windows, w.size ≠ 0 ∧ w.enc = true ∧ w.keyidx.val = k
    let armed := (∃ t ∈ s.fabric.ents, (t.st = 1 ∨ t.st = 2) ∧ ∃ w, t.word = some w ∧ w.lkey = 128 + k)
      ∨ ∃ n x, n < 12 ∧ (s.port n).session = some x ∧ k ∈ x.keys
    (s.Commands p 0x000B k →
      (k < 128 → exec (.mkeyload p slot) s
        = .next ({ s with mem := { s.mem with keys := s.mem.keys.set none k (some s.host.arg) } }.replied p 0x000B 0 0)) ∧
      (128 ≤ k → exec (.mkeyload p slot) s = .next (s.replied p 0x000B 0x02 0))) ∧
    (s.Commands p 0x000C k →
      (128 ≤ k → exec (.mkeyunload p slot) s = .next (s.replied p 0x000C 0x02 0)) ∧
      (k < 128 → used → exec (.mkeyunload p slot) s = .next (s.replied p 0x000C 0x03 0)) ∧
      (k < 128 → ¬ used → exec (.mkeyunload p slot) s
        = .next ({ s with mem := { s.mem with keys := s.mem.keys.set none k none } }.replied p 0x000C 0 0))) ∧
    (s.Commands p 0x000D k →
      (k < 128 → s.arg 4 < 2 ^ 32 → exec (.jkeyload p slot) s = .next ({ s with fabric := { s.fabric with
        jkeys := s.fabric.jkeys.set none k (some (s.host.arg.setWidth 256, BitVec.ofNat 32 (s.arg 4))) } }.replied p 0x000D 0 0)) ∧
      (128 ≤ k ∨ 2 ^ 32 ≤ s.arg 4 → exec (.jkeyload p slot) s = .next (s.replied p 0x000D 0x02 0))) ∧
    (s.Commands p 0x000E k →
      (128 ≤ k → exec (.jkeyunload p slot) s = .next (s.replied p 0x000E 0x02 0)) ∧
      (k < 128 → armed → exec (.jkeyunload p slot) s = .next (s.replied p 0x000E 0x03 0)) ∧
      (k < 128 → ¬ armed → exec (.jkeyunload p slot) s
        = .next ({ s with fabric := { s.fabric with jkeys := s.fabric.jkeys.set none k none } }.replied p 0x000E 0 0)))

/-- 21 R428 to R430, R434, 23 R453: ATTEST and REVOKE, which first removes every key that the session has delivered. -/
def Sys2Proof.Claims.SwitchCommands : Prop :=
  ∀ (s : State) (p : Bool), s.Owned p →
    let n := s.arg 0
    let bad := 12 ≤ n ∨ 2 ^ 16 ≤ s.arg 1 ∨ 128 ≤ s.arg 3
    let put := fun (x : Session) => (s.updPort n fun q => { (q.queued x.last) with session := some x }).replied p 0x000F 0 0
    (bad → exec (.attest p) s = .next (s.replied p 0x000F 0x02 0)) ∧
    (¬ bad → s.fabric.jkeys.get none (s.arg 3) = none → exec (.attest p) s = .next (s.replied p 0x000F 0x03 0)) ∧
    (¬ bad → ∀ key id, s.fabric.jkeys.get none (s.arg 3) = some (key, id) →
      ((s.port n).session = none → exec (.attest p) s = .next (put s.newSession)) ∧
      (∀ x, (s.port n).session = some x →
        (x.unit ≠ s.arg 1 ∨ x.step ≠ none → exec (.attest p) s = .next (s.replied p 0x000F 0x03 0)) ∧
        (x.unit = s.arg 1 → x.step = none → exec (.attest p) s = .next (put { x with
          policy := s.arg 2, jslot := s.arg 3, step := some 8, sentAt := s.fabric.folio, resent := false
          sent := natBytes (s.vendorRequest (s.arg 3) 1), last := s.sessionFlits n x (s.vendorRequest (s.arg 3) 1)
          tx := if x.live then x.tx + 1 else x.tx })))) ∧
    (12 ≤ n → exec (.revoke p) s = .next (s.replied p 0x0010 0x02 0)) ∧
    (n < 12 → (s.port n).session = none → exec (.revoke p) s = .next (s.replied p 0x0010 0 0)) ∧
    (n < 12 → ∀ x, (s.port n).session = some x → ∃ t, exec (.revoke p) s = .next t ∧ (t.port n).session = none
      ∧ t.host = (s.replied p 0x0010 0 0).host ∧ (x.live = true → s.Reported t 0x011A
        ∧ (t.port n).queue = (s.port n).queue ++
            ((x.keys.map (fun k => s.vendorRequest k 2) ++ [[0x14, 0xEC, 0, 0]]).zipIdx.flatMap fun (z : List Nat × Nat) =>
              fragments x.unit s.unitOf (((s.port n).msgNo + z.2) % 256)
                (natBytes ({ x with tx := x.tx + z.2 }.sealMsg n z.1)))))

/-- 20 R402, R407, 23 R453: SCHEDLOAD and TMPLLOAD. -/
def Sys2Proof.Claims.ScheduleCommands : Prop :=
  ∀ (s : State) (p : Bool), s.Owned p →
    let g0 := s.arg 0
    let n := s.arg 0
    let fits := 1024 ≤ s.arg 1 ∧ s.arg 1 < 2 ^ 32 ∧ 1 ≤ s.arg 3 ∧ s.arg 3 ≤ 15 ∧ s.arg 3 + 2 ≤ s.arg 2 ∧ s.arg 2 ≤ 255
      ∧ 3328 * s.arg 2 ≤ 10 * (s.arg 1 - 274) ∧ 274 ≤ s.arg 1
    let armed := ∃ t ∈ s.fabric.ents, t.st = 1
    (¬ fits → exec (.schedload p) s = .next (s.replied p 0x0011 0x02 0)) ∧
    (fits → armed → exec (.schedload p) s = .next (s.replied p 0x0011 0x03 0)) ∧
    (fits → ¬ armed → ∃ t, exec (.schedload p) s = .next t ∧ t = { s.replied p 0x0011 0 0 with fabric := t.fabric }
      ∧ t.fabric.plan = some ⟨g0, s.arg 1, s.arg 2, s.arg 3⟩ ∧ t.fabric.ents = s.fabric.ents ∧ t.fabric.hold = none
      ∧ t.fabric.folio = (if s.gc < g0 then 0 else (s.gc - g0) / s.arg 1)
      ∧ ∀ m, m < 12 → (t.port m).trained = (s.port m).trained
          ∧ ((∀ o, s.fabric.plan = some o → o.f = s.arg 2) → (t.port m).tx = (s.port m).tx ∧ (t.port m).rx = (s.port m).rx)
          ∧ (∀ o, s.fabric.plan = some o → o.f ≠ s.arg 2 → (t.port m).tx = [] ∧ (t.port m).rx = [])) ∧
    (12 ≤ n → exec (.tmplload p) s = .next (s.replied p 0x0012 0x02 0)) ∧
    (n < 12 → s.fabric.plan = none → exec (.tmplload p) s = .next (s.replied p 0x0012 0x03 0)) ∧
    (n < 12 → ∀ pl, s.fabric.plan = some pl →
      s.arg 1 + 2048 * pl.f ≤ s.mem.cap → s.arg 2 + 2048 * pl.f ≤ s.mem.cap →
      (armed → exec (.tmplload p) s = .next (s.replied p 0x0012 0x03 0)) ∧
      (¬ armed → ∃ t, exec (.tmplload p) s = .next t ∧ t = { s.replied p 0x0012 0 0 with fabric := t.fabric }
        ∧ (∀ m, m < 12 → m ≠ n → t.port m = s.port m)
        ∧ ∀ j, j < 256 * pl.f → ((t.port n).tx.get 0 j).toNat = s.mem.word (s.arg 1 + 8 * j) 8
            ∧ ((t.port n).rx.get 0 j).toNat = s.mem.word (s.arg 2 + 8 * j) 8))

/-- 09 R207, 12 R237, 23 R453, R463: WIDTHUP, MXRESET and RACKCAP. -/
def Sys2Proof.Claims.UnitCommands : Prop :=
  ∀ (s : State) (p clear : Bool), s.Owned p →
    let n := s.arg 0
    let m : BitVec 128 := s.host.arg.setWidth 128
    let r := if clear then s.sense s.now (.lane n false) else s
    (256 ≤ n → exec (.widthup p clear) s = .next (r.replied p 0x0013 0x02 0)) ∧
    (n < 256 → r.halfCause n = true → exec (.widthup p clear) s = .next (r.replied p 0x0013 0x03 0)) ∧
    (n < 256 → r.halfCause n = false → exec (.widthup p clear) s = .next
      (((r.updChan (2 * n) fun c => { c with halfNext := false }).updChan (2 * n + 1) fun c =>
        { c with halfNext := false }).replied p 0x0013 0 0)) ∧
    (r.halfCause n = true ↔ (clear = false ∧ n ∈ s.mem.laneFaults)
      ∨ s.host.templim.toNat % 256 < (s.host.temps[32 + n / 32]?.getD 0).toNat) ∧
    (32 ≤ n → exec (.mxreset p) s = .next (s.replied p 0x0014 0x02 0)) ∧
    (n < 32 → (∃ b ∈ s.blocks, b.cl = n ∧ b.retired = false ∧ b.tiles ≠ []) →
      exec (.mxreset p) s = .next (s.replied p 0x0014 0x03 0)) ∧
    (n < 32 → (∀ b ∈ s.blocks, b.cl = n → b.retired = false → b.tiles = []) → exec (.mxreset p) s = .next
      ((s.updCluster n fun c => { c with
        twins := ({ Twin.reset with temp := c.twins.1.temp }, { Twin.reset with temp := c.twins.2.temp }) }).replied
          p 0x0014 0 0)) ∧
    (400 ≤ m.toNat / 2 ^ 48 % 2 ^ 16 → m.toNat / 2 ^ 48 % 2 ^ 16 ≤ 2400 → m.toNat / 2 ^ 40 % 2 ^ 8 = 0 → m.toNat % 2 ^ 40 ≠ 0 →
      exec (.rackcap none p) s = .next (if ∀ o ∈ s.host.rcap, o.toNat / 2 ^ 64 < m.toNat / 2 ^ 64 then
          { s with host := { s.host with rcap := some m, capUntil := some (s.gc + m.toNat % 2 ^ 40) } }.replied p 0x0015 0 0
        else { s with host := { s.host with rcapIgn := min (2 ^ 32 - 1) (s.host.rcapIgn + 1) } }.replied p 0x0015 0 0)) ∧
    (¬(400 ≤ m.toNat / 2 ^ 48 % 2 ^ 16 ∧ m.toNat / 2 ^ 48 % 2 ^ 16 ≤ 2400 ∧ m.toNat / 2 ^ 40 % 2 ^ 8 = 0
        ∧ m.toNat % 2 ^ 40 ≠ 0) →
      exec (.rackcap none p) s = .next
        ({ s with host := { s.host with rcapIgn := min (2 ^ 32 - 1) (s.host.rcapIgn + 1) } }.replied p 0x0015 0x02 0))

/-- 11 R229, 12 R246 to R248, 17 R324, 19 R376, R386, R391, 23 R452 to R455: commands of partitions, ASIDs, semaphores and
memory. -/
def Obligations.PartitionCommands : Prop :=
  Sys2Proof.Claims.LockedOut ∧
  Sys2Proof.Claims.Partdef ∧
  Sys2Proof.Claims.Asidset ∧
  Sys2Proof.Claims.MapfenceTerminate ∧
  Sys2Proof.Claims.Semassign ∧
  Sys2Proof.Claims.Retire ∧
  Sys2Proof.Claims.PreemptResume

/-- 09 R207, 11 R223, 12 R237, 18 R348, R350, 20 R402, R407, 21 R428 to R433, 23 R453, R463: the other commands. -/
def Obligations.UnitCommands : Prop :=
  Sys2Proof.Claims.MarshalCommands ∧
  Sys2Proof.Claims.KeyCommands ∧
  Sys2Proof.Claims.SwitchCommands ∧
  Sys2Proof.Claims.ScheduleCommands ∧
  Sys2Proof.Claims.UnitCommands

/-! ## Encodings (03 R49 to R66, 18 R334 to R337) -/

/-- 03 R53 to R64, 18 R337: words that the spec writes out decode to the instructions that it names: one or more of each
family. -/
def Obligations.DecodeSpecWords : Prop :=
  let v := fun (n : Fin 256) => Opnd.v n
  let z := Opnd.zero
  ∀ p ∈ ([
    (0x0204_0401_80D8_0000, .imul .ui32 ⟨v 2, v 1, .s 1, z, 0, false, .rne, false, false, 0⟩),
    (0x0500_0601_0158_0400, .idiv .i32 ⟨v 3, v 1, v 2, z, 1, false, .rne, false, false, 0⟩),
    (0x1A22_8402_B058_0400, .icmp .ne .i32 ⟨.m 2, v 2, z, z, 1, false, .rne, false, false, 0⟩),
    (0x1B00_0A03_0250_8400, .sel .i32 ⟨v 5, v 3, v 4, .m 2, 1, false, .rne, false, false, 0⟩),
    (0x1D20_0560_4B80_0000, .movi .f (v 2) 0x4B80_0000),
    (0x2C00_0400_B058_0000, .fexp .f ⟨v 2, v 0, z, z, 0, false, .rne, false, false, 0⟩),
    (0x4102_C10A_0000_000A, .brc false (.s 10) 10),
    (0x4602_C160_B058_0000, .exit ⟨z, z, z, z, 0, false, .rne, false, false, 0⟩),
    (0x4702_C160_B058_000A, .nop ⟨z, z, z, z, 0, false, .rne, false, false, 5⟩),
    (0x490B_0F02_B030_0C08, .ld false false ⟨.b32, .vx 7, .s 2, none, .main, false, .plain, .wave, 3, false, 4⟩),
    (0x4A0A_290D_B014_5800, .st false ⟨.b32, .s 20, .s 13, none, .cluster, false, .rel, .block, 6, false, 0⟩),
    (0x5402_0801_B058_0800, .wred .f .sum ⟨.s 4, v 1, z, z, 2, false, .rne, false, false, 0⟩),
    (0x5A02_C000_B058_0000, .barw 0 ⟨z, z, z, z, 0, false, .rne, false, false, 0⟩),
    (0x6000_0160_8158_0020, .mma false 0 ⟨z, z, .s 2, z, 0, false, .rne, true, false, 0⟩),
    (0x6404_0103_B058_0000, .tst .bf 0 ⟨z, .s 3, z, z, 0, false, .rne, false, false, 0⟩),
    (0x7048_0C04_A1B8_0000, .gath false true ⟨.b32, v 6, v 4, some 3, .main, true, .plain, .wave, 0, false, 0⟩),
    (0x7202_C004_B038_0E00, .pgreq false ⟨.b8, z, v 4, none, .main, true, .plain, .wave, 3, true, 0⟩),
    (0x7528_0301_B010_0000, .atom .add ⟨.b32, v 1, .s 1, none, .cluster, false, .plain, .wave, 0, false, 0⟩),
    (0x9002_0903_B058_0000, .cpyj ⟨.s 4, .s 3, z, z, 0, false, .rne, false, false, 0⟩),
    (0x9602_C003_8158_0000, .semwt 3 ⟨z, z, .s 2, z, 0, false, .rne, false, false, 0⟩),
    (0xA308_0D04_B005_0000, .xst ⟨.b32, v 6, .s 4, none, .slice, false, .rel, .pod, 0, false, 0⟩),
    (0xB002_C160_0000_0042, .trap 0x42),
    (0xB702_C104_82D8_0000, .pkwr ⟨z, .s 4, .s 5, z, 0, false, .rne, false, false, 0⟩),
    (0xC000_8002_0000_1041, .glaunch .always true 0x0400_0020 true 1),
    (0xC100_00C0_0000_0442, .gcoll .always 12 0 4 true 2),
    (0xC600_4000_0000_0000, .gwaitgc .always (.cw 0))] : List (Nat × Instr)),
    decodeTableWord 64 p.1 = some p.2

/-- 03 R53 to R64, 18 R337: every well-formed instruction of a wave's stream, and every well-formed graph word, is read back
from its own words. -/
def Obligations.DecodeEncode : Prop :=
  ∀ (i : Instr), i.isWord = true → i.wf = true → decodeBytes i.bytes = .ok i

/-- 03 R63 to R66, 18 R334: what a word decodes to is well formed and has that word: no bit of it is left unread. -/
def Obligations.EncodeDecode : Prop :=
  (∀ (w lit : W64) (i : Instr), decodeWave w.toNat lit.toNat = .ok i → (∀ x, i ≠ .unassignedOpcode x) →
    i.isWord = true ∧ i.wf = true
      ∧ encode i = if w.toNat / 2 ^ 56 = 0x1E then [w.toNat, lit.toNat] else [w.toNat]) ∧
  ∀ (w : W64) (i : Instr), decodeGraph w.toNat = .ok i → (∀ x, i ≠ .illegalGraphWord x) →
    i.isGraph = true ∧ i.wf = true ∧ encode i = [w.toNat]

/-! ## Reset and the invariant -/

/-- 01 R6, 18 R332, 19 R379, 20 R397, 23 R449 to R451, R460, R468: the device at reset, before its boot: every register that a
host can read is zero but for DEVID, nothing is placed, and the values that the spec gives stand. -/
def Sys2Proof.Claims.ResetValues : Prop :=
  let s := State.reset
  s.Inv ∧ s.booted = false ∧ s.gc = 0 ∧ s.waves = [] ∧ s.blocks = [] ∧ s.grids = [] ∧ s.mem.bytes = [] ∧ s.arb.seq = 0
    ∧ s.host.owner = false ∧ s.fabric.agreed = false ∧ s.fabric.plan = none
    ∧ (∀ p off, 8 ≤ off → s.readReg p off = 0)
    ∧ (∀ p, p < 8 → (s.part p).mstate = .idle ∧ (s.part p).qhead = 0 ∧ (s.part p).qtail = 0 ∧ (s.part p).stalllim = 2048
        ∧ (s.part p).clusters = [] ∧ (s.part p).epoch = 0)
    ∧ (∀ c, c < 32 → (s.cluster c).ovr = 1 ∧ (s.cluster c).ceil = 4 ∧ (s.cluster c).hostPass = 1
        ∧ ∀ k, k < 64 → (s.cluster c).sem k = ⟨0, false, false, none⟩)
    ∧ ∀ c sl, c < 32 → sl < 6 → (s.slice c sl).round = 0

/-- The first step from reset is the boot: the model's own choice (log 41). -/
def Sys2Proof.Claims.FirstStep : Prop := step State.reset = exec (.reset true) State.reset

/-- 01 R6, 23 R449 to R451, R468: reset. -/
def Obligations.ResetState : Prop :=
  Sys2Proof.Claims.ResetValues ∧
  Sys2Proof.Claims.FirstStep

/-- Every instruction and every step keep the invariant: the store, the tiles and the pseudo-channels stay in canonical form,
and the device keeps its 192 slices and 32 clusters (00 R1, R2). -/
def Obligations.InvariantKept : Prop :=
  (∀ (i : Instr) (s t : State), s.Inv → exec i s = .next t → t.Inv) ∧
  ∀ (s t : State), s.Inv → step s = .next t → t.Inv
end

