-- ==== Sys2Proof/Laws/Cells.lean ====
section
/-! SUPPORT. Sparse maps: what a read finds after a write, and that every operation keeps the canonical form. -/

namespace Sys2Proof.Machine

variable {α : Type} {d : α}

/-- A key below every listed one reads as the default. -/
theorem Cells.get_below [DecidableEq α] {c : Cells α} {lo a : Nat} (h : Cells.wfFrom d lo c = true) (ha : a < lo) :
    Cells.get d c a = d := by
  cases c with
  | nil => rfl
  | cons e c =>
    obtain ⟨k, v⟩ := e
    simp only [Cells.wfFrom, Bool.and_eq_true, decide_eq_true_eq] at h
    simp only [Cells.get]
    rw [if_neg (by omega), if_pos (by omega)]

theorem Cells.wfFrom_mono [DecidableEq α] {c : Cells α} {lo hi : Nat} (h : Cells.wfFrom d hi c = true) (hl : lo ≤ hi) :
    Cells.wfFrom d lo c = true := by
  cases c with
  | nil => rfl
  | cons e c =>
    obtain ⟨k, v⟩ := e
    simp only [Cells.wfFrom, Bool.and_eq_true, decide_eq_true_eq] at h ⊢
    exact ⟨⟨by omega, h.1.2⟩, h.2⟩

/-- A write keeps the canonical form. -/
theorem Cells.wfFrom_set [DecidableEq α] {c : Cells α} {lo a : Nat} {v : α} (h : Cells.wfFrom d lo c = true)
    (ha : lo ≤ a) : Cells.wfFrom d lo (Cells.set d c a v) = true := by
  induction c generalizing lo with
  | nil => by_cases hv : v = d <;> simp [Cells.set, Cells.wfFrom, hv, ha]
  | cons e c ih =>
    obtain ⟨k, w⟩ := e
    simp only [Cells.wfFrom, Bool.and_eq_true, decide_eq_true_eq] at h
    obtain ⟨⟨h1, h2⟩, h3⟩ := h
    simp only [Cells.set]
    split
    · split
      · simp [Cells.wfFrom, h1, h2, h3]
      · rename_i hak hv
        have : Cells.wfFrom d (a + 1) ((k, w) :: c) = true := by
          simp only [Cells.wfFrom, Bool.and_eq_true, decide_eq_true_eq]
          exact ⟨⟨by omega, h2⟩, h3⟩
        simp [Cells.wfFrom, hv, ha] at this ⊢
        exact this
    · split
      · rename_i hak
        split
        · exact Cells.wfFrom_mono h3 (by omega)
        · rename_i hv
          subst hak
          simp [Cells.wfFrom, hv, ha, h3]
      · simp only [Cells.wfFrom, Bool.and_eq_true, decide_eq_true_eq]
        exact ⟨⟨h1, h2⟩, ih h3 (by omega)⟩

theorem Cells.wf_set [DecidableEq α] {c : Cells α} {a : Nat} {v : α} (h : Cells.wf d c = true) :
    Cells.wf d (Cells.set d c a v) = true := Cells.wfFrom_set h (Nat.zero_le a)

theorem Cells.wf_setMany [DecidableEq α] {c : Cells α} {a : Nat} {vs : List α} (h : Cells.wf d c = true) :
    Cells.wf d (Cells.setMany d c a vs) = true := by
  induction vs generalizing c a with
  | nil => exact h
  | cons v vs ih => exact ih (Cells.wf_set h)

theorem Cells.wfFrom_filter [DecidableEq α] {c : Cells α} {lo : Nat} (p : Nat × α → Bool)
    (h : Cells.wfFrom d lo c = true) : Cells.wfFrom d lo (c.filter p) = true := by
  induction c generalizing lo with
  | nil => rfl
  | cons e c ih =>
    obtain ⟨k, w⟩ := e
    simp only [Cells.wfFrom, Bool.and_eq_true, decide_eq_true_eq] at h
    by_cases hp : p (k, w) = true
    · rw [List.filter_cons_of_pos hp]
      simp only [Cells.wfFrom, Bool.and_eq_true, decide_eq_true_eq]
      exact ⟨h.1, ih h.2⟩
    · rw [List.filter_cons_of_neg hp]
      exact Cells.wfFrom_mono (ih h.2) (by omega)

/-- Dropping a run of keys keeps the canonical form. -/
theorem Cells.wf_drop [DecidableEq α] {c : Cells α} {lo hi : Nat} (h : Cells.wf d c = true) :
    Cells.wf d (Cells.drop lo hi c) = true := Cells.wfFrom_filter _ h

/-- A read after a write: the value at the key written, what stood there elsewhere. -/
theorem Cells.get_set [DecidableEq α] {c : Cells α} {lo a b : Nat} {v : α} (h : Cells.wfFrom d lo c = true) :
    Cells.get d (Cells.set d c a v) b = if b = a then v else Cells.get d c b := by
  induction c generalizing lo with
  | nil => by_cases hv : v = d <;> by_cases hb : b = a <;> simp [Cells.set, Cells.get, hv, hb]
  | cons e c ih =>
    obtain ⟨k, w⟩ := e
    simp only [Cells.wfFrom, Bool.and_eq_true, decide_eq_true_eq] at h
    obtain ⟨⟨h1, h2⟩, h3⟩ := h
    have below : ∀ x, x < k + 1 → Cells.get d c x = d := fun x hx => Cells.get_below h3 hx
    by_cases hak : a < k
    · by_cases hv : v = d
      · by_cases hb : b = a
        · subst hb; simp [Cells.set, hak, hv, Cells.get, Nat.ne_of_lt hak]
        · simp [Cells.set, hak, hv, hb]
      · by_cases hb : b = a
        · subst hb; simp [Cells.set, hak, hv, Cells.get]
        · simp only [Cells.set, hak, hv, if_true, if_false, Cells.get, hb]
          by_cases hba : b < a
          · rw [if_pos hba, if_neg (by omega), if_pos (by omega)]
          · rw [if_neg hba]
    · by_cases hae : a = k
      · subst hae
        by_cases hv : v = d
        · simp only [Cells.set, Nat.lt_irrefl, if_false, if_true, hv, Cells.get]
          by_cases hb : b = a
          · subst hb; simp [below b (by omega)]
          · by_cases hba : b < a
            · simp [hb, hba, below b (by omega)]
            · simp [hb, hba]
        · by_cases hb : b = a
          · subst hb; simp [Cells.set, hv, Cells.get]
          · simp [Cells.set, hv, Cells.get, hb]
      · simp only [Cells.set, hak, hae, if_false, Cells.get]
        by_cases hb : b = k
        · subst hb; simp [Ne.symm hae]
        · by_cases hbk : b < k
          · rw [if_neg hb, if_pos hbk, if_neg (by omega)]
            simp [hb, hbk]
          · simp [hb, hbk, ih h3]

/-- A read after writing a run of values. -/
theorem Cells.get_setMany [DecidableEq α] {c : Cells α} {a b : Nat} {vs : List α} (h : Cells.wf d c = true) :
    Cells.get d (Cells.setMany d c a vs) b =
      if a ≤ b ∧ b < a + vs.length then vs.getD (b - a) d else Cells.get d c b := by
  induction vs generalizing c a with
  | nil => simp [Cells.setMany] <;> omega
  | cons v vs ih =>
    simp only [Cells.setMany]
    rw [ih (Cells.wf_set h), Cells.get_set h]
    by_cases hb : b = a
    · subst hb; simp <;> omega
    · by_cases hr : a + 1 ≤ b ∧ b < a + 1 + vs.length
      · rw [if_pos hr, if_pos (by simp; omega)]
        obtain ⟨k, rfl⟩ : ∃ k, b = a + 1 + k := ⟨b - (a + 1), by omega⟩
        have e1 : a + 1 + k - a = k + 1 := by omega
        have e2 : a + 1 + k - (a + 1) = k := by omega
        rw [e1, e2]; simp
      · rw [if_neg hr, if_neg hb, if_neg (by simp; omega)]

/-- A run of keys not dropped reads as before; a dropped one as the default. -/
theorem Cells.get_drop [DecidableEq α] {c : Cells α} {lo hi b n : Nat} (h : Cells.wfFrom d n c = true) :
    Cells.get d (Cells.drop lo hi c) b = if lo ≤ b ∧ b < hi then d else Cells.get d c b := by
  induction c generalizing n with
  | nil => simp [Cells.drop, Cells.get]
  | cons e c ih =>
    obtain ⟨k, w⟩ := e
    simp only [Cells.wfFrom, Bool.and_eq_true, decide_eq_true_eq] at h
    have ih := ih h.2
    have below : ∀ x, x < k + 1 → Cells.get d c x = d := fun x hx => Cells.get_below h.2 hx
    have lowd : ∀ x, x < k + 1 → Cells.get d (Cells.drop lo hi c) x = d :=
      fun x hx => Cells.get_below (Cells.wfFrom_filter _ h.2) hx
    unfold Cells.drop at ih lowd ⊢
    by_cases hp : k < lo ∨ hi ≤ k
    · rw [List.filter_cons_of_pos (by simpa using hp)]
      simp only [Cells.get]
      by_cases hb : b = k
      · subst hb; simp <;> omega
      · by_cases hbk : b < k
        · simp [hb, hbk]
        · simp [hb, hbk, ih]
    · rw [List.filter_cons_of_neg (by simpa using hp)]
      simp only [Cells.get]
      by_cases hb : b = k
      · subst hb
        rw [lowd b (by omega)]
        simp; omega
      · by_cases hbk : b < k
        · rw [lowd b (by omega)]; simp [hb, hbk]
        · simp [hb, hbk, ih]

@[simp] theorem Cells.getMany_length (c : Cells α) (a n : Nat) : (Cells.getMany d c a n).length = n := by
  induction n generalizing a with
  | zero => rfl
  | succ n ih => simp [Cells.getMany, ih]

end Sys2Proof.Machine
end

