-- ==== Sys2Proof/Laws/State.lean ====
section
/-! SUPPORT. The small lemmas of the state's updates and of lane masks: what each leaves in every field. -/

namespace Sys2Proof.Machine

/-! ## The first element that passes a test -/

theorem modifyFirst_map {α β : Type} (g : α → β) (p : α → Bool) (f : α → α) (h : ∀ a, g (f a) = g a) (l : List α) :
    (modifyFirst p f l).map g = l.map g := by
  induction l with
  | nil => rfl
  | cons a l ih => by_cases hp : p a <;> simp [modifyFirst, hp, h, ih]

theorem modifyFirst_twice {α : Type} (p : α → Bool) (f g : α → α) (h : ∀ a, p a = true → p (f a) = true)
    (l : List α) : modifyFirst p g (modifyFirst p f l) = modifyFirst p (fun a => g (f a)) l := by
  induction l with
  | nil => rfl
  | cons a l ih => by_cases hp : p a = true <;> simp [modifyFirst, hp, h, ih]

theorem modifyFirst_id {α : Type} (p : α → Bool) (l : List α) : modifyFirst p (fun a => a) l = l := by
  induction l with
  | nil => rfl
  | cons a l ih => by_cases hp : p a = true <;> simp [modifyFirst, hp, ih]

theorem find?_modifyFirst {α : Type} (p : α → Bool) (f : α → α) (h : ∀ a, p a = true → p (f a) = true) (l : List α) :
    (modifyFirst p f l).find? p = (l.find? p).map f := by
  induction l with
  | nil => rfl
  | cons a l ih => by_cases hp : p a = true <;> simp [modifyFirst, hp, h, ih]

/-- The function matters on the first element that passes alone. -/
theorem modifyFirst_congr {α : Type} (p : α → Bool) (f g : α → α) {l : List α} {a : α} (ha : l.find? p = some a)
    (h : f a = g a) : modifyFirst p f l = modifyFirst p g l := by
  induction l with
  | nil => rfl
  | cons b l ih =>
    by_cases hp : p b = true
    · simp [hp] at ha; subst ha; simp [modifyFirst, hp, h]
    · simp [hp] at ha; simp [modifyFirst, hp, ih ha]

@[simp] theorem modifyFirst_length {α : Type} (p : α → Bool) (f : α → α) (l : List α) :
    (modifyFirst p f l).length = l.length := by
  induction l with
  | nil => rfl
  | cons a l ih => by_cases hp : p a = true <;> simp [modifyFirst, hp, ih]

/-! ## Lanes -/

theorem laneBit_getLsbD (i l : Nat) (hi : i < 32) (hl : l < 32) : (laneBit i).getLsbD l = decide (l = i) := by
  rw [laneBit, BitVec.getLsbD_shiftLeft]
  by_cases h : l < i
  · simp [h]; omega
  · by_cases he : l = i
    · subst he; simp [hl]
    · simp [hl, h, he]; omega

theorem foldl_or_lane (p : Nat → Bool) (ls : List Nat) (m : W32) (l : Nat) (hl : l < 32) (h : ∀ i ∈ ls, i < 32) :
    (ls.foldl (fun m i => if p i then m ||| (1#32 <<< i) else m) m).getLsbD l = (m.getLsbD l || (decide (l ∈ ls) && p l)) := by
  induction ls generalizing m with
  | nil => simp
  | cons i ls ih =>
    rw [List.foldl_cons, ih _ fun j hj => h j (List.mem_cons_of_mem _ hj)]
    have hb := laneBit_getLsbD i l (h i List.mem_cons_self) hl
    unfold laneBit at hb
    by_cases hpi : p i = true
    · rw [if_pos hpi, BitVec.getLsbD_or, hb]
      by_cases he : l = i
      · subst he; simp [hpi]
      · simp [he]
    · rw [if_neg hpi]
      by_cases he : l = i
      · subst he; simp [hpi]
      · simp [he]

/-- A lane of a mask given by a test. -/
theorem maskOf_getLsbD (p : Nat → Bool) (l : Nat) (hl : l < 32) : (maskOf p).getLsbD l = p l := by
  unfold maskOf
  rw [foldl_or_lane p (List.range 32) 0#32 l hl (by simp)]
  simp [hl]

theorem exists_lane {m : W32} (h : m ≠ 0) : ∃ l, l < 32 ∧ m.getLsbD l = true := by
  by_cases hx : ∃ l, l < 32 ∧ m.getLsbD l = true
  · exact hx
  · refine absurd (BitVec.eq_of_getLsbD_eq fun l hl => ?_) h
    simp only [BitVec.ofNat_eq_ofNat, BitVec.getLsbD_zero]
    cases hm : m.getLsbD l with
    | false => rfl
    | true => exact absurd ⟨l, hl, hm⟩ hx

theorem maskOf_ne_zero {p : Nat → Bool} {l : Nat} (hl : l < 32) (h : p l = true) : maskOf p ≠ 0 := by
  intro hz
  have := maskOf_getLsbD p l hl
  rw [hz, h] at this
  simp at this

theorem mem_lanesOf {m : W32} {l : Nat} : l ∈ lanesOf m ↔ l < 32 ∧ m.getLsbD l = true := by
  simp [lanesOf, List.mem_filter]

/-- The lowest lane of a mask with lanes is one of them. -/
theorem lowLane_mem {m : W32} (h : m ≠ 0) : lowLane m < 32 ∧ m.getLsbD (lowLane m) = true := by
  obtain ⟨l, hl, hm⟩ := exists_lane h
  have hmem : l ∈ lanesOf m := mem_lanesOf.mpr ⟨hl, hm⟩
  unfold lowLane
  cases hls : lanesOf m with
  | nil => rw [hls] at hmem; cases hmem
  | cons a as =>
    have : a ∈ lanesOf m := by rw [hls]; exact List.mem_cons_self
    simpa using mem_lanesOf.mp this

/-! ## Threads of a wave -/

theorem Wave.th_eq (w : Wave) {l : Nat} (hl : l < 32) : w.th l = w.threads[l] := by
  simp [Wave.th, hl]

theorem Wave.th_out (w : Wave) {l : Nat} (hl : ¬ l < 32) : w.th l = default := by
  simp [Wave.th, hl]

theorem Wave.updTh_th (w : Wave) (m : W32) (f : Nat → Thread → Thread) (l : Nat) :
    (w.updTh m f).th l = if m.getLsbD l = true ∧ l < 32 then f l (w.th l) else w.th l := by
  by_cases hl : l < 32
  · rw [Wave.th_eq _ hl, Wave.th_eq _ hl]
    simp only [Wave.updTh, Vector.getElem_mapIdx]
    by_cases hm : m.getLsbD l = true <;> simp [hm, hl]
  · rw [Wave.th_out _ hl, Wave.th_out _ hl, if_neg (by simp [hl])]

@[simp] theorem Wave.updTh_core (w : Wave) (m : W32) (f : Nat → Thread → Thread) : (w.updTh m f).core = w.core := rfl
@[simp] theorem Wave.updTh_uid (w : Wave) (m : W32) (f : Nat → Thread → Thread) : (w.updTh m f).uid = w.uid := rfl
@[simp] theorem Wave.updTh_pend (w : Wave) (m : W32) (f : Nat → Thread → Thread) : (w.updTh m f).pend = w.pend := rfl
@[simp] theorem Wave.updTh_joins (w : Wave) (m : W32) (f : Nat → Thread → Thread) : (w.updTh m f).joins = w.joins := rfl
@[simp] theorem Wave.updTh_handler (w : Wave) (m : W32) (f : Nat → Thread → Thread) : (w.updTh m f).handler = w.handler := rfl

/-! ## Changing one of the parts of the device -/

theorem State.waveOf_updWave (s : State) (uid : Nat) (f : Wave → Wave) (h : ∀ w, (f w).uid = w.uid) :
    (s.updWave uid f).waveOf uid = (s.waveOf uid).map f :=
  find?_modifyFirst _ f (fun a ha => by simpa [h a] using ha) _

theorem State.updWave_twice (s : State) (uid : Nat) (f g : Wave → Wave) (h : ∀ w, (f w).uid = w.uid) :
    (s.updWave uid f).updWave uid g = s.updWave uid fun w => g (f w) := by
  simp only [State.updWave]
  rw [modifyFirst_twice _ f g fun a ha => by simpa [h a] using ha]

section
variable (s : State) (uid bid gid id p cl sl a n : Nat) (fw : Wave → Wave) (fb : Block → Block) (fg : Grid → Grid)
  (fa : Access → Access) (fp : Part → Part) (fc : Cluster → Cluster) (fs : Slice → Slice) (fas : AsidSt → AsidSt)
  (fq : Port → Port) (e : Ev)

@[simp] theorem State.updWave_booted : (s.updWave uid fw).booted = s.booted := rfl
@[simp] theorem State.updWave_now : (s.updWave uid fw).now = s.now := rfl
@[simp] theorem State.updWave_gcVal : (s.updWave uid fw).gcVal = s.gcVal := rfl
@[simp] theorem State.updWave_gcAt : (s.updWave uid fw).gcAt = s.gcAt := rfl
@[simp] theorem State.updWave_gcRate : (s.updWave uid fw).gcRate = s.gcRate := rfl
@[simp] theorem State.updWave_cur : (s.updWave uid fw).cur = s.cur := rfl
@[simp] theorem State.updWave_curPart : (s.updWave uid fw).curPart = s.curPart := rfl
@[simp] theorem State.updWave_ended : (s.updWave uid fw).ended = s.ended := rfl
@[simp] theorem State.updWave_blocks : (s.updWave uid fw).blocks = s.blocks := rfl
@[simp] theorem State.updWave_grids : (s.updWave uid fw).grids = s.grids := rfl
@[simp] theorem State.updWave_accs : (s.updWave uid fw).accs = s.accs := rfl
@[simp] theorem State.updWave_mmas : (s.updWave uid fw).mmas = s.mmas := rfl
@[simp] theorem State.updWave_moves : (s.updWave uid fw).moves = s.moves := rfl
@[simp] theorem State.updWave_cards : (s.updWave uid fw).cards = s.cards := rfl
@[simp] theorem State.updWave_held : (s.updWave uid fw).held = s.held := rfl
@[simp] theorem State.updWave_nextUid : (s.updWave uid fw).nextUid = s.nextUid := rfl
@[simp] theorem State.updWave_completed : (s.updWave uid fw).completed = s.completed := rfl
@[simp] theorem State.updWave_lastQueue : (s.updWave uid fw).lastQueue = s.lastQueue := rfl
@[simp] theorem State.updWave_slices : (s.updWave uid fw).slices = s.slices := rfl
@[simp] theorem State.updWave_clusters : (s.updWave uid fw).clusters = s.clusters := rfl
@[simp] theorem State.updWave_tiles : (s.updWave uid fw).tiles = s.tiles := rfl
@[simp] theorem State.updWave_mem : (s.updWave uid fw).mem = s.mem := rfl
@[simp] theorem State.updWave_asids : (s.updWave uid fw).asids = s.asids := rfl
@[simp] theorem State.updWave_parts : (s.updWave uid fw).parts = s.parts := rfl
@[simp] theorem State.updWave_arb : (s.updWave uid fw).arb = s.arb := rfl
@[simp] theorem State.updWave_fabric : (s.updWave uid fw).fabric = s.fabric := rfl
@[simp] theorem State.updWave_flash : (s.updWave uid fw).flash = s.flash := rfl
@[simp] theorem State.updWave_host : (s.updWave uid fw).host = s.host := rfl
@[simp] theorem State.updWave_resuming : (s.updWave uid fw).resuming = s.resuming := rfl
@[simp] theorem State.updWave_agenda : (s.updWave uid fw).agenda = s.agenda := rfl
@[simp] theorem State.updWave_sensors : (s.updWave uid fw).sensors = s.sensors := rfl
@[simp] theorem State.updWave_free : (s.updWave uid fw).free = s.free := rfl
@[simp] theorem State.updAny_booted : (s.updAny uid fw).booted = s.booted := rfl
@[simp] theorem State.updAny_now : (s.updAny uid fw).now = s.now := rfl
@[simp] theorem State.updAny_gcVal : (s.updAny uid fw).gcVal = s.gcVal := rfl
@[simp] theorem State.updAny_gcAt : (s.updAny uid fw).gcAt = s.gcAt := rfl
@[simp] theorem State.updAny_gcRate : (s.updAny uid fw).gcRate = s.gcRate := rfl
@[simp] theorem State.updAny_cur : (s.updAny uid fw).cur = s.cur := rfl
@[simp] theorem State.updAny_curPart : (s.updAny uid fw).curPart = s.curPart := rfl
@[simp] theorem State.updAny_blocks : (s.updAny uid fw).blocks = s.blocks := rfl
@[simp] theorem State.updAny_grids : (s.updAny uid fw).grids = s.grids := rfl
@[simp] theorem State.updAny_accs : (s.updAny uid fw).accs = s.accs := rfl
@[simp] theorem State.updAny_mmas : (s.updAny uid fw).mmas = s.mmas := rfl
@[simp] theorem State.updAny_moves : (s.updAny uid fw).moves = s.moves := rfl
@[simp] theorem State.updAny_cards : (s.updAny uid fw).cards = s.cards := rfl
@[simp] theorem State.updAny_held : (s.updAny uid fw).held = s.held := rfl
@[simp] theorem State.updAny_nextUid : (s.updAny uid fw).nextUid = s.nextUid := rfl
@[simp] theorem State.updAny_completed : (s.updAny uid fw).completed = s.completed := rfl
@[simp] theorem State.updAny_lastQueue : (s.updAny uid fw).lastQueue = s.lastQueue := rfl
@[simp] theorem State.updAny_slices : (s.updAny uid fw).slices = s.slices := rfl
@[simp] theorem State.updAny_clusters : (s.updAny uid fw).clusters = s.clusters := rfl
@[simp] theorem State.updAny_tiles : (s.updAny uid fw).tiles = s.tiles := rfl
@[simp] theorem State.updAny_mem : (s.updAny uid fw).mem = s.mem := rfl
@[simp] theorem State.updAny_asids : (s.updAny uid fw).asids = s.asids := rfl
@[simp] theorem State.updAny_parts : (s.updAny uid fw).parts = s.parts := rfl
@[simp] theorem State.updAny_arb : (s.updAny uid fw).arb = s.arb := rfl
@[simp] theorem State.updAny_fabric : (s.updAny uid fw).fabric = s.fabric := rfl
@[simp] theorem State.updAny_flash : (s.updAny uid fw).flash = s.flash := rfl
@[simp] theorem State.updAny_host : (s.updAny uid fw).host = s.host := rfl
@[simp] theorem State.updAny_resuming : (s.updAny uid fw).resuming = s.resuming := rfl
@[simp] theorem State.updAny_agenda : (s.updAny uid fw).agenda = s.agenda := rfl
@[simp] theorem State.updAny_sensors : (s.updAny uid fw).sensors = s.sensors := rfl
@[simp] theorem State.updAny_free : (s.updAny uid fw).free = s.free := rfl
@[simp] theorem State.updBlock_booted : (s.updBlock bid fb).booted = s.booted := rfl
@[simp] theorem State.updBlock_now : (s.updBlock bid fb).now = s.now := rfl
@[simp] theorem State.updBlock_gcVal : (s.updBlock bid fb).gcVal = s.gcVal := rfl
@[simp] theorem State.updBlock_gcAt : (s.updBlock bid fb).gcAt = s.gcAt := rfl
@[simp] theorem State.updBlock_gcRate : (s.updBlock bid fb).gcRate = s.gcRate := rfl
@[simp] theorem State.updBlock_cur : (s.updBlock bid fb).cur = s.cur := rfl
@[simp] theorem State.updBlock_curPart : (s.updBlock bid fb).curPart = s.curPart := rfl
@[simp] theorem State.updBlock_waves : (s.updBlock bid fb).waves = s.waves := rfl
@[simp] theorem State.updBlock_ended : (s.updBlock bid fb).ended = s.ended := rfl
@[simp] theorem State.updBlock_grids : (s.updBlock bid fb).grids = s.grids := rfl
@[simp] theorem State.updBlock_accs : (s.updBlock bid fb).accs = s.accs := rfl
@[simp] theorem State.updBlock_mmas : (s.updBlock bid fb).mmas = s.mmas := rfl
@[simp] theorem State.updBlock_moves : (s.updBlock bid fb).moves = s.moves := rfl
@[simp] theorem State.updBlock_cards : (s.updBlock bid fb).cards = s.cards := rfl
@[simp] theorem State.updBlock_held : (s.updBlock bid fb).held = s.held := rfl
@[simp] theorem State.updBlock_nextUid : (s.updBlock bid fb).nextUid = s.nextUid := rfl
@[simp] theorem State.updBlock_completed : (s.updBlock bid fb).completed = s.completed := rfl
@[simp] theorem State.updBlock_lastQueue : (s.updBlock bid fb).lastQueue = s.lastQueue := rfl
@[simp] theorem State.updBlock_slices : (s.updBlock bid fb).slices = s.slices := rfl
@[simp] theorem State.updBlock_clusters : (s.updBlock bid fb).clusters = s.clusters := rfl
@[simp] theorem State.updBlock_tiles : (s.updBlock bid fb).tiles = s.tiles := rfl
@[simp] theorem State.updBlock_mem : (s.updBlock bid fb).mem = s.mem := rfl
@[simp] theorem State.updBlock_asids : (s.updBlock bid fb).asids = s.asids := rfl
@[simp] theorem State.updBlock_parts : (s.updBlock bid fb).parts = s.parts := rfl
@[simp] theorem State.updBlock_arb : (s.updBlock bid fb).arb = s.arb := rfl
@[simp] theorem State.updBlock_fabric : (s.updBlock bid fb).fabric = s.fabric := rfl
@[simp] theorem State.updBlock_flash : (s.updBlock bid fb).flash = s.flash := rfl
@[simp] theorem State.updBlock_host : (s.updBlock bid fb).host = s.host := rfl
@[simp] theorem State.updBlock_resuming : (s.updBlock bid fb).resuming = s.resuming := rfl
@[simp] theorem State.updBlock_agenda : (s.updBlock bid fb).agenda = s.agenda := rfl
@[simp] theorem State.updBlock_sensors : (s.updBlock bid fb).sensors = s.sensors := rfl
@[simp] theorem State.updBlock_free : (s.updBlock bid fb).free = s.free := rfl
@[simp] theorem State.updGrid_booted : (s.updGrid gid fg).booted = s.booted := rfl
@[simp] theorem State.updGrid_now : (s.updGrid gid fg).now = s.now := rfl
@[simp] theorem State.updGrid_gcVal : (s.updGrid gid fg).gcVal = s.gcVal := rfl
@[simp] theorem State.updGrid_gcAt : (s.updGrid gid fg).gcAt = s.gcAt := rfl
@[simp] theorem State.updGrid_gcRate : (s.updGrid gid fg).gcRate = s.gcRate := rfl
@[simp] theorem State.updGrid_cur : (s.updGrid gid fg).cur = s.cur := rfl
@[simp] theorem State.updGrid_curPart : (s.updGrid gid fg).curPart = s.curPart := rfl
@[simp] theorem State.updGrid_waves : (s.updGrid gid fg).waves = s.waves := rfl
@[simp] theorem State.updGrid_ended : (s.updGrid gid fg).ended = s.ended := rfl
@[simp] theorem State.updGrid_blocks : (s.updGrid gid fg).blocks = s.blocks := rfl
@[simp] theorem State.updGrid_accs : (s.updGrid gid fg).accs = s.accs := rfl
@[simp] theorem State.updGrid_mmas : (s.updGrid gid fg).mmas = s.mmas := rfl
@[simp] theorem State.updGrid_moves : (s.updGrid gid fg).moves = s.moves := rfl
@[simp] theorem State.updGrid_cards : (s.updGrid gid fg).cards = s.cards := rfl
@[simp] theorem State.updGrid_held : (s.updGrid gid fg).held = s.held := rfl
@[simp] theorem State.updGrid_nextUid : (s.updGrid gid fg).nextUid = s.nextUid := rfl
@[simp] theorem State.updGrid_completed : (s.updGrid gid fg).completed = s.completed := rfl
@[simp] theorem State.updGrid_lastQueue : (s.updGrid gid fg).lastQueue = s.lastQueue := rfl
@[simp] theorem State.updGrid_slices : (s.updGrid gid fg).slices = s.slices := rfl
@[simp] theorem State.updGrid_clusters : (s.updGrid gid fg).clusters = s.clusters := rfl
@[simp] theorem State.updGrid_tiles : (s.updGrid gid fg).tiles = s.tiles := rfl
@[simp] theorem State.updGrid_mem : (s.updGrid gid fg).mem = s.mem := rfl
@[simp] theorem State.updGrid_asids : (s.updGrid gid fg).asids = s.asids := rfl
@[simp] theorem State.updGrid_parts : (s.updGrid gid fg).parts = s.parts := rfl
@[simp] theorem State.updGrid_arb : (s.updGrid gid fg).arb = s.arb := rfl
@[simp] theorem State.updGrid_fabric : (s.updGrid gid fg).fabric = s.fabric := rfl
@[simp] theorem State.updGrid_flash : (s.updGrid gid fg).flash = s.flash := rfl
@[simp] theorem State.updGrid_host : (s.updGrid gid fg).host = s.host := rfl
@[simp] theorem State.updGrid_resuming : (s.updGrid gid fg).resuming = s.resuming := rfl
@[simp] theorem State.updGrid_agenda : (s.updGrid gid fg).agenda = s.agenda := rfl
@[simp] theorem State.updGrid_sensors : (s.updGrid gid fg).sensors = s.sensors := rfl
@[simp] theorem State.updGrid_free : (s.updGrid gid fg).free = s.free := rfl
@[simp] theorem State.updAcc_booted : (s.updAcc id fa).booted = s.booted := rfl
@[simp] theorem State.updAcc_now : (s.updAcc id fa).now = s.now := rfl
@[simp] theorem State.updAcc_gcVal : (s.updAcc id fa).gcVal = s.gcVal := rfl
@[simp] theorem State.updAcc_gcAt : (s.updAcc id fa).gcAt = s.gcAt := rfl
@[simp] theorem State.updAcc_gcRate : (s.updAcc id fa).gcRate = s.gcRate := rfl
@[simp] theorem State.updAcc_cur : (s.updAcc id fa).cur = s.cur := rfl
@[simp] theorem State.updAcc_curPart : (s.updAcc id fa).curPart = s.curPart := rfl
@[simp] theorem State.updAcc_waves : (s.updAcc id fa).waves = s.waves := rfl
@[simp] theorem State.updAcc_ended : (s.updAcc id fa).ended = s.ended := rfl
@[simp] theorem State.updAcc_blocks : (s.updAcc id fa).blocks = s.blocks := rfl
@[simp] theorem State.updAcc_grids : (s.updAcc id fa).grids = s.grids := rfl
@[simp] theorem State.updAcc_mmas : (s.updAcc id fa).mmas = s.mmas := rfl
@[simp] theorem State.updAcc_moves : (s.updAcc id fa).moves = s.moves := rfl
@[simp] theorem State.updAcc_cards : (s.updAcc id fa).cards = s.cards := rfl
@[simp] theorem State.updAcc_held : (s.updAcc id fa).held = s.held := rfl
@[simp] theorem State.updAcc_nextUid : (s.updAcc id fa).nextUid = s.nextUid := rfl
@[simp] theorem State.updAcc_completed : (s.updAcc id fa).completed = s.completed := rfl
@[simp] theorem State.updAcc_lastQueue : (s.updAcc id fa).lastQueue = s.lastQueue := rfl
@[simp] theorem State.updAcc_slices : (s.updAcc id fa).slices = s.slices := rfl
@[simp] theorem State.updAcc_clusters : (s.updAcc id fa).clusters = s.clusters := rfl
@[simp] theorem State.updAcc_tiles : (s.updAcc id fa).tiles = s.tiles := rfl
@[simp] theorem State.updAcc_mem : (s.updAcc id fa).mem = s.mem := rfl
@[simp] theorem State.updAcc_asids : (s.updAcc id fa).asids = s.asids := rfl
@[simp] theorem State.updAcc_parts : (s.updAcc id fa).parts = s.parts := rfl
@[simp] theorem State.updAcc_arb : (s.updAcc id fa).arb = s.arb := rfl
@[simp] theorem State.updAcc_fabric : (s.updAcc id fa).fabric = s.fabric := rfl
@[simp] theorem State.updAcc_flash : (s.updAcc id fa).flash = s.flash := rfl
@[simp] theorem State.updAcc_host : (s.updAcc id fa).host = s.host := rfl
@[simp] theorem State.updAcc_resuming : (s.updAcc id fa).resuming = s.resuming := rfl
@[simp] theorem State.updAcc_agenda : (s.updAcc id fa).agenda = s.agenda := rfl
@[simp] theorem State.updAcc_sensors : (s.updAcc id fa).sensors = s.sensors := rfl
@[simp] theorem State.updAcc_free : (s.updAcc id fa).free = s.free := rfl
@[simp] theorem State.updPart_booted : (s.updPart p fp).booted = s.booted := rfl
@[simp] theorem State.updPart_now : (s.updPart p fp).now = s.now := rfl
@[simp] theorem State.updPart_gcVal : (s.updPart p fp).gcVal = s.gcVal := rfl
@[simp] theorem State.updPart_gcAt : (s.updPart p fp).gcAt = s.gcAt := rfl
@[simp] theorem State.updPart_gcRate : (s.updPart p fp).gcRate = s.gcRate := rfl
@[simp] theorem State.updPart_cur : (s.updPart p fp).cur = s.cur := rfl
@[simp] theorem State.updPart_curPart : (s.updPart p fp).curPart = s.curPart := rfl
@[simp] theorem State.updPart_waves : (s.updPart p fp).waves = s.waves := rfl
@[simp] theorem State.updPart_ended : (s.updPart p fp).ended = s.ended := rfl
@[simp] theorem State.updPart_blocks : (s.updPart p fp).blocks = s.blocks := rfl
@[simp] theorem State.updPart_grids : (s.updPart p fp).grids = s.grids := rfl
@[simp] theorem State.updPart_accs : (s.updPart p fp).accs = s.accs := rfl
@[simp] theorem State.updPart_mmas : (s.updPart p fp).mmas = s.mmas := rfl
@[simp] theorem State.updPart_moves : (s.updPart p fp).moves = s.moves := rfl
@[simp] theorem State.updPart_cards : (s.updPart p fp).cards = s.cards := rfl
@[simp] theorem State.updPart_held : (s.updPart p fp).held = s.held := rfl
@[simp] theorem State.updPart_nextUid : (s.updPart p fp).nextUid = s.nextUid := rfl
@[simp] theorem State.updPart_completed : (s.updPart p fp).completed = s.completed := rfl
@[simp] theorem State.updPart_lastQueue : (s.updPart p fp).lastQueue = s.lastQueue := rfl
@[simp] theorem State.updPart_slices : (s.updPart p fp).slices = s.slices := rfl
@[simp] theorem State.updPart_clusters : (s.updPart p fp).clusters = s.clusters := rfl
@[simp] theorem State.updPart_tiles : (s.updPart p fp).tiles = s.tiles := rfl
@[simp] theorem State.updPart_mem : (s.updPart p fp).mem = s.mem := rfl
@[simp] theorem State.updPart_asids : (s.updPart p fp).asids = s.asids := rfl
@[simp] theorem State.updPart_arb : (s.updPart p fp).arb = s.arb := rfl
@[simp] theorem State.updPart_fabric : (s.updPart p fp).fabric = s.fabric := rfl
@[simp] theorem State.updPart_flash : (s.updPart p fp).flash = s.flash := rfl
@[simp] theorem State.updPart_host : (s.updPart p fp).host = s.host := rfl
@[simp] theorem State.updPart_resuming : (s.updPart p fp).resuming = s.resuming := rfl
@[simp] theorem State.updPart_agenda : (s.updPart p fp).agenda = s.agenda := rfl
@[simp] theorem State.updPart_sensors : (s.updPart p fp).sensors = s.sensors := rfl
@[simp] theorem State.updPart_free : (s.updPart p fp).free = s.free := rfl
@[simp] theorem State.updCluster_booted : (s.updCluster cl fc).booted = s.booted := rfl
@[simp] theorem State.updCluster_now : (s.updCluster cl fc).now = s.now := rfl
@[simp] theorem State.updCluster_gcVal : (s.updCluster cl fc).gcVal = s.gcVal := rfl
@[simp] theorem State.updCluster_gcAt : (s.updCluster cl fc).gcAt = s.gcAt := rfl
@[simp] theorem State.updCluster_gcRate : (s.updCluster cl fc).gcRate = s.gcRate := rfl
@[simp] theorem State.updCluster_cur : (s.updCluster cl fc).cur = s.cur := rfl
@[simp] theorem State.updCluster_curPart : (s.updCluster cl fc).curPart = s.curPart := rfl
@[simp] theorem State.updCluster_waves : (s.updCluster cl fc).waves = s.waves := rfl
@[simp] theorem State.updCluster_ended : (s.updCluster cl fc).ended = s.ended := rfl
@[simp] theorem State.updCluster_blocks : (s.updCluster cl fc).blocks = s.blocks := rfl
@[simp] theorem State.updCluster_grids : (s.updCluster cl fc).grids = s.grids := rfl
@[simp] theorem State.updCluster_accs : (s.updCluster cl fc).accs = s.accs := rfl
@[simp] theorem State.updCluster_mmas : (s.updCluster cl fc).mmas = s.mmas := rfl
@[simp] theorem State.updCluster_moves : (s.updCluster cl fc).moves = s.moves := rfl
@[simp] theorem State.updCluster_cards : (s.updCluster cl fc).cards = s.cards := rfl
@[simp] theorem State.updCluster_held : (s.updCluster cl fc).held = s.held := rfl
@[simp] theorem State.updCluster_nextUid : (s.updCluster cl fc).nextUid = s.nextUid := rfl
@[simp] theorem State.updCluster_completed : (s.updCluster cl fc).completed = s.completed := rfl
@[simp] theorem State.updCluster_lastQueue : (s.updCluster cl fc).lastQueue = s.lastQueue := rfl
@[simp] theorem State.updCluster_slices : (s.updCluster cl fc).slices = s.slices := rfl
@[simp] theorem State.updCluster_tiles : (s.updCluster cl fc).tiles = s.tiles := rfl
@[simp] theorem State.updCluster_mem : (s.updCluster cl fc).mem = s.mem := rfl
@[simp] theorem State.updCluster_asids : (s.updCluster cl fc).asids = s.asids := rfl
@[simp] theorem State.updCluster_parts : (s.updCluster cl fc).parts = s.parts := rfl
@[simp] theorem State.updCluster_arb : (s.updCluster cl fc).arb = s.arb := rfl
@[simp] theorem State.updCluster_fabric : (s.updCluster cl fc).fabric = s.fabric := rfl
@[simp] theorem State.updCluster_flash : (s.updCluster cl fc).flash = s.flash := rfl
@[simp] theorem State.updCluster_host : (s.updCluster cl fc).host = s.host := rfl
@[simp] theorem State.updCluster_resuming : (s.updCluster cl fc).resuming = s.resuming := rfl
@[simp] theorem State.updCluster_agenda : (s.updCluster cl fc).agenda = s.agenda := rfl
@[simp] theorem State.updCluster_sensors : (s.updCluster cl fc).sensors = s.sensors := rfl
@[simp] theorem State.updCluster_free : (s.updCluster cl fc).free = s.free := rfl
@[simp] theorem State.updCluster_length : (s.updCluster cl fc).clusters.length = s.clusters.length := by
  simp [State.updCluster]
@[simp] theorem State.updSlice_booted : (s.updSlice cl sl fs).booted = s.booted := rfl
@[simp] theorem State.updSlice_now : (s.updSlice cl sl fs).now = s.now := rfl
@[simp] theorem State.updSlice_gcVal : (s.updSlice cl sl fs).gcVal = s.gcVal := rfl
@[simp] theorem State.updSlice_gcAt : (s.updSlice cl sl fs).gcAt = s.gcAt := rfl
@[simp] theorem State.updSlice_gcRate : (s.updSlice cl sl fs).gcRate = s.gcRate := rfl
@[simp] theorem State.updSlice_cur : (s.updSlice cl sl fs).cur = s.cur := rfl
@[simp] theorem State.updSlice_curPart : (s.updSlice cl sl fs).curPart = s.curPart := rfl
@[simp] theorem State.updSlice_waves : (s.updSlice cl sl fs).waves = s.waves := rfl
@[simp] theorem State.updSlice_ended : (s.updSlice cl sl fs).ended = s.ended := rfl
@[simp] theorem State.updSlice_blocks : (s.updSlice cl sl fs).blocks = s.blocks := rfl
@[simp] theorem State.updSlice_grids : (s.updSlice cl sl fs).grids = s.grids := rfl
@[simp] theorem State.updSlice_accs : (s.updSlice cl sl fs).accs = s.accs := rfl
@[simp] theorem State.updSlice_mmas : (s.updSlice cl sl fs).mmas = s.mmas := rfl
@[simp] theorem State.updSlice_moves : (s.updSlice cl sl fs).moves = s.moves := rfl
@[simp] theorem State.updSlice_cards : (s.updSlice cl sl fs).cards = s.cards := rfl
@[simp] theorem State.updSlice_held : (s.updSlice cl sl fs).held = s.held := rfl
@[simp] theorem State.updSlice_nextUid : (s.updSlice cl sl fs).nextUid = s.nextUid := rfl
@[simp] theorem State.updSlice_completed : (s.updSlice cl sl fs).completed = s.completed := rfl
@[simp] theorem State.updSlice_lastQueue : (s.updSlice cl sl fs).lastQueue = s.lastQueue := rfl
@[simp] theorem State.updSlice_clusters : (s.updSlice cl sl fs).clusters = s.clusters := rfl
@[simp] theorem State.updSlice_tiles : (s.updSlice cl sl fs).tiles = s.tiles := rfl
@[simp] theorem State.updSlice_mem : (s.updSlice cl sl fs).mem = s.mem := rfl
@[simp] theorem State.updSlice_asids : (s.updSlice cl sl fs).asids = s.asids := rfl
@[simp] theorem State.updSlice_parts : (s.updSlice cl sl fs).parts = s.parts := rfl
@[simp] theorem State.updSlice_arb : (s.updSlice cl sl fs).arb = s.arb := rfl
@[simp] theorem State.updSlice_fabric : (s.updSlice cl sl fs).fabric = s.fabric := rfl
@[simp] theorem State.updSlice_flash : (s.updSlice cl sl fs).flash = s.flash := rfl
@[simp] theorem State.updSlice_host : (s.updSlice cl sl fs).host = s.host := rfl
@[simp] theorem State.updSlice_resuming : (s.updSlice cl sl fs).resuming = s.resuming := rfl
@[simp] theorem State.updSlice_agenda : (s.updSlice cl sl fs).agenda = s.agenda := rfl
@[simp] theorem State.updSlice_sensors : (s.updSlice cl sl fs).sensors = s.sensors := rfl
@[simp] theorem State.updSlice_free : (s.updSlice cl sl fs).free = s.free := rfl
@[simp] theorem State.updSlice_length : (s.updSlice cl sl fs).slices.length = s.slices.length := by
  simp [State.updSlice]
@[simp] theorem State.updAsid_booted : (s.updAsid a fas).booted = s.booted := rfl
@[simp] theorem State.updAsid_now : (s.updAsid a fas).now = s.now := rfl
@[simp] theorem State.updAsid_gcVal : (s.updAsid a fas).gcVal = s.gcVal := rfl
@[simp] theorem State.updAsid_gcAt : (s.updAsid a fas).gcAt = s.gcAt := rfl
@[simp] theorem State.updAsid_gcRate : (s.updAsid a fas).gcRate = s.gcRate := rfl
@[simp] theorem State.updAsid_cur : (s.updAsid a fas).cur = s.cur := rfl
@[simp] theorem State.updAsid_curPart : (s.updAsid a fas).curPart = s.curPart := rfl
@[simp] theorem State.updAsid_waves : (s.updAsid a fas).waves = s.waves := rfl
@[simp] theorem State.updAsid_ended : (s.updAsid a fas).ended = s.ended := rfl
@[simp] theorem State.updAsid_blocks : (s.updAsid a fas).blocks = s.blocks := rfl
@[simp] theorem State.updAsid_grids : (s.updAsid a fas).grids = s.grids := rfl
@[simp] theorem State.updAsid_accs : (s.updAsid a fas).accs = s.accs := rfl
@[simp] theorem State.updAsid_mmas : (s.updAsid a fas).mmas = s.mmas := rfl
@[simp] theorem State.updAsid_moves : (s.updAsid a fas).moves = s.moves := rfl
@[simp] theorem State.updAsid_cards : (s.updAsid a fas).cards = s.cards := rfl
@[simp] theorem State.updAsid_held : (s.updAsid a fas).held = s.held := rfl
@[simp] theorem State.updAsid_nextUid : (s.updAsid a fas).nextUid = s.nextUid := rfl
@[simp] theorem State.updAsid_completed : (s.updAsid a fas).completed = s.completed := rfl
@[simp] theorem State.updAsid_lastQueue : (s.updAsid a fas).lastQueue = s.lastQueue := rfl
@[simp] theorem State.updAsid_slices : (s.updAsid a fas).slices = s.slices := rfl
@[simp] theorem State.updAsid_clusters : (s.updAsid a fas).clusters = s.clusters := rfl
@[simp] theorem State.updAsid_tiles : (s.updAsid a fas).tiles = s.tiles := rfl
@[simp] theorem State.updAsid_mem : (s.updAsid a fas).mem = s.mem := rfl
@[simp] theorem State.updAsid_parts : (s.updAsid a fas).parts = s.parts := rfl
@[simp] theorem State.updAsid_arb : (s.updAsid a fas).arb = s.arb := rfl
@[simp] theorem State.updAsid_fabric : (s.updAsid a fas).fabric = s.fabric := rfl
@[simp] theorem State.updAsid_flash : (s.updAsid a fas).flash = s.flash := rfl
@[simp] theorem State.updAsid_host : (s.updAsid a fas).host = s.host := rfl
@[simp] theorem State.updAsid_resuming : (s.updAsid a fas).resuming = s.resuming := rfl
@[simp] theorem State.updAsid_agenda : (s.updAsid a fas).agenda = s.agenda := rfl
@[simp] theorem State.updAsid_sensors : (s.updAsid a fas).sensors = s.sensors := rfl
@[simp] theorem State.updAsid_free : (s.updAsid a fas).free = s.free := rfl
@[simp] theorem State.updPort_booted : (s.updPort n fq).booted = s.booted := rfl
@[simp] theorem State.updPort_now : (s.updPort n fq).now = s.now := rfl
@[simp] theorem State.updPort_gcVal : (s.updPort n fq).gcVal = s.gcVal := rfl
@[simp] theorem State.updPort_gcAt : (s.updPort n fq).gcAt = s.gcAt := rfl
@[simp] theorem State.updPort_gcRate : (s.updPort n fq).gcRate = s.gcRate := rfl
@[simp] theorem State.updPort_cur : (s.updPort n fq).cur = s.cur := rfl
@[simp] theorem State.updPort_curPart : (s.updPort n fq).curPart = s.curPart := rfl
@[simp] theorem State.updPort_waves : (s.updPort n fq).waves = s.waves := rfl
@[simp] theorem State.updPort_ended : (s.updPort n fq).ended = s.ended := rfl
@[simp] theorem State.updPort_blocks : (s.updPort n fq).blocks = s.blocks := rfl
@[simp] theorem State.updPort_grids : (s.updPort n fq).grids = s.grids := rfl
@[simp] theorem State.updPort_accs : (s.updPort n fq).accs = s.accs := rfl
@[simp] theorem State.updPort_mmas : (s.updPort n fq).mmas = s.mmas := rfl
@[simp] theorem State.updPort_moves : (s.updPort n fq).moves = s.moves := rfl
@[simp] theorem State.updPort_cards : (s.updPort n fq).cards = s.cards := rfl
@[simp] theorem State.updPort_held : (s.updPort n fq).held = s.held := rfl
@[simp] theorem State.updPort_nextUid : (s.updPort n fq).nextUid = s.nextUid := rfl
@[simp] theorem State.updPort_completed : (s.updPort n fq).completed = s.completed := rfl
@[simp] theorem State.updPort_lastQueue : (s.updPort n fq).lastQueue = s.lastQueue := rfl
@[simp] theorem State.updPort_slices : (s.updPort n fq).slices = s.slices := rfl
@[simp] theorem State.updPort_clusters : (s.updPort n fq).clusters = s.clusters := rfl
@[simp] theorem State.updPort_tiles : (s.updPort n fq).tiles = s.tiles := rfl
@[simp] theorem State.updPort_mem : (s.updPort n fq).mem = s.mem := rfl
@[simp] theorem State.updPort_asids : (s.updPort n fq).asids = s.asids := rfl
@[simp] theorem State.updPort_parts : (s.updPort n fq).parts = s.parts := rfl
@[simp] theorem State.updPort_arb : (s.updPort n fq).arb = s.arb := rfl
@[simp] theorem State.updPort_flash : (s.updPort n fq).flash = s.flash := rfl
@[simp] theorem State.updPort_host : (s.updPort n fq).host = s.host := rfl
@[simp] theorem State.updPort_resuming : (s.updPort n fq).resuming = s.resuming := rfl
@[simp] theorem State.updPort_agenda : (s.updPort n fq).agenda = s.agenda := rfl
@[simp] theorem State.updPort_sensors : (s.updPort n fq).sensors = s.sensors := rfl
@[simp] theorem State.updPort_free : (s.updPort n fq).free = s.free := rfl
@[simp] theorem State.report_booted : (s.report e).booted = s.booted := rfl
@[simp] theorem State.report_now : (s.report e).now = s.now := rfl
@[simp] theorem State.report_gcVal : (s.report e).gcVal = s.gcVal := rfl
@[simp] theorem State.report_gcAt : (s.report e).gcAt = s.gcAt := rfl
@[simp] theorem State.report_gcRate : (s.report e).gcRate = s.gcRate := rfl
@[simp] theorem State.report_cur : (s.report e).cur = s.cur := rfl
@[simp] theorem State.report_curPart : (s.report e).curPart = s.curPart := rfl
@[simp] theorem State.report_waves : (s.report e).waves = s.waves := rfl
@[simp] theorem State.report_ended : (s.report e).ended = s.ended := rfl
@[simp] theorem State.report_blocks : (s.report e).blocks = s.blocks := rfl
@[simp] theorem State.report_grids : (s.report e).grids = s.grids := rfl
@[simp] theorem State.report_accs : (s.report e).accs = s.accs := rfl
@[simp] theorem State.report_mmas : (s.report e).mmas = s.mmas := rfl
@[simp] theorem State.report_moves : (s.report e).moves = s.moves := rfl
@[simp] theorem State.report_cards : (s.report e).cards = s.cards := rfl
@[simp] theorem State.report_held : (s.report e).held = s.held := rfl
@[simp] theorem State.report_nextUid : (s.report e).nextUid = s.nextUid := rfl
@[simp] theorem State.report_completed : (s.report e).completed = s.completed := rfl
@[simp] theorem State.report_lastQueue : (s.report e).lastQueue = s.lastQueue := rfl
@[simp] theorem State.report_slices : (s.report e).slices = s.slices := rfl
@[simp] theorem State.report_clusters : (s.report e).clusters = s.clusters := rfl
@[simp] theorem State.report_tiles : (s.report e).tiles = s.tiles := rfl
@[simp] theorem State.report_mem : (s.report e).mem = s.mem := rfl
@[simp] theorem State.report_asids : (s.report e).asids = s.asids := rfl
@[simp] theorem State.report_parts : (s.report e).parts = s.parts := rfl
@[simp] theorem State.report_fabric : (s.report e).fabric = s.fabric := rfl
@[simp] theorem State.report_flash : (s.report e).flash = s.flash := rfl
@[simp] theorem State.report_host : (s.report e).host = s.host := rfl
@[simp] theorem State.report_resuming : (s.report e).resuming = s.resuming := rfl
@[simp] theorem State.report_agenda : (s.report e).agenda = s.agenda := rfl
@[simp] theorem State.report_sensors : (s.report e).sensors = s.sensors := rfl
@[simp] theorem State.report_free : (s.report e).free = s.free := rfl
@[simp] theorem State.report_inbox : (s.report e).arb.inbox = s.arb.inbox ++ [(s.now, e)] := rfl

/-- A partition's record after a change of it, and after a change of another. -/
theorem State.part_updPart (q : Nat) (hp : p < 8) :
    (s.updPart p fp).part q = if q = p then fp (s.part p) else s.part q := by
  by_cases h : q = p
  · subst h; simp [State.updPart, State.part, hp]
  · simp [State.updPart, State.part, Ne.symm h, h]

/-- A port after a change of it, and after a change of another. -/
theorem State.port_updPort (m : Nat) (hn : n < 12) :
    (s.updPort n fq).port m = if m = n then fq (s.port n) else s.port m := by
  by_cases h : m = n
  · subst h; simp [State.updPort, State.port, hn]
  · simp [State.updPort, State.port, Ne.symm h, h]

theorem State.cluster_updCluster (d : Nat) (hc : cl < s.clusters.length) :
    (s.updCluster cl fc).cluster d = if d = cl then fc (s.cluster cl) else s.cluster d := by
  by_cases h : d = cl
  · subst h; simp [State.updCluster, State.cluster, hc]
  · simp [State.updCluster, State.cluster, h, Ne.symm h]

end

end Sys2Proof.Machine
end

