-- ==== Sys2Proof/Laws/Issue.lean ====
section
/-! SUPPORT. What the shared operations of an issue do: marking, results in flight, the end of a round's issue, and going
on to the next instruction. Each is said once, as the wave that it leaves and the device around it. -/

namespace Sys2Proof.Machine

/-! ## One wave of the device changed -/

/-- A change of one wave, by the wave that results. -/
theorem State.updWave_eq {s : State} {uid : Nat} {w : Wave} (h : s.waveOf uid = some w) (f : Wave → Wave) :
    s.updWave uid f = { s with waves := modifyFirst (fun x => x.uid == uid) (fun _ => f w) s.waves } := by
  simp only [State.updWave]
  rw [modifyFirst_congr _ f (fun _ => f w) h rfl]

theorem State.waveOf_uid {s : State} {uid : Nat} {w : Wave} (h : s.waveOf uid = some w) : w.uid = uid := by
  have := List.find?_some h
  simpa using this

theorem Wave.core_uid {w u : Wave} (h : u.core = w.core) : u.uid = w.uid := by
  have := congrArg Wave.uid h; exact this

theorem Wave.Keeps.refl (w : Wave) : w.Keeps w := ⟨rfl, fun _ => rfl⟩

theorem Wave.Keeps.trans {w u v : Wave} (a : w.Keeps u) (b : u.Keeps v) : w.Keeps v :=
  ⟨b.core.trans a.core, fun l => (b.threads l).trans (a.threads l)⟩

/-- The wave after a kept change is found under its number. -/
theorem State.Keeps.waveOf {s t : State} {c : Cur} {w u : Wave} (k : s.Keeps t c u) (hw : s.waveOf c.uid = some w)
    (hu : u.uid = w.uid) : t.waveOf c.uid = some u := by
  have hwu := State.waveOf_uid hw
  rw [k.rest]
  show List.find? _ (modifyFirst _ _ _) = _
  rw [find?_modifyFirst (fun x : Wave => x.uid == c.uid) (fun _ => u) (by intro a _; simp [hu, hwu])]
  rw [show List.find? (fun x : Wave => x.uid == c.uid) s.waves = some w from hw]
  rfl

theorem State.Keeps.refl {s : State} {c : Cur} {w : Wave} (hw : s.waveOf c.uid = some w) : s.Keeps s c w := by
  refine ⟨?_, rfl⟩
  rw [modifyFirst_congr (fun x : Wave => x.uid == c.uid) (fun _ => w) (fun a => a) hw rfl, modifyFirst_id]

theorem State.Keeps.trans {s t r : State} {c : Cur} {w u v : Wave} (hw : s.waveOf c.uid = some w) (hu : u.uid = w.uid)
    (a : s.Keeps t c u) (b : t.Keeps r c v) : s.Keeps r c v := by
  refine ⟨?_, b.blocks.trans a.blocks⟩
  have hwu := State.waveOf_uid hw
  have h1 := a.rest
  have h2 := b.rest
  rw [h2]
  have ht : t.waves = modifyFirst (fun x => x.uid == c.uid) (fun _ => u) s.waves := by rw [h1]
  rw [ht, modifyFirst_twice _ _ _ (by intro x _; simp [hu, hwu])]
  rw [h1]

/-- A change of the issuing wave alone. -/
theorem State.Keeps.of_updWave {s : State} {c : Cur} {w : Wave} (hw : s.waveOf c.uid = some w) (f : Wave → Wave) :
    s.Keeps (s.updWave c.uid f) c (f w) := ⟨State.updWave_eq hw f, rfl⟩

theorem State.Stands.path {s : State} {c : Cur} {w : Wave} (h : s.Stands c w) : s.path = c := by
  simp [State.path, h.cur]

theorem State.Stands.w {s : State} {c : Cur} {w : Wave} (h : s.Stands c w) : s.w = w := by
  simp [State.w, h.path, h.wave]

/-- The path still stands after a change that keeps its wave. -/
theorem State.Stands.keeps {s t : State} {c : Cur} {w u : Wave} (h : s.Stands c w) (k : s.Keeps t c u)
    (kw : w.Keeps u) : t.Stands c u := by
  refine ⟨?_, k.waveOf h.wave (Wave.core_uid kw.core), h.lanes, fun l hl hm => ?_⟩
  · rw [k.rest]; exact h.cur
  · have := congrArg Thread.status (kw.threads l)
    exact this.trans (h.run l hl hm)

/-! ## The end of a round's issue -/

theorem Wave.running_ne_zero {w : Wave} {l : Nat} (hl : l < 32) (h : (w.th l).status = .run) : w.running ≠ 0 :=
  maskOf_ne_zero hl (by simp [h])

theorem Wave.alive_ne_zero {w : Wave} {l : Nat} (hl : l < 32) (h : (w.th l).status = .run) : w.alive ≠ 0 :=
  maskOf_ne_zero hl (by simp [h])

theorem Wave.settleHandler_running {w : Wave} {r l : Nat} (hl : l < 32) (h : (w.th l).status = .run) :
    w.settleHandler r = w := by
  have h0 : (w.running == 0) = false := by simpa using Wave.running_ne_zero hl h
  unfold Wave.settleHandler
  rw [h0, Bool.and_false, Bool.false_and]
  rfl

/-- A wave after changes to its join list and to when its threads issue: `Wave.Keeps`, with every thread's place and
the results in flight. -/
structure Wave.Stays (w u : Wave) : Prop extends w.Keeps u where
  pend : u.pend = w.pend
  hold : u.hold = w.hold
  place : ∀ l, (u.th l).pc = (w.th l).pc ∧ (u.th l).ex = (w.th l).ex

theorem Wave.Stays.refl (w : Wave) : w.Stays w := ⟨.refl w, rfl, rfl, fun _ => ⟨rfl, rfl⟩⟩

theorem Wave.Stays.trans {w u v : Wave} (a : w.Stays u) (b : u.Stays v) : w.Stays v :=
  ⟨a.toKeeps.trans b.toKeeps, b.pend.trans a.pend, b.hold.trans a.hold,
    fun l => ⟨(b.place l).1.trans (a.place l).1, (b.place l).2.trans (a.place l).2⟩⟩

theorem Wave.release_stays (w : Wave) (r : Nat) (j : Join) : w.Stays (w.release r j) := by
  have h : ∀ l, ((w.release r j).th l).core = (w.th l).core ∧ ((w.release r j).th l).pc = (w.th l).pc
      ∧ ((w.release r j).th l).ex = (w.th l).ex := by
    intro l
    unfold Wave.release
    rw [Wave.updTh_th]
    split
    · split <;> exact ⟨rfl, rfl, rfl⟩
    · exact ⟨rfl, rfl, rfl⟩
  exact ⟨⟨rfl, fun l => (h l).1⟩, rfl, rfl, fun l => (h l).2⟩

theorem Wave.runOn_stays (w : Wave) (j : Join) : w.Stays (w.runOn j) := by
  have h : ∀ l, ((w.runOn j).th l).core = (w.th l).core ∧ ((w.runOn j).th l).pc = (w.th l).pc
      ∧ ((w.runOn j).th l).ex = (w.th l).ex := by
    intro l
    unfold Wave.runOn
    rw [Wave.updTh_th]
    split <;> exact ⟨rfl, rfl, rfl⟩
  exact ⟨⟨rfl, fun l => (h l).1⟩, rfl, rfl, fun l => (h l).2⟩

theorem Wave.joins_stays (w u : Wave) (js : List Join) (h : w.Stays u) : w.Stays { u with joins := js } :=
  ⟨⟨h.core, h.threads⟩, h.pend, h.hold, h.place⟩

theorem Wave.unstick_stays (w : Wave) (r : Nat) : w.Stays (w.unstick r) := by
  unfold Wave.unstick
  split
  · split
    · exact Wave.joins_stays _ _ _ ((Wave.runOn_stays _ _).trans (Wave.release_stays _ _ _))
    · exact .refl _
  · exact .refl _

theorem Wave.settleJoins_stays (w : Wave) (r : Nat) : w.Stays (w.settleJoins r) := by
  have fold : ∀ (js : List Join) (u : Wave), w.Stays u → w.Stays (js.foldl (fun u j => u.release r j) u) := by
    intro js
    induction js with
    | nil => intro u h; exact h
    | cons j js ih => intro u h; exact ih _ (h.trans (u.release_stays r j))
  have h1 : w.Stays (w.dropDone r) := Wave.joins_stays _ _ _ (fold _ _ (.refl w))
  refine h1.trans ?_
  exact Wave.unstick_stays _ _

/-- What follows every issue changes, while a thread of the wave still runs, the join list and when threads issue. -/
theorem State.settle_spec {s : State} {c : Cur} {w : Wave} (h : s.Stands c w) :
    ∃ u, s.Keeps (s.settle c.uid) c u ∧ w.Stays u := by
  obtain ⟨l, hl, hm⟩ := exists_lane h.lanes
  have hrun := h.run l hl hm
  have st := Wave.settleJoins_stays w (s.round w)
  refine ⟨w.settleJoins (s.round w), ?_, st⟩
  have e1 : s.updWave c.uid (fun w => w.settleHandler (s.round w)) = s := by
    rw [State.updWave_eq h.wave]
    show { s with waves := modifyFirst _ (fun _ => w.settleHandler (s.round w)) s.waves } = s
    rw [Wave.settleHandler_running hl hrun]
    rw [modifyFirst_congr (fun x : Wave => x.uid == c.uid) (fun _ => w) (fun a => a) h.wave rfl, modifyFirst_id]
  have k : s.Keeps (s.settleJoins c.uid) c (w.settleJoins (s.round w)) :=
    .of_updWave h.wave fun w => w.settleJoins (s.round w)
  unfold State.settle
  rw [e1]
  have hs := h.keeps k st.toKeeps
  unfold State.settleWaveEnd
  rw [hs.wave]
  simp only
  rw [if_neg (Wave.alive_ne_zero hl (hs.run l hl hm))]
  exact k

/-! ## Marking, arming, going on -/

theorem State.settleFlags_blocks (s : State) (bid : Nat) :
    s.settleFlags bid = { s with blocks := (s.settleFlags bid).blocks } ∧
      (s.settleFlags bid).blocks.map Block.core = s.blocks.map Block.core := by
  constructor
  · rfl
  · refine modifyFirst_map Block.core _ _ ?_ _
    intro b; rfl

theorem State.arm_blocks (s : State) (bid n : Nat) :
    s.arm bid n = { s with blocks := (s.arm bid n).blocks } ∧
      (s.arm bid n).blocks.map Block.core = s.blocks.map Block.core := by
  constructor
  · rfl
  · refine (State.settleFlags_blocks _ bid).2.trans ?_
    refine modifyFirst_map Block.core _ _ ?_ _
    intro b; rfl

theorem State.armLast_keeps {s : State} {c : Cur} {w : Wave} (hw : s.waveOf c.uid = some w) :
    s.Keeps s.armLast c w := by
  have e : s.armLast = { s with blocks := s.armLast.blocks } ∧
      s.armLast.blocks.map Block.core = s.blocks.map Block.core := by
    unfold State.armLast
    split
    · refine ⟨rfl, ?_⟩
      exact (State.arm_blocks _ _ _).2.trans (State.arm_blocks _ _ _).2
    · exact ⟨rfl, rfl⟩
  refine ⟨?_, e.2⟩
  rw [modifyFirst_congr (fun x : Wave => x.uid == c.uid) (fun _ => w) (fun a => a) hw rfl, modifyFirst_id]
  exact e.1

theorem State.markIssue_keeps {s : State} {c : Cur} {w : Wave} (h : s.Stands c w) :
    ∃ u, s.Keeps s.markIssue c u ∧ w.Keeps u ∧ u.pend = w.pend ∧ u.hold = w.hold ∧ u.joins = w.joins
      ∧ ∀ l, (u.th l).pc = (w.th l).pc ∧ (u.th l).ex = (w.th l).ex := by
  have hth : ∀ l, (({ (w.updTh c.lanes fun _ t => t.issues (s.round w)) with walked := [] } : Wave).th l) =
      if c.lanes.getLsbD l = true ∧ l < 32 then (w.th l).issues (s.round w) else w.th l := by
    intro l; exact Wave.updTh_th w c.lanes _ l
  refine ⟨{ (w.updTh c.lanes fun _ t => t.issues (s.round w)) with walked := [] }, ?_, ⟨rfl, fun l => ?_⟩, rfl, rfl,
    rfl, fun l => ?_⟩
  · unfold State.markIssue
    rw [h.path]
    exact .of_updWave h.wave fun w => { (w.updTh c.lanes fun _ t => t.issues (s.round w)) with walked := [] }
  · rw [hth]; split <;> rfl
  · rw [hth]; split <;> exact ⟨rfl, rfl⟩

/-- Going on past an instruction: the path stands at the word after it, and the rest of the device is kept. -/
theorem State.advance_spec {s : State} {c : Cur} {w : Wave} (h : s.Stands c w) :
    ∃ u, s.Keeps s.advance c u ∧ w.Keeps u ∧ u.pend = w.pend ∧ u.hold = w.hold ∧ u.WentOn c.lanes c.next := by
  have k0 := State.armLast_keeps h.wave
  have h0 := h.keeps k0 (.refl w)
  let f : Wave → Wave := fun w => w.updTh c.lanes fun _ t => t.goOn (s.round w) c.next s.isLast s.exec.fallCovered
  have hth : ∀ l, (f w).th l =
      if c.lanes.getLsbD l = true ∧ l < 32 then
        (w.th l).goOn (s.round w) c.next s.isLast s.exec.fallCovered else w.th l :=
    fun l => Wave.updTh_th w c.lanes _ l
  have kw : w.Keeps (f w) := ⟨rfl, fun l => by rw [hth]; split <;> rfl⟩
  have k1 : s.armLast.Keeps (s.armLast.updWave c.uid f) c (f w) := .of_updWave h0.wave f
  have h1 := h0.keeps k1 kw
  obtain ⟨u, k2, st⟩ := State.settle_spec h1
  refine ⟨u, ?_, kw.trans st.toKeeps, st.pend, st.hold, fun l hl hm => ?_⟩
  · have e : s.advance = (s.armLast.updWave c.uid f).settle c.uid := by
      unfold State.advance
      rw [h.path]
    rw [e]
    exact State.Keeps.trans h.wave (Wave.core_uid kw.core) (State.Keeps.trans h.wave rfl k0 k1) k2
  · rw [(st.place l).1, hth, if_pos ⟨hm, hl⟩]; rfl

/-! ## Results in flight -/

theorem State.push_keeps {s : State} {c : Cur} {w : Wave} (h : s.Stands c w) (p : Pend) :
    s.Keeps (s.push p) c { w with pend := w.pend ++ [p] } := by
  unfold State.push
  rw [h.path]
  exact .of_updWave h.wave fun w => { w with pend := w.pend ++ [p] }

/-- An instruction that puts one result in flight and goes on. -/
theorem State.push_advance {s : State} {c : Cur} {w : Wave} (h : s.Stands c w) (p : Pend) :
    ∃ u, s.Keeps (s.push p).advance c u ∧ w.Keeps u ∧ u.pend = w.pend ++ [p] ∧ u.hold = w.hold
      ∧ u.WentOn c.lanes c.next := by
  have k := State.push_keeps h p
  have kw : w.Keeps { w with pend := w.pend ++ [p] } := ⟨rfl, fun _ => rfl⟩
  obtain ⟨u, ku, kwu, hp, hh, hg⟩ := State.advance_spec (h.keeps k kw)
  exact ⟨u, State.Keeps.trans (u := { w with pend := w.pend ++ [p] }) h.wave rfl k ku, kw.trans kwu, hp, hh, hg⟩

/-- The common checks passed, an issue does what the instruction does from the marked state. -/
theorem State.issue_ok {s : State} {i : Instr} {c : Cur} {w : Wave} (h : s.Issues i c w) (k : State → W32 → State) :
    s.issue i k = k s.markIssue (s.act i) := by
  unfold State.issue
  rw [h.front]

/-- The fields of an instruction that issues are those that its form allows. -/
theorem State.Issues.fieldsOk {s : State} {i : Instr} {c : Cur} {w : Wave} (h : s.Issues i c w) :
    i.fieldsOk = true ∧ i.subOk = true := by
  have hf := h.front
  unfold State.frontTrap at hf
  split at hf
  · cases hf
  · split at hf
    · cases hf
    · rename_i h2
      split at hf
      · cases hf
      · rename_i h3
        simp only [Bool.not_eq_true', Bool.not_eq_false, Bool.and_eq_true] at h2 h3
        exact ⟨h3.1.1, h2.2⟩

/-- The marked state: its path stands, on a wave that keeps everything. -/
theorem State.Stands.mark {s : State} {c : Cur} {w : Wave} (h : s.Stands c w) :
    ∃ u, s.markIssue.Stands c u ∧ s.Keeps s.markIssue c u ∧ w.Keeps u ∧ u.pend = w.pend ∧ u.hold = w.hold
      ∧ ∀ l, (u.th l).pc = (w.th l).pc ∧ (u.th l).ex = (w.th l).ex := by
  obtain ⟨u, k, kw, hp, hh, _, hpl⟩ := State.markIssue_keeps h
  exact ⟨u, h.keeps k kw, k, kw, hp, hh, hpl⟩

end Sys2Proof.Machine
end

