-- ==== Sys2Proof/Laws/Shapes.lean ====
section
/-! SUPPORT. The shapes of a meaning: a kept wave reads and names as before, and an instruction with one fixed-latency
result does what its shape says. -/

namespace Sys2Proof.Machine

theorem Wave.core_v {w u : Wave} (h : u.core = w.core) : u.v = w.v := by
  have := congrArg Wave.v h; exact this
theorem Wave.core_s {w u : Wave} (h : u.core = w.core) : u.s = w.s := by
  have := congrArg Wave.s h; exact this
theorem Wave.core_m {w u : Wave} (h : u.core = w.core) : u.m = w.m := by
  have := congrArg Wave.m h; exact this
theorem Wave.core_x {w u : Wave} (h : u.core = w.core) : u.x = w.x := by
  have := congrArg Wave.x h; exact this

theorem Wave.Keeps.word {w u : Wave} (k : w.Keeps u) : u.word = w.word := by
  funext o j l
  cases o <;> simp only [Wave.word, Wave.vreg, Wave.sreg, Wave.mreg, Wave.core_v k.core, Wave.core_s k.core,
    Wave.core_m k.core, Wave.core_x k.core]

theorem Wave.Keeps.rd {w u : Wave} (k : w.Keeps u) : u.rd = w.rd := by
  funext o n l
  unfold Wave.rd
  rw [k.word]

theorem Wave.Keeps.regsAt {w u : Wave} (k : w.Keeps u) : u.regsAt = w.regsAt := by
  funext o n
  cases o <;> simp only [Wave.regsAt, Wave.core_x k.core]

theorem Wave.Keeps.dst {w u : Wave} (k : w.Keeps u) : u.dst = w.dst := by
  funext o n act f
  cases o <;> simp only [Wave.dst, Wave.core_x k.core]

theorem Wave.Keeps.cond {w u : Wave} (k : w.Keeps u) : u.cond = w.cond := by
  funext o l
  cases o <;> simp only [Wave.cond, Wave.mreg, Wave.core_m k.core, k.word]

theorem Wave.Keeps.dstBool {w u : Wave} (k : w.Keeps u) : u.dstBool = w.dstBool := by
  funext o act f
  cases o <;> simp only [Wave.dstBool, k.dst]

theorem State.Keeps.round {s t : State} {c : Cur} {w u : Wave} (k : s.Keeps t c u) (kw : w.Keeps u) :
    t.round u = s.round w := by
  have h1 : u.cl = w.cl := by have := congrArg Wave.cl kw.core; exact this
  have h2 : u.sl = w.sl := by have := congrArg Wave.sl kw.core; exact this
  unfold State.round
  rw [h1, h2, k.rest]
  rfl

theorem State.Keeps.path {s t : State} {c : Cur} {u : Wave} (k : s.Keeps t c u) : t.path = s.path := by
  rw [k.rest]; rfl

/-- A result without flags, and the way on. -/
theorem State.result_yields {s : State} {c : Cur} {w : Wave} (h : s.Stands c w) (lat : Nat) (act : W32)
    (regs : List Reg) (wr : List Wr) :
    s.markIssue.Stands c s.markIssue.w ∧ w.Keeps s.markIssue.w ∧
    s.Yields (s.markIssue.result lat act regs wr).advance c w (s.resultAt c w act lat regs wr) w.hold := by
  obtain ⟨u, hu, k, kw, hp, hh, hx⟩ := h.mark
  have e : s.markIssue.w = u := hu.w
  rw [e]
  refine ⟨hu, kw, ?_⟩
  have e2 : s.markIssue.result lat act regs wr = s.markIssue.push (s.resultAt c w act lat regs wr) := by
    unfold State.result State.resultAt State.ex?
    rw [e, k.round kw, k.path, h.path, (hx _).2]
  rw [e2]
  obtain ⟨v, kv, kuv, hpv, hhv, hg⟩ := State.push_advance hu (s.resultAt c w act lat regs wr)
  refine ⟨v, State.Keeps.trans h.wave (Wave.core_uid kw.core) k kv, kw.trans kuv, ?_, ?_, hg⟩
  · rw [hpv, hp]
  · rw [hhv, hh]

theorem alu_yields {s : State} {i : Instr} {c : Cur} {w : Wave} (h : s.Issues i c w) (d : Opnd) (dk lat : Nat)
    (val : Wave → Nat → Nat) (hv : ∀ u, w.Keeps u → val u = val w) :
    s.Yields (alu i d dk lat val s) c w
      (s.resultAt c w (s.act i) lat (w.regsAt d dk) (w.dst d dk (s.act i) (val w))) w.hold := by
  unfold alu
  rw [State.issue_ok h]
  have := State.result_yields h.toStands lat (s.act i) (w.regsAt d dk) (w.dst d dk (s.act i) (val w))
  rw [this.2.1.regsAt, this.2.1.dst, hv _ this.2.1]
  exact this.2.2

theorem Wave.Keeps.iv {w u : Wave} (k : w.Keeps u) : u.iv = w.iv := by
  funext t o l; unfold Wave.iv; rw [k.rd]
theorem Wave.Keeps.bits {w u : Wave} (k : w.Keeps u) : u.bits = w.bits := by
  funext t o l; unfold Wave.bits; rw [k.rd]
theorem Wave.Keeps.count {w u : Wave} (k : w.Keeps u) : u.count = w.count := by
  funext o l; unfold Wave.count; rw [k.rd]

end Sys2Proof.Machine
end

