-- ==== Sys2Proof/Laws/Int.lean ====
section
/-! SUPPORT. The write rule of the integer instructions (04 R81): the result of an exact value, and its bits. -/

namespace Sys2Proof.Machine

theorem iwrite_lt (t : IType) (v : Int) : iwrite t v < 2 ^ (32 * t.regs) := by
  cases t <;> simp only [iwrite, IType.bits, IType.signed, IType.regs] <;> (try simp) <;> (try split) <;> omega

theorem iwrite_mod (t : IType) (v : Int) : ((iwrite t v : Int) - v) % 2 ^ t.bits = 0 := by
  cases t <;> simp only [iwrite, IType.bits, IType.signed] <;> (try simp) <;> (try split) <;> omega

theorem iwrite_bits (t : IType) (v : Int) (i : Nat) (h : i < t.bits) :
    (iwrite t v).testBit i = ((v % 2 ^ t.bits).toNat).testBit i := by
  have key : iwrite t v % 2 ^ t.bits = (v % 2 ^ t.bits).toNat := by
    cases t <;> simp only [iwrite, IType.bits, IType.signed] <;> (try simp) <;> (try split) <;> omega
  rw [← key, Nat.testBit_mod_two_pow]
  simp [h]

theorem testBit_high {u k n i : Nat} (hu : u < 2 ^ k) (hk : k ≤ i) (hi : i < n) :
    (u + (2 ^ n - 2 ^ k)).testBit i = true := by
  have e : u + (2 ^ n - 2 ^ k) = 2 ^ k * (2 ^ (n - k) - 1) + u := by
    rw [Nat.mul_sub, ← Nat.pow_add]
    have : k + (n - k) = n := by omega
    rw [this]; omega
  rw [e, Nat.testBit_two_pow_mul_add _ hu]
  rw [if_neg (by omega), Nat.testBit_two_pow_sub_one]
  simp
  omega

theorem testBit_top {u n : Nat} (hu : u < 2 ^ (n + 1)) : u.testBit n = decide (2 ^ n ≤ u) := by
  rw [Nat.testBit_eq_decide_div_mod_eq]
  have h2 : 2 ^ (n + 1) = 2 * 2 ^ n := by rw [Nat.pow_succ]; omega
  by_cases h : 2 ^ n ≤ u
  · have : u / 2 ^ n = 1 := by
      apply Nat.div_eq_of_lt_le <;> omega
    simp [this, h]
  · have : u / 2 ^ n = 0 := Nat.div_eq_of_lt (by omega)
    simp [this, h]

theorem iwrite_extend (t : IType) (v : Int) (i : Nat) (h : t.bits ≤ i) (hi : i < 32) :
    (iwrite t v).testBit i = (t.signed && (iwrite t v).testBit (t.bits - 1)) := by
  have hlt : (v % 2 ^ t.bits).toNat < 2 ^ t.bits := by
    have hp : (0 : Int) < 2 ^ t.bits := Int.pow_pos (by decide)
    have := Int.emod_lt_of_pos v hp
    have h2 := Int.emod_nonneg v (Int.ne_of_gt hp)
    have h3 : ((2 ^ t.bits : Nat) : Int) = 2 ^ t.bits := by simp
    omega
  have hb : 0 < t.bits := by cases t <;> decide
  have htop : (v % 2 ^ t.bits).toNat.testBit (t.bits - 1) = decide (2 ^ (t.bits - 1) ≤ (v % 2 ^ t.bits).toNat) :=
    testBit_top (by rw [Nat.sub_add_cancel hb]; exact hlt)
  rw [iwrite_bits t v (t.bits - 1) (by omega), htop]
  unfold iwrite
  simp only
  have h32 : t.bits < 32 := by omega
  by_cases hs : t.signed = true
  · by_cases hge : 2 ^ (t.bits - 1) ≤ (v % 2 ^ t.bits).toNat
    · rw [if_pos (by simp [h32, hs, hge]), testBit_high hlt h hi]
      simp [hs, hge]
    · rw [if_neg (by simp [hge]), Nat.testBit_lt_two_pow (Nat.lt_of_lt_of_le hlt (Nat.pow_le_pow_right (by decide) h))]
      simp [hge]
  · rw [if_neg (by simp [hs]), Nat.testBit_lt_two_pow (Nat.lt_of_lt_of_le hlt (Nat.pow_le_pow_right (by decide) h))]
    simp [hs]

theorem ival_iwrite_clamp (t : IType) (v : Int) : ival t (iwrite t (iclamp t v)) = min (max v (ilow t)) (ihigh t) := by
  cases t <;> simp only [ival, iwrite, iclamp, ilow, ihigh, IType.bits, IType.signed] <;> (try simp) <;>
    (repeat' split) <;> omega

/-- The write rule: the result of an exact value. -/
theorem ifinish_writes (t : IType) (sat : Bool) (x : Int) : IntWrites t sat x (ifinish t sat x) := by
  refine ⟨iwrite_lt _ _, ?_, fun i h hi => iwrite_extend _ _ i h hi⟩
  cases sat
  · exact iwrite_mod t x
  · exact ival_iwrite_clamp t x
theorem bits_pos (t : IType) : 0 < t.bits := by cases t <;> decide

/-- The write rule without saturation: the bits of a result that is given as a number. -/
theorem ifinish_hasBits (t : IType) (n : Nat) (b : Nat → Bool) (h : ∀ i, i < t.bits → n.testBit i = b i) :
    IntHasBits t b (ifinish t false n) := by
  have low : ∀ i, i < t.bits → (ifinish t false n).testBit i = b i := by
    intro i hi
    show (iwrite t n).testBit i = b i
    rw [iwrite_bits t n i hi, ← h i hi]
    have e : ((n : Int) % 2 ^ t.bits).toNat = n % 2 ^ t.bits := by
      have : ((n : Int) % 2 ^ t.bits) = ((n % 2 ^ t.bits : Nat) : Int) := by simp
      rw [this]; rfl
    rw [e, Nat.testBit_mod_two_pow]
    simp [hi]
  refine ⟨iwrite_lt _ _, low, fun i h hi => ?_⟩
  have := bits_pos t
  rw [← low (t.bits - 1) (by omega)]
  exact iwrite_extend t n i h hi

end Sys2Proof.Machine
end

