-- ==== Sys2Proof/Laws/Memory.lean ====
section
/-! SUPPORT. The store: every operation that writes bytes keeps its canonical form, and what a read finds after one. -/

namespace Sys2Proof.Machine

theorem Mem.wf_write {m : Mem} (h : m.wf = true) (k : Nat) (bs : List Byte) : (m.write k bs).wf = true :=
  Cells.wf_setMany h

/-- A byte after a write: the byte written, or what stood there. -/
theorem Mem.byte_write {m : Mem} (h : m.wf = true) (k : Nat) (bs : List Byte) (a : Nat) :
    (m.write k bs).byte a = if k ≤ a ∧ a < k + bs.length then bs.getD (a - k) 0 else m.byte a :=
  Cells.get_setMany h

theorem Mem.wf_writePa {m : Mem} (h : m.wf = true) (pa : Nat) (bs : List Byte) : (m.writePa pa bs).wf = true := by
  unfold Mem.writePa
  split
  · exact Mem.wf_write h _ _
  · exact h

theorem Mem.wf_putMany {m : Mem} (h : m.wf = true) (pa : Nat) (bs : List Byte) : (m.putMany pa bs).wf = true := by
  induction bs generalizing m pa with
  | nil => exact h
  | cons b bs ih =>
    unfold Mem.putMany
    split
    · exact ih h (pa + 1)
    · exact ih (Mem.wf_writePa h pa [b]) (pa + 1)

theorem Mem.wf_writeMany {m : Mem} (h : m.wf = true) (pa : Nat) (bs : List Byte) : (m.writeMany pa bs).wf = true := by
  unfold Mem.writeMany
  exact Mem.wf_putMany (by exact h) pa bs

theorem Mem.wf_writeEnc {m : Mem} (h : m.wf = true) (k : Fin 128) (pa : Nat) (bs : List Byte) :
    (m.writeEnc k pa bs).wf = true := by
  induction bs generalizing m pa with
  | nil => exact h
  | cons b bs ih => exact ih (Mem.wf_writePa h _ _) (pa + 1)

theorem Mem.wf_writeLoc {m : Mem} (h : m.wf = true) (l : Loc) (bs : List Byte) : (m.writeLoc l bs).wf = true := by
  cases l with
  | pad k => exact Mem.wf_write h k bs
  | main pa e => cases e with
    | none => exact Mem.wf_writeMany h pa bs
    | some k => exact Mem.wf_writeEnc h k pa bs

theorem Mem.wf_moveGranule {m : Mem} (h : m.wf = true) (src dst : Nat) (lost : List Nat) :
    (m.moveGranule src dst lost).wf = true := by
  unfold Mem.moveGranule
  generalize m.read src 512 = bs
  exact Cells.wf_setMany h

theorem State.wf_writeLoc {s : State} (h : s.mem.wf = true) (l : Loc) (n v : Nat) : (s.writeLoc l n v).mem.wf = true :=
  Mem.wf_writeLoc h l _

theorem State.wf_writeBytes {s : State} (h : s.mem.wf = true) (l : Loc) (bs : List Byte) :
    (s.writeBytes l bs).mem.wf = true := Mem.wf_writeLoc h l bs

theorem State.wf_setBar {s : State} (h : s.mem.wf = true) (b : Block) (i : Nat) (o : Bar) :
    (s.setBar b i o).mem.wf = true := by
  have key : ∀ k bs, (s.mem.write k bs).wf = true := Mem.wf_write h
  exact key (s.barKey b i) _

/-- The store at reset. -/
theorem Mem.wf_reset : Mem.reset.wf = true := rfl

end Sys2Proof.Machine
end

