-- ==== Sys2Proof/Laws/PerInstr.lean ====
section
/-! SUPPORT. The family WordsFit: the words of an instruction are 64-bit words (03 R50). One lemma for each constructor. -/

set_option Elab.async false

namespace Sys2Proof.Laws

/-- Every word of the instruction is below 2^64. -/
def WordsFit.Statement (i : Instr) : Prop := ∀ w ∈ encode i, w < 2 ^ 64

/-! ## The codes of the fields -/

theorem bit_lt (b : Bool) : bit b < 2 := by cases b <;> decide
theorem encOpnd_lt (o : Opnd) : encOpnd o < 512 := by cases o <;> simp only [encOpnd] <;> omega
theorem encMask_lt (b : Option (Fin 16)) : encMask b < 512 := by cases b <;> simp only [encMask] <;> omega
theorem encGuard_lt (g : Guard) : encGuard g < 256 := by cases g <;> simp only [encGuard] <;> omega
theorem encIType_lt (x : IType) : encIType x < 8 := by cases x <;> decide
theorem encFType_lt (x : FType) : encFType x < 4 := by cases x <;> decide
theorem encICond_lt (x : ICond) : encICond x < 8 := by cases x <;> decide
theorem encFCond_lt (x : FCond) : encFCond x < 8 := by cases x <;> decide
theorem encCvt_lt (x : CvtType) : encCvt x < 8 := by cases x <;> decide
theorem encElem_lt (x : Elem) : encElem x < 16 := by cases x <;> decide
theorem encSgn_lt (x : SgnOp) : encSgn x < 4 := by cases x <;> decide
theorem encMovi_lt (x : MoviKind) : encMovi x < 16 := by cases x <;> decide
theorem encMovl_lt (x : MovlKind) : encMovl x < 16 := by cases x <;> decide
theorem encIdSel_lt (x : IdSel) : encIdSel x < 64 := by cases x <;> decide
theorem encShfl_lt (x : ShflMode) : encShfl x < 4 := by cases x <;> decide
theorem encVote_lt (x : VoteOp) : encVote x < 8 := by cases x <;> decide
theorem encBcast_lt (x : BcastMode) : encBcast x < 4 := by cases x <;> decide
theorem encRType_lt (x : RType) : encRType x < 8 := by cases x <;> decide
theorem encRedOp_lt (x : RedOp) : encRedOp x < 4 := by cases x <;> decide
theorem encBrField_lt (x : BrField) : encBrField x < 8 := by cases x <;> decide
theorem encTileFmt_lt (x : TileFmt) : encTileFmt x < 8 := by cases x <;> decide
theorem encTflg_lt (x : TflgOp) : encTflg x < 8 := by cases x <;> decide
theorem encAtomOp_lt (x : AtomOp) : encAtomOp x < 8 := by cases x <;> decide
theorem encFolSel_lt (x : FolSel) : encFolSel x < 8 := by cases x <;> decide
theorem encCsr_lt (x : Csr) : encCsr x < 16 := by cases x <;> decide
theorem encSize_lt (x : Size) : encSize x < 8 := by cases x <;> decide
theorem encSpace_lt (x : Space) : encSpace x < 8 := by cases x <;> decide
theorem encOrder_lt (x : Order) : encOrder x < 4 := by cases x <;> decide
theorem encScope_lt (x : Scope) : encScope x < 8 := by cases x <;> decide
theorem encRm_lt (x : Rm) : encRm x < 8 := by cases x <;> decide

/-! ## The formats -/

theorem encCtl_lt (r : RForm) : encCtl r < 2 ^ 14 := by
  have h := r.hint.isLt
  have p := r.p.isLt
  have := bit_lt r.sat
  have := bit_lt r.reuse
  have := bit_lt r.neg
  have := encRm_lt r.rm
  simp only [encCtl]; omega

theorem encRWith_fits (op sub d a : Nat) (r : RForm) (ho : op < 256) (hs : sub < 64) (hd : d < 512) (ha : a < 512) :
    encRWith op sub d a r < 2 ^ 64 := by
  have := encCtl_lt r
  have := encOpnd_lt r.c
  have := encOpnd_lt r.b
  simp only [encRWith]; omega

theorem encR_fits (op sub : Nat) (r : RForm) (ho : op < 256) (hs : sub < 64) : ∀ w ∈ encR op sub r, w < 2 ^ 64 := by
  simpa [encR] using encRWith_fits op sub _ _ r ho hs (encOpnd_lt r.d) (encOpnd_lt r.a)

theorem encRA_fits (op sub a : Nat) (r : RForm) (ho : op < 256) (hs : sub < 64) (ha : a < 512) :
    ∀ w ∈ encRA op sub a r, w < 2 ^ 64 := by
  simpa [encRA] using encRWith_fits op sub _ a r ho hs (encOpnd_lt r.d) ha

theorem encRD_fits (op sub d : Nat) (r : RForm) (ho : op < 256) (hs : sub < 64) (hd : d < 512) :
    ∀ w ∈ encRD op sub d r, w < 2 ^ 64 := by
  simpa [encRD] using encRWith_fits op sub d _ r ho hs hd (encOpnd_lt r.a)

theorem encMWith_fits (op sub d : Nat) (m : MForm) (ho : op < 256) (hs : sub < 64) (hd : d < 512) :
    encMWith op sub d m < 2 ^ 64 := by
  have := m.off.isLt
  have := m.p.isLt
  have := bit_lt m.neg
  have := encScope_lt m.scope
  have := encOrder_lt m.order
  have := bit_lt m.flagged
  have := encSpace_lt m.space
  have := encMask_lt m.b
  have := encOpnd_lt m.a
  simp only [encMWith]; omega

theorem encM_fits (op u : Nat) (m : MForm) (ho : op < 256) (hu : u < 8) : ∀ w ∈ encM op u m, w < 2 ^ 64 := by
  have := encSize_lt m.sz
  simpa [encM] using encMWith_fits op (8 * u + encSize m.sz) _ m ho (by omega) (encOpnd_lt m.d)

theorem encMS_fits (op sub : Nat) (m : MForm) (ho : op < 256) (hs : sub < 64) : ∀ w ∈ encMS op sub m, w < 2 ^ 64 := by
  simpa [encMS] using encMWith_fits op sub _ m ho hs (encOpnd_lt m.d)

theorem encI_fits (op sub d a imm : Nat) (ho : op < 256) (hs : sub < 64) (hd : d < 512) (ha : a < 512)
    (hi : imm < 2 ^ 32) : ∀ w ∈ encI op sub d a imm, w < 2 ^ 64 := by
  simp only [encI, List.mem_singleton, forall_eq]; omega

theorem encG_fits (op : Nat) (g : Guard) (x : Nat) (ho : op < 256) (hx : x < 2 ^ 48) :
    ∀ w ∈ encG op g x, w < 2 ^ 64 := by
  have := encGuard_lt g
  simp only [encG, List.mem_singleton, forall_eq]; omega

/-! ## One lemma for each constructor -/

namespace WordsFit

theorem iadd (t : IType) (r : RForm) : Statement (.iadd t r) :=
  encR_fits _ _ _ (by decide) (by have := encIType_lt t; omega)
theorem isub (t : IType) (r : RForm) : Statement (.isub t r) :=
  encR_fits _ _ _ (by decide) (by have := encIType_lt t; omega)
theorem imul (t : IType) (r : RForm) : Statement (.imul t r) :=
  encR_fits _ _ _ (by decide) (by have := encIType_lt t; omega)
theorem imulhi (t : IType) (r : RForm) : Statement (.imulhi t r) :=
  encR_fits _ _ _ (by decide) (by have := encIType_lt t; omega)
theorem imad (t : IType) (r : RForm) : Statement (.imad t r) :=
  encR_fits _ _ _ (by decide) (by have := encIType_lt t; omega)
theorem idiv (t : IType) (r : RForm) : Statement (.idiv t r) :=
  encR_fits _ _ _ (by decide) (by have := encIType_lt t; omega)
theorem irem (t : IType) (r : RForm) : Statement (.irem t r) :=
  encR_fits _ _ _ (by decide) (by have := encIType_lt t; omega)
theorem imin (t : IType) (r : RForm) : Statement (.imin t r) :=
  encR_fits _ _ _ (by decide) (by have := encIType_lt t; omega)
theorem imax (t : IType) (r : RForm) : Statement (.imax t r) :=
  encR_fits _ _ _ (by decide) (by have := encIType_lt t; omega)
theorem iabs (t : IType) (r : RForm) : Statement (.iabs t r) :=
  encR_fits _ _ _ (by decide) (by have := encIType_lt t; omega)
theorem ineg (t : IType) (r : RForm) : Statement (.ineg t r) :=
  encR_fits _ _ _ (by decide) (by have := encIType_lt t; omega)
theorem land (t : IType) (r : RForm) : Statement (.land t r) :=
  encR_fits _ _ _ (by decide) (by have := encIType_lt t; omega)
theorem lor (t : IType) (r : RForm) : Statement (.lor t r) :=
  encR_fits _ _ _ (by decide) (by have := encIType_lt t; omega)
theorem lxor (t : IType) (r : RForm) : Statement (.lxor t r) :=
  encR_fits _ _ _ (by decide) (by have := encIType_lt t; omega)
theorem landn (t : IType) (r : RForm) : Statement (.landn t r) :=
  encR_fits _ _ _ (by decide) (by have := encIType_lt t; omega)
theorem lnot (t : IType) (r : RForm) : Statement (.lnot t r) :=
  encR_fits _ _ _ (by decide) (by have := encIType_lt t; omega)
theorem shl (t : IType) (r : RForm) : Statement (.shl t r) :=
  encR_fits _ _ _ (by decide) (by have := encIType_lt t; omega)
theorem shr (t : IType) (r : RForm) : Statement (.shr t r) :=
  encR_fits _ _ _ (by decide) (by have := encIType_lt t; omega)
theorem sar (t : IType) (r : RForm) : Statement (.sar t r) :=
  encR_fits _ _ _ (by decide) (by have := encIType_lt t; omega)
theorem rot (t : IType) (right : Bool) (r : RForm) : Statement (.rot t right r) :=
  encR_fits _ _ _ (by decide) (by have := encIType_lt t; have := bit_lt right; omega)
theorem bfx (t : IType) (r : RForm) : Statement (.bfx t r) :=
  encR_fits _ _ _ (by decide) (by have := encIType_lt t; omega)
theorem bfi (t : IType) (r : RForm) : Statement (.bfi t r) :=
  encR_fits _ _ _ (by decide) (by have := encIType_lt t; omega)
theorem popc (t : IType) (r : RForm) : Statement (.popc t r) :=
  encR_fits _ _ _ (by decide) (by have := encIType_lt t; omega)
theorem clz (t : IType) (r : RForm) : Statement (.clz t r) :=
  encR_fits _ _ _ (by decide) (by have := encIType_lt t; omega)
theorem ctz (t : IType) (r : RForm) : Statement (.ctz t r) :=
  encR_fits _ _ _ (by decide) (by have := encIType_lt t; omega)
theorem brev (t : IType) (r : RForm) : Statement (.brev t r) :=
  encR_fits _ _ _ (by decide) (by have := encIType_lt t; omega)
theorem icmp (cc : ICond) (t : IType) (r : RForm) : Statement (.icmp cc t r) :=
  encR_fits _ _ _ (by decide) (by have := encIType_lt t; have := encICond_lt cc; omega)
theorem sel (t : IType) (r : RForm) : Statement (.sel t r) :=
  encR_fits _ _ _ (by decide) (by have := encIType_lt t; omega)
theorem mov (t : IType) (r : RForm) : Statement (.mov t r) :=
  encR_fits _ _ _ (by decide) (by have := encIType_lt t; omega)
theorem movi (k : MoviKind) (d : Opnd) (imm : W32) : Statement (.movi k d imm) :=
  encI_fits _ _ _ _ _ (by decide) (by have := encMovi_lt k; have := encOpnd_lt d; have := imm.isLt; omega) (by have := encMovi_lt k; have := encOpnd_lt d; have := imm.isLt; omega) (by have := encMovi_lt k; have := encOpnd_lt d; have := imm.isLt; omega) (by have := encMovi_lt k; have := encOpnd_lt d; have := imm.isLt; omega)
theorem movl (k : MovlKind) (d : Opnd) (lit : W64) : Statement (.movl k d lit) := by
  have := encOpnd_lt d
  have := encMovl_lt k
  have := lit.isLt
  simp only [Statement, encode, List.mem_cons, List.not_mem_nil, or_false, forall_eq_or_imp, forall_eq]
  omega
theorem lea (t : IType) (sc : Fin 5) (r : RForm) : Statement (.lea t sc r) :=
  encR_fits _ _ _ (by decide) (by have := encIType_lt t; have := sc.isLt; omega)
theorem fadd (t : FType) (r : RForm) : Statement (.fadd t r) :=
  encR_fits _ _ _ (by decide) (by have := encFType_lt t; omega)
theorem fsub (t : FType) (r : RForm) : Statement (.fsub t r) :=
  encR_fits _ _ _ (by decide) (by have := encFType_lt t; omega)
theorem fmul (t : FType) (r : RForm) : Statement (.fmul t r) :=
  encR_fits _ _ _ (by decide) (by have := encFType_lt t; omega)
theorem fma (t : FType) (r : RForm) : Statement (.fma t r) :=
  encR_fits _ _ _ (by decide) (by have := encFType_lt t; omega)
theorem fmin (t : FType) (r : RForm) : Statement (.fmin t r) :=
  encR_fits _ _ _ (by decide) (by have := encFType_lt t; omega)
theorem fmax (t : FType) (r : RForm) : Statement (.fmax t r) :=
  encR_fits _ _ _ (by decide) (by have := encFType_lt t; omega)
theorem fcmp (cc : FCond) (t : FType) (r : RForm) : Statement (.fcmp cc t r) :=
  encR_fits _ _ _ (by decide) (by have := encFType_lt t; have := encFCond_lt cc; omega)
theorem fclass (t : FType) (r : RForm) : Statement (.fclass t r) :=
  encR_fits _ _ _ (by decide) (by have := encFType_lt t; omega)
theorem fdiv (t : FType) (r : RForm) : Statement (.fdiv t r) :=
  encR_fits _ _ _ (by decide) (by have := encFType_lt t; omega)
theorem fsqrt (t : FType) (r : RForm) : Statement (.fsqrt t r) :=
  encR_fits _ _ _ (by decide) (by have := encFType_lt t; omega)
theorem frcp (t : FType) (r : RForm) : Statement (.frcp t r) :=
  encR_fits _ _ _ (by decide) (by have := encFType_lt t; omega)
theorem frsq (t : FType) (r : RForm) : Statement (.frsq t r) :=
  encR_fits _ _ _ (by decide) (by have := encFType_lt t; omega)
theorem fexp (t : FType) (r : RForm) : Statement (.fexp t r) :=
  encR_fits _ _ _ (by decide) (by have := encFType_lt t; omega)
theorem fexp2 (t : FType) (r : RForm) : Statement (.fexp2 t r) :=
  encR_fits _ _ _ (by decide) (by have := encFType_lt t; omega)
theorem flog (t : FType) (r : RForm) : Statement (.flog t r) :=
  encR_fits _ _ _ (by decide) (by have := encFType_lt t; omega)
theorem flog2 (t : FType) (r : RForm) : Statement (.flog2 t r) :=
  encR_fits _ _ _ (by decide) (by have := encFType_lt t; omega)
theorem ferf (t : FType) (r : RForm) : Statement (.ferf t r) :=
  encR_fits _ _ _ (by decide) (by have := encFType_lt t; omega)
theorem ferfc (t : FType) (r : RForm) : Statement (.ferfc t r) :=
  encR_fits _ _ _ (by decide) (by have := encFType_lt t; omega)
theorem fint (t : FType) (r : RForm) : Statement (.fint t r) :=
  encR_fits _ _ _ (by decide) (by have := encFType_lt t; omega)
theorem fscale (t : FType) (e8 : Bool) (r : RForm) : Statement (.fscale t e8 r) :=
  encR_fits _ _ _ (by decide) (by have := encFType_lt t; have := bit_lt e8; omega)
theorem ffrexp (t : FType) (exp : Bool) (r : RForm) : Statement (.ffrexp t exp r) :=
  encR_fits _ _ _ (by decide) (by have := encFType_lt t; have := bit_lt exp; omega)
theorem cvt (dst src : CvtType) (r : RForm) : Statement (.cvt dst src r) :=
  encR_fits _ _ _ (by decide) (by have := encCvt_lt src; have := encCvt_lt dst; omega)
theorem fxrd (r : RForm) : Statement (.fxrd r) :=
  encR_fits _ _ _ (by decide) (by decide)
theorem fxclr (r : RForm) : Statement (.fxclr r) :=
  encR_fits _ _ _ (by decide) (by decide)
theorem fxen (r : RForm) : Statement (.fxen r) :=
  encR_fits _ _ _ (by decide) (by decide)
theorem dot4 (e : Elem) (r : RForm) : Statement (.dot4 e r) :=
  encR_fits _ _ _ (by decide) (by have := encElem_lt e; omega)
theorem dot8 (e : Elem) (r : RForm) : Statement (.dot8 e r) :=
  encR_fits _ _ _ (by decide) (by have := encElem_lt e; omega)
theorem pack (e : Elem) (j : Fin 4) (r : RForm) : Statement (.pack e j r) :=
  encR_fits _ _ _ (by decide) (by have := encElem_lt e; have := j.isLt; omega)
theorem unpack (e : Elem) (j : Fin 4) (r : RForm) : Statement (.unpack e j r) :=
  encR_fits _ _ _ (by decide) (by have := encElem_lt e; have := j.isLt; omega)
theorem mxq (e : Elem) (scale : Bool) (r : RForm) : Statement (.mxq e scale r) :=
  encR_fits _ _ _ (by decide) (by have := encElem_lt e; have := bit_lt scale; omega)
theorem fsgn (t : FType) (op : SgnOp) (r : RForm) : Statement (.fsgn t op r) :=
  encR_fits _ _ _ (by decide) (by have := encFType_lt t; have := encSgn_lt op; omega)
theorem bra (imm : W32) : Statement (.bra imm) :=
  encI_fits _ _ _ _ _ (by decide) (by have := imm.isLt; omega) (by have := imm.isLt; omega) (by have := imm.isLt; omega) (by have := imm.isLt; omega)
theorem brc (z : Bool) (a : Opnd) (imm : W32) : Statement (.brc z a imm) :=
  encI_fits _ _ _ _ _ (by decide) (by have := bit_lt z; have := encOpnd_lt a; have := imm.isLt; omega) (by have := bit_lt z; have := encOpnd_lt a; have := imm.isLt; omega) (by have := bit_lt z; have := encOpnd_lt a; have := imm.isLt; omega) (by have := bit_lt z; have := encOpnd_lt a; have := imm.isLt; omega)
theorem jmpi (r : RForm) : Statement (.jmpi r) :=
  encR_fits _ _ _ (by decide) (by decide)
theorem call (imm : W32) : Statement (.call imm) :=
  encI_fits _ _ _ _ _ (by decide) (by have := imm.isLt; omega) (by have := imm.isLt; omega) (by have := imm.isLt; omega) (by have := imm.isLt; omega)
theorem calli (r : RForm) : Statement (.calli r) :=
  encR_fits _ _ _ (by decide) (by decide)
theorem ret (r : RForm) : Statement (.ret r) :=
  encR_fits _ _ _ (by decide) (by decide)
theorem exit (r : RForm) : Statement (.exit r) :=
  encR_fits _ _ _ (by decide) (by decide)
theorem nop (r : RForm) : Statement (.nop r) :=
  encR_fits _ _ _ (by decide) (by decide)
theorem elb (imm : W32) : Statement (.elb imm) :=
  encI_fits _ _ _ _ _ (by decide) (by have := imm.isLt; omega) (by have := imm.isLt; omega) (by have := imm.isLt; omega) (by have := imm.isLt; omega)
theorem ld (sx a64 : Bool) (m : MForm) : Statement (.ld sx a64 m) :=
  encM_fits _ _ _ (by decide) (by have := bit_lt sx; have := bit_lt a64; omega)
theorem st (a64 : Bool) (m : MForm) : Statement (.st a64 m) :=
  encM_fits _ _ _ (by decide) (by have := bit_lt a64; omega)
theorem lds (sx a64 : Bool) (m : MForm) : Statement (.lds sx a64 m) :=
  encM_fits _ _ _ (by decide) (by have := bit_lt sx; have := bit_lt a64; omega)
theorem sts (a64 : Bool) (m : MForm) : Statement (.sts a64 m) :=
  encM_fits _ _ _ (by decide) (by have := bit_lt a64; omega)
theorem idrd (k : IdSel) (r : RForm) : Statement (.idrd k r) :=
  encR_fits _ _ _ (by decide) (by have := encIdSel_lt k; omega)
theorem shfl (mode : ShflMode) (b64 : Bool) (r : RForm) : Statement (.shfl mode b64 r) :=
  encR_fits _ _ _ (by decide) (by have := encShfl_lt mode; have := bit_lt b64; omega)
theorem vote (op : VoteOp) (r : RForm) : Statement (.vote op r) :=
  encR_fits _ _ _ (by decide) (by have := encVote_lt op; omega)
theorem bcast (mode : BcastMode) (b64 : Bool) (r : RForm) : Statement (.bcast mode b64 r) :=
  encR_fits _ _ _ (by decide) (by have := encBcast_lt mode; have := bit_lt b64; omega)
theorem wred (t : RType) (op : RedOp) (r : RForm) : Statement (.wred t op r) :=
  encR_fits _ _ _ (by decide) (by have := encRType_lt t; have := encRedOp_lt op; omega)
theorem wscan (t : RType) (op : RedOp) (excl : Bool) (r : RForm) : Statement (.wscan t op excl r) :=
  encR_fits _ _ _ (by decide) (by have := encRType_lt t; have := encRedOp_lt op; have := bit_lt excl; omega)
theorem actm (run : Bool) (r : RForm) : Statement (.actm run r) :=
  encR_fits _ _ _ (by decide) (by have := bit_lt run; omega)
theorem binit (b : Fin 32) (r : RForm) : Statement (.binit b r) :=
  encRA_fits _ _ _ _ (by decide) (by have := b.isLt; omega) (by have := b.isLt; omega)
theorem barv (b : Fin 32) (r : RForm) : Statement (.barv b r) :=
  encRA_fits _ _ _ _ (by decide) (by have := b.isLt; omega) (by have := b.isLt; omega)
theorem bwait (b : Fin 32) (r : RForm) : Statement (.bwait b r) :=
  encRA_fits _ _ _ _ (by decide) (by have := b.isLt; omega) (by have := b.isLt; omega)
theorem barw (b : Fin 32) (r : RForm) : Statement (.barw b r) :=
  encRA_fits _ _ _ _ (by decide) (by have := b.isLt; omega) (by have := b.isLt; omega)
theorem binval (b : Fin 32) (r : RForm) : Statement (.binval b r) :=
  encRA_fits _ _ _ _ (by decide) (by have := b.isLt; omega) (by have := b.isLt; omega)
theorem brdf (fd : BrField) (b : Fin 32) (r : RForm) : Statement (.brdf fd b r) :=
  encRA_fits _ _ _ _ (by decide) (by have := encBrField_lt fd; have := b.isLt; omega) (by have := encBrField_lt fd; have := b.isLt; omega)
theorem mma (z : Bool) (t : Fin 16) (r : RForm) : Statement (.mma z t r) :=
  encRD_fits _ _ _ _ (by decide) (by have := bit_lt z; have := t.isLt; omega) (by have := bit_lt z; have := t.isLt; omega)
theorem mmasp (z : Bool) (t : Fin 16) (r : RForm) : Statement (.mmasp z t r) :=
  encRD_fits _ _ _ _ (by decide) (by have := bit_lt z; have := t.isLt; omega) (by have := bit_lt z; have := t.isLt; omega)
theorem tzero (t : Fin 16) (r : RForm) : Statement (.tzero t r) :=
  encRD_fits _ _ _ _ (by decide) (by have := t.isLt; omega) (by have := t.isLt; omega)
theorem tld (fm : TileFmt) (t : Fin 16) (r : RForm) : Statement (.tld fm t r) :=
  encRD_fits _ _ _ _ (by decide) (by have := encTileFmt_lt fm; have := t.isLt; omega) (by have := encTileFmt_lt fm; have := t.isLt; omega)
theorem tst (fm : TileFmt) (t : Fin 16) (r : RForm) : Statement (.tst fm t r) :=
  encRD_fits _ _ _ _ (by decide) (by have := encTileFmt_lt fm; have := t.isLt; omega) (by have := encTileFmt_lt fm; have := t.isLt; omega)
theorem tflg (op : TflgOp) (t : Fin 16) (r : RForm) : Statement (.tflg op t r) :=
  encRA_fits _ _ _ _ (by decide) (by have := encTflg_lt op; have := t.isLt; omega) (by have := encTflg_lt op; have := t.isLt; omega)
theorem lrel (r : RForm) : Statement (.lrel r) :=
  encR_fits _ _ _ (by decide) (by decide)
theorem gath (sx rp : Bool) (m : MForm) : Statement (.gath sx rp m) :=
  encM_fits _ _ _ (by decide) (by have := bit_lt sx; have := bit_lt rp; omega)
theorem scat (rp : Bool) (m : MForm) : Statement (.scat rp m) :=
  encM_fits _ _ _ (by decide) (by have := bit_lt rp; omega)
theorem pgreq (w : Bool) (m : MForm) : Statement (.pgreq w m) :=
  encMS_fits _ _ _ (by decide) (by have := bit_lt w; omega)
theorem dscd (m : MForm) : Statement (.dscd m) :=
  encMS_fits _ _ _ (by decide) (by decide)
theorem fence (mask : Fin 16) (m : MForm) : Statement (.fence mask m) :=
  encMS_fits _ _ _ (by decide) (by have := mask.isLt; omega)
theorem atom (op : AtomOp) (m : MForm) : Statement (.atom op m) :=
  encM_fits _ _ _ (by decide) (by have := encAtomOp_lt op; omega)
theorem cas (m : MForm) : Statement (.cas m) :=
  encM_fits _ _ _ (by decide) (by decide)
theorem red (op : AtomOp) (m : MForm) : Statement (.red op m) :=
  encM_fits _ _ _ (by decide) (by have := encAtomOp_lt op; omega)
theorem redx (op : AtomOp) (m : MForm) : Statement (.redx op m) :=
  encM_fits _ _ _ (by decide) (by have := encAtomOp_lt op; omega)
theorem ordfl (r : RForm) : Statement (.ordfl r) :=
  encR_fits _ _ _ (by decide) (by decide)
theorem pgqry (m : MForm) : Statement (.pgqry m) :=
  encMS_fits _ _ _ (by decide) (by decide)
theorem cpyj (r : RForm) : Statement (.cpyj r) :=
  encR_fits _ _ _ (by decide) (by decide)
theorem gatj (r : RForm) : Statement (.gatj r) :=
  encR_fits _ _ _ (by decide) (by decide)
theorem dgstj (r : RForm) : Statement (.dgstj r) :=
  encR_fits _ _ _ (by decide) (by decide)
theorem semadd (k : Fin 64) (r : RForm) : Statement (.semadd k r) :=
  encRA_fits _ _ _ _ (by decide) (by have := k.isLt; omega) (by have := k.isLt; omega)
theorem semset (k : Fin 64) (r : RForm) : Statement (.semset k r) :=
  encRA_fits _ _ _ _ (by decide) (by have := k.isLt; omega) (by have := k.isLt; omega)
theorem semrd (st : Bool) (k : Fin 64) (r : RForm) : Statement (.semrd st k r) :=
  encRA_fits _ _ _ _ (by decide) (by have := bit_lt st; have := k.isLt; omega) (by have := bit_lt st; have := k.isLt; omega)
theorem semwt (k : Fin 64) (r : RForm) : Statement (.semwt k r) :=
  encRA_fits _ _ _ _ (by decide) (by have := k.isLt; omega) (by have := k.isLt; omega)
theorem flgclr (r : RForm) : Statement (.flgclr r) :=
  encR_fits _ _ _ (by decide) (by decide)
theorem flgrd (r : RForm) : Statement (.flgrd r) :=
  encR_fits _ _ _ (by decide) (by decide)
theorem jcan (r : RForm) : Statement (.jcan r) :=
  encR_fits _ _ _ (by decide) (by decide)
theorem tready (r : RForm) : Statement (.tready r) :=
  encR_fits _ _ _ (by decide) (by decide)
theorem tstat (r : RForm) : Statement (.tstat r) :=
  encR_fits _ _ _ (by decide) (by decide)
theorem xld (sx : Bool) (m : MForm) : Statement (.xld sx m) :=
  encM_fits _ _ _ (by decide) (by have := bit_lt sx; omega)
theorem xst (m : MForm) : Statement (.xst m) :=
  encM_fits _ _ _ (by decide) (by decide)
theorem folrd (k : FolSel) (r : RForm) : Statement (.folrd k r) :=
  encR_fits _ _ _ (by decide) (by have := encFolSel_lt k; omega)
theorem trap (code : BitVec 24) : Statement (.trap code) :=
  encI_fits _ _ _ _ _ (by decide) (by have := code.isLt; omega) (by have := code.isLt; omega) (by have := code.isLt; omega) (by have := code.isLt; omega)
theorem rte (next : Bool) (r : RForm) : Statement (.rte next r) :=
  encR_fits _ _ _ (by decide) (by have := bit_lt next; omega)
theorem csrrd (n : Csr) (d : Opnd) : Statement (.csrrd n d) :=
  encI_fits _ _ _ _ _ (by decide) (by have := encOpnd_lt d; have := encCsr_lt n; omega) (by have := encOpnd_lt d; have := encCsr_lt n; omega) (by have := encOpnd_lt d; have := encCsr_lt n; omega) (by have := encOpnd_lt d; have := encCsr_lt n; omega)
theorem csrwr (n : Csr) (a : Opnd) : Statement (.csrwr n a) :=
  encI_fits _ _ _ _ _ (by decide) (by have := encOpnd_lt a; have := encCsr_lt n; omega) (by have := encOpnd_lt a; have := encCsr_lt n; omega) (by have := encOpnd_lt a; have := encCsr_lt n; omega) (by have := encOpnd_lt a; have := encCsr_lt n; omega)
theorem qrd (q : Fin 8) (k : Fin 7) : Statement (.qrd q k) :=
  encI_fits _ _ _ _ _ (by decide) (by have := q.isLt; have := k.isLt; omega) (by have := q.isLt; have := k.isLt; omega) (by have := q.isLt; have := k.isLt; omega) (by have := q.isLt; have := k.isLt; omega)
theorem qst (q : Fin 8) (m : MForm) : Statement (.qst q m) := by
  have := q.isLt
  simpa [Statement, encode] using encMWith_fits 0xB5 3 q.val m (by decide) (by decide) (by omega)
theorem restart (r : RForm) : Statement (.restart r) :=
  encR_fits _ _ _ (by decide) (by decide)
theorem pkwr (r : RForm) : Statement (.pkwr r) :=
  encR_fits _ _ _ (by decide) (by decide)
theorem glaunch (g : Guard) (rel : Bool) (addr : BitVec 40) (sten : Bool) (cw : Fin 64)
    : Statement (.glaunch g rel addr sten cw) :=
  encG_fits _ _ _ (by decide) (by have := bit_lt rel; have := bit_lt sten; have := addr.isLt; have := cw.isLt; omega)
theorem gcoll (g : Guard) (first cntm1 : BitVec 12) (step : BitVec 16) (sten : Bool) (cw : Fin 64)
    : Statement (.gcoll g first cntm1 step sten cw) :=
  encG_fits _ _ _ (by decide) (by have := bit_lt sten; have := first.isLt; have := cntm1.isLt; have := step.isLt; have := cw.isLt; omega)
theorem gphase (g : Guard) (budget : BitVec 48) : Statement (.gphase g budget) :=
  encG_fits _ _ _ (by decide) (by have := budget.isLt; omega)
theorem gif (g : Guard) (t f : BitVec 24) : Statement (.gif g t f) :=
  encG_fits _ _ _ (by decide) (by have := t.isLt; have := f.isLt; omega)
theorem gwhile (g : Guard) (off bound : BitVec 24) : Statement (.gwhile g off bound) :=
  encG_fits _ _ _ (by decide) (by have := off.isLt; have := bound.isLt; omega)
theorem gjmp (g : Guard) (off : BitVec 24) : Statement (.gjmp g off) :=
  encG_fits _ _ _ (by decide) (by have := off.isLt; omega)
theorem gwaitgc (g : Guard) (mode : GcMode) : Statement (.gwaitgc g mode) := by
  cases mode with
  | rel ticks => exact encG_fits _ _ _ (by decide) (by have := ticks.isLt; omega)
  | cw n => exact encG_fits _ _ _ (by decide) (by have := n.isLt; omega)
theorem gwaitsem (g : Guard) (threshold : W32) (cl : BitVec 5) (k : Fin 64)
    : Statement (.gwaitsem g threshold cl k) :=
  encG_fits _ _ _ (by decide) (by have := threshold.isLt; have := cl.isLt; have := k.isLt; omega)
theorem gsetc (g : Guard) (cw : Fin 64) (add : Bool) (value : W32) : Statement (.gsetc g cw add value) :=
  encG_fits _ _ _ (by decide) (by have := bit_lt add; have := cw.isLt; have := value.isLt; omega)
theorem gsig (g : Guard) (wait : Bool) (value : W32) : Statement (.gsig g wait value) :=
  encG_fits _ _ _ (by decide) (by have := bit_lt wait; have := value.isLt; omega)
theorem ghalt (g : Guard) (code : W32) : Statement (.ghalt g code) :=
  encG_fits _ _ _ (by decide) (by have := code.isLt; omega)
theorem blockStart (wv lane : Nat) : Statement (.blockStart wv lane) := by simp [Statement, encode]
theorem roundBoundary (slice : Nat) : Statement (.roundBoundary slice) := by simp [Statement, encode]
theorem resultDelivery (wv i : Nat) : Statement (.resultDelivery wv i) := by simp [Statement, encode]
theorem class0AccessEffect (i : Nat) : Statement (.class0AccessEffect i) := by simp [Statement, encode]
theorem class1Completion (i : Nat) : Statement (.class1Completion i) := by simp [Statement, encode]
theorem pageWalkRead (i : Nat) : Statement (.pageWalkRead i) := by simp [Statement, encode]
theorem elasticDeadline (wv : Nat) : Statement (.elasticDeadline wv) := by simp [Statement, encode]
theorem barrierResume (wv lane : Nat) : Statement (.barrierResume wv lane) := by simp [Statement, encode]
theorem releaseStallEnd (cl : Nat) : Statement (.releaseStallEnd cl) := by simp [Statement, encode]
theorem padAtomicChain (i : Nat) : Statement (.padAtomicChain i) := by simp [Statement, encode]
theorem redxRedirectWrite (i : Nat) : Statement (.redxRedirectWrite i) := by simp [Statement, encode]
theorem engineSpan (i : Nat) (proofFails : List Nat) : Statement (.engineSpan i proofFails) := by simp [Statement, encode]
theorem tileUpdate (i : Nat) : Statement (.tileUpdate i) := by simp [Statement, encode]
theorem copyChunk (i : Nat) : Statement (.copyChunk i) := by simp [Statement, encode]
theorem gatherChunk (i : Nat) : Statement (.gatherChunk i) := by simp [Statement, encode]
theorem digestChunk (i : Nat) : Statement (.digestChunk i) := by simp [Statement, encode]
theorem semaphoreResume (wv lane : Nat) : Statement (.semaphoreResume wv lane) := by simp [Statement, encode]
theorem stallResume (cl : Nat) : Statement (.stallResume cl) := by simp [Statement, encode]
theorem stallLimitExpiry (cl : Nat) : Statement (.stallLimitExpiry cl) := by simp [Statement, encode]
theorem memoryRequestDispatch (i : Nat) : Statement (.memoryRequestDispatch i) := by simp [Statement, encode]
theorem memorySlotService (pc : Nat) (ecc : List Ecc) : Statement (.memorySlotService pc ecc) := by simp [Statement, encode]
theorem eccRetry (pc : Nat) (ecc : List Ecc) : Statement (.eccRetry pc ecc) := by simp [Statement, encode]
theorem refresh (pc : Nat) : Statement (.refresh pc) := by simp [Statement, encode]
theorem slotTablePeriod (pc : Nat) : Statement (.slotTablePeriod pc) := by simp [Statement, encode]
theorem channelHalfWidth (ch : Nat) : Statement (.channelHalfWidth ch) := by simp [Statement, encode]
theorem sweepGranule (ecc : List Ecc) : Statement (.sweepGranule ecc) := by simp [Statement, encode]
theorem groomVisit (base : Nat) (find : GroomFind) : Statement (.groomVisit base find) := by simp [Statement, encode]
theorem faultRecordPost (asid : Nat) : Statement (.faultRecordPost asid) := by simp [Statement, encode]
theorem completionRecordRead (asid : Nat) : Statement (.completionRecordRead asid) := by simp [Statement, encode]
theorem faultRecordServed (asid seq : Nat) : Statement (.faultRecordServed asid seq) := by simp [Statement, encode]
theorem mappingFenceComplete (asid : Nat) : Statement (.mappingFenceComplete asid) := by simp [Statement, encode]
theorem windowCloseMerge (grid : Nat) : Statement (.windowCloseMerge grid) := by simp [Statement, encode]
theorem blockPlacement (part : Nat) : Statement (.blockPlacement part) := by simp [Statement, encode]
theorem waveStart (wv : Nat) : Statement (.waveStart wv) := by simp [Statement, encode]
theorem blockRetire (grid bl : Nat) : Statement (.blockRetire grid bl) := by simp [Statement, encode]
theorem blockBudgetExpiry (grid bl : Nat) : Statement (.blockBudgetExpiry grid bl) := by simp [Statement, encode]
theorem gridBudgetExpiry (grid : Nat) : Statement (.gridBudgetExpiry grid) := by simp [Statement, encode]
theorem queueEntryTake (part : Nat) : Statement (.queueEntryTake part) := by simp [Statement, encode]
theorem launchCheck (part : Nat) : Statement (.launchCheck part) := by simp [Statement, encode]
theorem gwaitgcTargetReached (part : Nat) : Statement (.gwaitgcTargetReached part) := by simp [Statement, encode]
theorem gwaitsemSatisfied (part i : Nat) : Statement (.gwaitsemSatisfied part i) := by simp [Statement, encode]
theorem phaseDeadlineExpiry (part : Nat) : Statement (.phaseDeadlineExpiry part) := by simp [Statement, encode]
theorem entryFire (part e : Nat) : Statement (.entryFire part e) := by simp [Statement, encode]
theorem transmitSlotRead (port frame pos : Nat) : Statement (.transmitSlotRead port frame pos) := by simp [Statement, encode]
theorem slotArrival (port i : Nat) : Statement (.slotArrival port i) := by simp [Statement, encode]
theorem tagSlotArrival (port frame : Nat) (tagBad : Bool) (tag : List Byte) (slots : List RxSlot)
    : Statement (.tagSlotArrival port frame tagBad tag slots) := by simp [Statement, encode]
theorem syncSlotArrival (port frame : Nat) (sync : SyncSlot) : Statement (.syncSlotArrival port frame sync) := by simp [Statement, encode]
theorem retrySlotSend (port frame : Nat) : Statement (.retrySlotSend port frame) := by simp [Statement, encode]
theorem folioBoundary : Statement (.folioBoundary) := by simp [Statement, encode]
theorem resyncResume (b : Nat) : Statement (.resyncResume b) := by simp [Statement, encode]
theorem ptpMessage (port : Nat) (msg : PtpMsg) : Statement (.ptpMessage port msg) := by simp [Statement, encode]
theorem dieLinkRetry (i : Nat) (ok : Bool) : Statement (.dieLinkRetry i ok) := by simp [Statement, encode]
theorem portTrainingFailure (port : Nat) : Statement (.portTrainingFailure port) := by simp [Statement, encode]
theorem attestResponse (port : Nat) (resp : AttestResp) : Statement (.attestResponse port resp) := by simp [Statement, encode]
theorem controlRequestTimeout (port : Nat) : Statement (.controlRequestTimeout port) := by simp [Statement, encode]
theorem heartbeat (port : Nat) (answered : Bool) : Statement (.heartbeat port answered) := by simp [Statement, encode]
theorem preemptTakeEffect (part : Nat) : Statement (.preemptTakeEffect part) := by simp [Statement, encode]
theorem waveSave (wv : Nat) : Statement (.waveSave wv) := by simp [Statement, encode]
theorem preemptLimitExpiry (part : Nat) : Statement (.preemptLimitExpiry part) := by simp [Statement, encode]
theorem eventRingWrite : Statement (.eventRingWrite) := by simp [Statement, encode]
theorem vfMoveComplete : Statement (.vfMoveComplete) := by simp [Statement, encode]
theorem currentLimitExceeded (cl : Nat) : Statement (.currentLimitExceeded cl) := by simp [Statement, encode]
theorem currentLowStepDown (cl : Nat) : Statement (.currentLowStepDown cl) := by simp [Statement, encode]
theorem budgetRecompute (meanW : Nat) : Statement (.budgetRecompute meanW) := by simp [Statement, encode]
theorem rackCapExpiry : Statement (.rackCapExpiry) := by simp [Statement, encode]
theorem reset (trained : Bool) : Statement (.reset trained) := by simp [Statement, encode]
theorem bar2Access (port : Bool) (write : Bool) (bound : Bool) (off len : Nat) (data : List Byte)
    : Statement (.bar2Access port write bound off len data) := by simp [Statement, encode]
theorem hostSpdmRequest (msg : SpdmMsg) : Statement (.hostSpdmRequest msg) := by simp [Statement, encode]
theorem qtailWrite (port : Bool) (part : Fin 8) (value : W32) : Statement (.qtailWrite port part value) := by simp [Statement, encode]
theorem failoverWrite (port : Bool) (value : W32) : Statement (.failoverWrite port value) := by simp [Statement, encode]
theorem vftgtWrite (port : Bool) (value : W32) : Statement (.vftgtWrite port value) := by simp [Statement, encode]
theorem passhostWrite (port : Bool) (value : W64) : Statement (.passhostWrite port value) := by simp [Statement, encode]
theorem ovrceilWrite (port : Bool) (value : W64) : Statement (.ovrceilWrite port value) := by simp [Statement, encode]
theorem ratioWrite (port : Bool) (value : BitVec 192) : Statement (.ratioWrite port value) := by simp [Statement, encode]
theorem slotTableWrite (port : Bool) (pc i : Nat) (value : Byte)
    : Statement (.slotTableWrite port pc i value) := by simp [Statement, encode]
theorem registerWrite (port : Bool) (off : Nat) (value : W64) : Statement (.registerWrite port off value) := by simp [Statement, encode]
theorem partdef (port : Bool) : Statement (.partdef port) := by simp [Statement, encode]
theorem asidset (port : Bool) : Statement (.asidset port) := by simp [Statement, encode]
theorem mapfence (port : Bool) : Statement (.mapfence port) := by simp [Statement, encode]
theorem terminate (port : Bool) : Statement (.terminate port) := by simp [Statement, encode]
theorem semassign (port : Bool) : Statement (.semassign port) := by simp [Statement, encode]
theorem retire (port : Bool) : Statement (.retire port) := by simp [Statement, encode]
theorem preempt (port : Bool) : Statement (.preempt port) := by simp [Statement, encode]
theorem resume (port : Bool) : Statement (.resume port) := by simp [Statement, encode]
theorem mresume (port : Bool) : Statement (.mresume port) := by simp [Statement, encode]
theorem gsigack (port : Bool) : Statement (.gsigack port) := by simp [Statement, encode]
theorem mkeyload (port : Bool) (slot : BitVec 8) : Statement (.mkeyload port slot) := by simp [Statement, encode]
theorem mkeyunload (port : Bool) (slot : BitVec 8) : Statement (.mkeyunload port slot) := by simp [Statement, encode]
theorem jkeyload (port : Bool) (slot : BitVec 8) : Statement (.jkeyload port slot) := by simp [Statement, encode]
theorem jkeyunload (port : Bool) (slot : BitVec 8) : Statement (.jkeyunload port slot) := by simp [Statement, encode]
theorem attest (port : Bool) : Statement (.attest port) := by simp [Statement, encode]
theorem revoke (port : Bool) : Statement (.revoke port) := by simp [Statement, encode]
theorem schedload (port : Bool) : Statement (.schedload port) := by simp [Statement, encode]
theorem tmplload (port : Bool) : Statement (.tmplload port) := by simp [Statement, encode]
theorem widthup (port : Bool) (clear : Bool) : Statement (.widthup port clear) := by simp [Statement, encode]
theorem mxreset (port : Bool) : Statement (.mxreset port) := by simp [Statement, encode]
theorem rackcap (mgmt : Option (BitVec 128)) (port : Bool) : Statement (.rackcap mgmt port) := by simp [Statement, encode]
theorem unassignedOpcode (w : W64) : Statement (.unassignedOpcode w) := by
  simpa [Statement, encode] using w.isLt
theorem illegalGraphWord (w : W64) : Statement (.illegalGraphWord w) := by
  simpa [Statement, encode] using w.isLt
theorem voltageSettled : Statement (.voltageSettled) := by simp [Statement, encode]
theorem syncSlotSend (port frame : Nat) (ptp : BitVec 512) : Statement (.syncSlotSend port frame ptp) := by simp [Statement, encode]
theorem tagSlotSend (port frame : Nat) : Statement (.tagSlotSend port frame) := by simp [Statement, encode]

end WordsFit

end Sys2Proof.Laws
end

