-- ==== Sys2Proof/Tests/Slice0.lean ====
section
/-! SUPPORT. Tests: words of the spec against the decoder, words that the checks refuse, and for every statement a state
and operands that meet its hypotheses. Each test looks at one operation or one step of a small state. -/

set_option Elab.async false

namespace Sys2Proof.Tests

open Sys2Proof.Machine

/-! ## A wave with one instruction fetched -/

/-- Fields of an R-format word with D, A, B and C. -/
def rr (d a b c : Opnd) : RForm := ⟨d, a, b, c, 0, false, .rne, false, false, 0⟩
/-- Fields of an M-format word of 32 bits. -/
def mm (d a : Opnd) (sp : Space) (flagged : Bool) : MForm := ⟨.b32, d, a, none, sp, flagged, .plain, .wave, 0, false, 0⟩
/-- Fields of a word without operands. -/
def r0 : RForm := rr .zero .zero .zero .zero

def codeOf (i : Instr) : Nat := (encode i).headD 0 + 2 ^ 64 * (encode i).getD 1 0

/-- The first device after reset with a program: one wave of one path, which has fetched the instruction. -/
def probe (i : Instr) : State :=
  { State.reset.withFetchWord 64 (codeOf i) with cur := some ⟨0, 0xFFFFFFFF, 0x1008, 0x1010⟩ }

/-- The wave of a path that issues. -/
def curWave (s : State) : Wave := (s.waveOf (s.cur.getD default).uid).getD default

/-- Whether the path of a state stands, and the instruction passes the common checks on it. -/
def standsB (s : State) : Bool :=
  match s.cur with
  | none => false
  | some c => match s.waveOf c.uid with
    | none => false
    | some w => c.lanes != 0 && (List.range 32).all fun l => !c.lanes.getLsbD l || (w.th l).status == .run
def issuesB (s : State) (i : Instr) : Bool := standsB s && (s.frontTrap i).isNone

theorem stands_of {s : State} (h : standsB s = true) : s.Stands (s.cur.getD default) (curWave s) := by
  unfold standsB at h
  split at h
  · cases h
  · rename_i c hc
    split at h
    · cases h
    · rename_i w hw
      simp only [Bool.and_eq_true, bne_iff_ne, ne_eq, List.all_eq_true, List.mem_range, Bool.or_eq_true,
        Bool.not_eq_true', beq_iff_eq] at h
      have hcur : s.cur.getD default = c := by rw [hc]; rfl
      have hwave : curWave s = w := by unfold curWave; rw [hcur, hw]; rfl
      refine ⟨by rw [hcur]; exact hc, by rw [hcur, hwave]; exact hw, by rw [hcur]; exact h.1, fun l hl hb => ?_⟩
      rw [hcur] at hb
      rw [hwave]
      cases h.2 l hl with
      | inl h => rw [h] at hb; cases hb
      | inr h => exact h

theorem issues_of {s : State} {i : Instr} (h : issuesB s i = true) :
    s.Issues i (s.cur.getD default) (curWave s) := by
  unfold issuesB at h
  rw [Bool.and_eq_true] at h
  exact ⟨stands_of h.1, Option.isNone_iff_eq_none.mp h.2⟩

/-! ## Every wave instruction: one form that is well formed, is read back from its word, and passes the common checks -/

def v1 : Opnd := .v 1
def v2 : Opnd := .v 2
def v4 : Opnd := .v 4
def s2 : Opnd := .s 2
def s4 : Opnd := .s 4
def z : Opnd := .zero

def samplesInt : List Instr :=
  [.iadd .i32 (rr v2 v1 s2 z), .isub .ui32 (rr v2 v1 s2 z), .imul .i64 (rr v2 v4 s2 z), .imulhi .ui64 (rr v2 v4 s2 z),
   .imad .i16 (rr v2 v1 s2 v4), .idiv .i32 (rr v2 v1 s2 z), .irem .ui64 (rr v2 v4 s2 z), .imin .i8 (rr v2 v1 s2 z),
   .imax .ui8 (rr v2 v1 s2 z), .iabs .i32 (rr v2 v1 z z), .ineg .i64 (rr v2 v4 z z), .land .i32 (rr v2 v1 s2 z),
   .lor .ui32 (rr (.m 1) (.m 2) s2 z), .lxor .i64 (rr v2 v4 s2 z), .landn .i32 (rr v2 v1 s2 z), .lnot .i8 (rr v2 v1 z z),
   .shl .i32 (rr v2 v1 s2 z), .shr .ui64 (rr v2 v4 s2 z), .sar .i16 (rr v2 v1 s2 z), .rot .i32 true (rr v2 v1 s2 z),
   .bfx .i32 (rr v2 v1 s2 z), .bfi .i64 (rr v2 v4 s2 v1), .popc .i64 (rr v2 v4 z z), .clz .ui32 (rr v2 v1 z z),
   .ctz .i32 (rr v2 v1 z z), .brev .i64 (rr v2 v4 z z), .icmp .lt .i32 (rr (.m 2) v1 s2 z), .sel .i32 (rr v2 v1 s2 (.m 1)),
   .mov .i32 (rr .x s2 z z), .movi .d v2 0x3F800000, .movl .ui64 v4 0x0123456789ABCDEF, .lea .i64 3 (rr v2 v4 s2 v1)]

def samplesFloat : List Instr :=
  [.fadd .f (rr v2 v1 s2 z), .fsub .d (rr v2 v4 s2 z), .fmul .h (rr v2 v1 s2 z), .fma .bf (rr v2 v1 s2 v4),
   .fmin .f (rr v2 v1 s2 z), .fmax .d (rr v2 v4 s2 z), .fcmp .lt .f (rr (.m 1) v1 s2 z), .fclass .d (rr v2 v4 z z),
   .fdiv .f (rr v2 v1 s2 z), .fsqrt .d (rr v2 v4 z z), .frcp .f (rr v2 v1 z z), .frsq .f (rr v2 v1 z z),
   .fexp .f (rr v2 v1 z z), .fexp2 .f (rr v2 v1 z z), .flog .f (rr v2 v1 z z), .flog2 .f (rr v2 v1 z z),
   .ferf .f (rr v2 v1 z z), .ferfc .f (rr v2 v1 z z), .fint .d (rr v2 v4 z z), .fscale .f false (rr v2 v1 s2 z),
   .ffrexp .d true (rr v1 v4 z z), .cvt .d .f (rr v2 v1 z z), .fxrd (rr v2 z z z), .fxclr (rr z s2 z z),
   .fxen (rr z s2 z z), .dot4 .i8 (rr v2 v1 s2 v4), .dot8 .i4 (rr v2 v1 s2 v4), .pack .bf 0 (rr v2 v1 s2 z),
   .unpack .i8 1 (rr v2 v1 z z), .mxq .e4m3 true (rr s2 v1 z z), .fsgn .f .cpy (rr v2 v1 s2 z)]

def samplesControl : List Instr :=
  [.bra 1, .brc true (.m 1) 2, .jmpi (rr z s2 z z), .call 1, .calli (rr z v2 z z), .ret r0, .exit r0, .nop r0, .elb 3,
   .ld false false (mm v2 v1 .slice false), .st false (mm v2 v1 .cluster false), .lds false false (mm s2 s4 .die false),
   .sts false (mm s2 s4 .slice false), .trap 0x42, .csrrd .tcause v2, .csrwr .ths v2, .qrd 3 1, .pkwr (rr z s4 (.s 5) z)]

def samplesWave : List Instr :=
  [.idrd .gtid (rr v2 z z z), .shfl .up false (rr v2 v1 s2 z), .vote .ballot (rr (.m 1) (.m 2) z z),
   .bcast .first true (rr s2 v4 z z), .wred .f .sum (rr s2 v1 z z), .wscan .i32 .max true (rr v2 v1 z z),
   .actm true (rr (.m 1) z z z), .binit 3 (rr z z s2 z), .barv 31 (rr v2 z z z), .bwait 0 (rr z z s2 z), .barw 1 r0,
   .binval 2 r0, .brdf .arr 4 (rr s2 z z z), .mma true 5 (rr z (.vx 0) s2 v1), .mmasp false 15 (rr z (.vx 0) s2 v1),
   .tzero 3 r0, .tld .bf 2 (rr z s2 z z), .tst .f 2 (rr z s2 z z), .tflg .rdc 7 (rr s2 z z z), .lrel r0]

def samplesMemory : List Instr :=
  [.gath false false (mm v2 v1 .slice false), .scat false (mm v2 v1 .cluster false),
   .pgreq true { mm z v4 .main true with sz := .b8 }, .dscd { mm z v4 .main true with sz := .b8 },
   .fence 1 { mm z z .slice false with sz := .b8, order := .acqRel, scope := .block },
   .atom .add (mm v2 v1 .slice false), .cas (mm v2 v1 .cluster false), .red .smax (mm v2 v1 .cluster false),
   .redx .add (mm v2 v1 .cluster false), .ordfl r0, .pgqry { mm v2 v4 .main false with sz := .b8 }]

def samplesEngines : List Instr :=
  [.cpyj (rr s2 s4 z z), .gatj (rr s2 s4 z z), .dgstj (rr s2 s4 z z), .semadd 3 (rr z z s2 z), .semset 63 (rr z z s2 z),
   .semrd true 0 (rr s2 z z z), .semwt 5 (rr s4 z s2 z), .flgclr (rr z s2 z z), .flgrd (rr s2 z z z), .jcan (rr s2 s4 z z),
   .tready (rr z s2 z z), .tstat (rr s2 s4 z z), .xld false (mm v2 s4 .slice false), .xst (mm v2 s4 .slice false),
   .folrd .g0 (rr s2 z z z), .rte true r0, .restart r0, .qst 2 ⟨.b64, z, s4, none, .main, true, .plain, .wave, 0, false, 0⟩]

def readsBack (i : Instr) : Bool := i.wf && match decodeBytes i.bytes with | .ok j => j == i | .error _ => false
def runs (i : Instr) : Bool := readsBack i && issuesB (probe i) i

theorem test_samples_int : samplesInt.all runs = true := by decide +kernel
theorem test_samples_float : samplesFloat.all runs = true := by decide +kernel
theorem test_samples_control : samplesControl.all runs = true := by decide +kernel
theorem test_samples_wave : samplesWave.all runs = true := by decide +kernel
theorem test_samples_memory : samplesMemory.all runs = true := by decide +kernel
theorem test_samples_engines : samplesEngines.all runs = true := by decide +kernel

/-! ## The hypotheses of the statements about instructions are met -/

/-- In a state, the path of its current wave issues an instruction. -/
abbrev Iss (s : State) (i : Instr) : Prop := s.Issues i (s.cur.getD default) (curWave s)

theorem witness_IntegerArithmetic : (.iadd .i32 (rr v2 v1 s2 z), 1, fun a b _ => a + b) ∈
    arithRule .i32 (rr v2 v1 s2 z) ++ divRule .i32 (rr v2 v1 s2 z) ∧
    Iss (probe (.iadd .i32 (rr v2 v1 s2 z))) (.iadd .i32 (rr v2 v1 s2 z)) :=
  ⟨List.Mem.head _, issues_of (by decide +kernel)⟩

theorem witness_IntegerBits : (.land .i32 (rr v2 v1 s2 z), fun a b _ _ i => a i && b i) ∈ bitRule .i32 (rr v2 v1 s2 z) ∧
    Iss (probe (.land .i32 (rr v2 v1 s2 z))) (.land .i32 (rr v2 v1 s2 z)) :=
  ⟨List.Mem.head _, issues_of (by decide +kernel)⟩

theorem witness_IntegerOther :
    (∃ sat f, (.shl .i32 (rr v2 v1 s2 z), sat, f) ∈ scaleRule .i32 (rr v2 v1 s2 z) (curWave (probe (.shl .i32 (rr v2 v1 s2 z)))))
    ∧ Iss (probe (.shl .i32 (rr v2 v1 s2 z))) (.shl .i32 (rr v2 v1 s2 z))
    ∧ (∃ f, (.popc .i64 (rr v2 v4 z z), f) ∈ countRule .i64 (rr v2 v4 z z))
    ∧ Iss (probe (.popc .i64 (rr v2 v4 z z))) (.popc .i64 (rr v2 v4 z z))
    ∧ (ICond.eq, fun a b => a = b) ∈ icmpRule
    ∧ Iss (probe (.icmp .eq .i32 (rr (.m 2) v1 s2 z))) (.icmp .eq .i32 (rr (.m 2) v1 s2 z))
    ∧ Iss (probe (.sel .i32 (rr v2 v1 s2 (.m 1)))) (.sel .i32 (rr v2 v1 s2 (.m 1)))
    ∧ Iss (probe (.mov .i32 (rr .x s2 z z))) (.mov .i32 (rr .x s2 z z)) :=
  ⟨⟨_, _, List.Mem.head _⟩, issues_of (by decide +kernel), ⟨_, List.Mem.head _⟩, issues_of (by decide +kernel),
    List.Mem.head _, issues_of (by decide +kernel), issues_of (by decide +kernel), issues_of (by decide +kernel)⟩

theorem witness_Literals : Iss (probe (.movi .d v2 0x3F800000)) (.movi .d v2 0x3F800000) ∧
    Iss (probe (.movl .ui64 v4 0x0123456789ABCDEF)) (.movl .ui64 v4 0x0123456789ABCDEF) :=
  ⟨issues_of (by decide +kernel), issues_of (by decide +kernel)⟩

theorem witness_FloatResults : (∃ dk lat f, (.fadd .f (rr v2 v1 s2 z), dk, lat, f) ∈
      floatRule .f (rr v2 v1 s2 z) (curWave (probe (.fadd .f (rr v2 v1 s2 z)))))
    ∧ Iss (probe (.fadd .f (rr v2 v1 s2 z))) (.fadd .f (rr v2 v1 s2 z)) :=
  ⟨⟨_, _, _, List.Mem.head _⟩, issues_of (by decide +kernel)⟩

theorem witness_FloatRounds : binary32 ∈ [binary64, binary32, binary16, bf16] ∧ (1 : Nat) ≠ 0 := by
  exact ⟨List.Mem.tail _ (List.Mem.head _), by decide⟩

/-- 1.0 in binary32, whose value is 2^23 * 2^-23, and the zero of sign 1. -/
theorem witness_FloatExact : (ftype .f).read 0x3F800000 = .fin false 8388608 (-23) ∧
    (ftype .f).read 0x80000000 = .fin true 0 (-149) := by decide +kernel

theorem witness_FloatSpecials : binary32.read 0x7F800001 = .nan true ∧ binary32.read 0x7FC00000 = .nan false
    ∧ binary32.read 0x7F800000 = .inf false ∧ binary32.read 0xFF800000 = .inf true
    ∧ binary32.read 0x80000000 = .fin true 0 (-149) ∧ binary32.read 0x00000001 = .fin false 1 (-149) := by
  decide +kernel

theorem witness_FloatOrder : (0x80000001 : Nat) < 2 ^ (ftype .f).bits ∧ (ftype .f).read 0x80000001 = .fin true 1 (-149) ∧
    (ftype .f).read 1 = .fin false 1 (-149) ∧ scaled true 1 (-149) (-149) < scaled false 1 (-149) (-149) := by
  decide +kernel

theorem witness_FloatQueries : Iss (probe (.fcmp .lt .f (rr (.m 1) v1 s2 z))) (.fcmp .lt .f (rr (.m 1) v1 s2 z)) ∧
    Iss (probe (.fclass .d (rr v2 v4 z z))) (.fclass .d (rr v2 v4 z z)) ∧
    Iss (probe (.fsgn .f .cpy (rr v2 v1 s2 z))) (.fsgn .f .cpy (rr v2 v1 s2 z)) :=
  ⟨issues_of (by decide +kernel), issues_of (by decide +kernel), issues_of (by decide +kernel)⟩

/-- A conversion of 2.5 to an integer is rounded. -/
theorem witness_Convert : Iss (probe (.cvt .i32 .f (rr v2 v1 z z))) (.cvt .i32 .f (rr v2 v1 z z)) ∧
    (cvtFloat .f).read 0x40200000 = .fin false 10485760 (-22) ∧ cvtInt .i32 = some .i32 :=
  ⟨issues_of (by decide +kernel), by decide +kernel, rfl⟩

theorem witness_ExceptionStatus : Iss (probe (.fxrd (rr v2 z z z))) (.fxrd (rr v2 z z z)) ∧
    Iss (probe (.fxclr (rr z s2 z z))) (.fxclr (rr z s2 z z)) ∧ Iss (probe (.fxen (rr z s2 z z))) (.fxen (rr z s2 z z)) :=
  ⟨issues_of (by decide +kernel), issues_of (by decide +kernel), issues_of (by decide +kernel)⟩

theorem witness_PackedFormats : (∃ dk f, (.dot4 .i8 (rr v2 v1 s2 v4), dk, f) ∈
      packedRule .i8 0 (rr v2 v1 s2 v4) (curWave (probe (.dot4 .i8 (rr v2 v1 s2 v4)))))
    ∧ Iss (probe (.dot4 .i8 (rr v2 v1 s2 v4))) (.dot4 .i8 (rr v2 v1 s2 v4))
    ∧ Iss (probe (.mxq .e4m3 true (rr s2 v1 z z))) (.mxq .e4m3 true (rr s2 v1 z z))
    ∧ Iss (probe (.mxq .mxi8 false (rr v2 v1 z z))) (.mxq .mxi8 false (rr v2 v1 z z)) :=
  ⟨⟨_, _, List.Mem.head _⟩, issues_of (by decide +kernel), issues_of (by decide +kernel), issues_of (by decide +kernel)⟩

/-- Four, its square and reciprocal in reach of the statement's grid; minus four, one, a smallest number, and the operands that
are no number. -/
theorem witness_FloatRoots : binary32.read 0x40800000 = .fin false 8388608 (-21) ∧ binary32.read 0xC0800000 = .fin true 8388608 (-21) ∧
    binary32.read 0 = .fin false 0 (-149) ∧ binary32.read 0x7FC00000 = .nan false ∧ binary32.read 0xFF800000 = .inf true ∧
    (2 * (-149) ≤ (-21 : Int) ∧ (-21 : Int) + 2 * (-149) ≤ 0 ∧ (-149 : Int) ≤ 1 - (binary32.bias : Int) - binary32.mbits) := by
  decide +kernel

/-- The square root and the reciprocal of 4, the reciprocal root of it, and the outcomes at the edges (05 R105). -/
theorem test_roots : fSqrt .f .rne 0x40800000 = (0x40000000, 0) ∧ fRcp .f .rne false 0x40800000 = (0x3E800000, 0) ∧
    fRsq .f .rne 0x40800000 = (0x3F000000, 0) ∧ fSqrt .f .rne 0x80000000 = (0x80000000, 0) ∧
    fRcp .f .rne false 0x80000000 = (0xFF800000, fDivzero) ∧ fRsq .f .rne 0xC0800000 = (0x7FC00000, fInvalid) := by decide +kernel

/-- 2.5 rounds to 2 and to 3; its exponent is 1 and its significand 1.25; by a scale of 2^-1 it is 1.25 (05 R108 to R110). -/
theorem test_integral : fInt .f .rne 0x40200000 = (0x40000000, fInexact) ∧ fInt .f .rup 0x40200000 = (0x40400000, fInexact) ∧
    fFrexp .f true 0x40200000 = (1, 0) ∧ fFrexp .f false 0x40200000 = (0x3FA00000, 0) ∧
    fScale .f true .rne false 0x40200000 126 = (0x3FA00000, 0) ∧ fScale .f true .rne false 0x40200000 0xFF = (0x7FC00000, 0) ∧
    fScale .f false .rne false 0x40200000 0xFFFFFFFF = (0x3FA00000, 0) := by decide +kernel

/-- 3.0 is 3 = 1.5 * 2; 2^3 = 8; log2 8 = 3, log2 1 = 0 (05 R106). -/
theorem test_functions : binary32.read 0x40400000 = .fin false 12582912 (-22) ∧ fExp2 .f .rne false 0x40400000 = (0x41000000, 0) ∧
    binary32.read 0x41000000 = .fin false (2 ^ 23) (-20) ∧ fLog .f true .rne 0x41000000 = (0x40400000, 0) ∧
    fLog .f false .rne 0x3F800000 = (0, 0) ∧ fErf .f .rne 0xFF800000 = (0xBF800000, 0) ∧ fErfc .f .rne 0xFF800000 = (0x40000000, 0) := by
  decide +kernel

/-- Integer to float, NaN and infinity to integer, and between two formats: the pairs of 02 R42 and 05 R113. -/
theorem witness_ConvertValues : (cvtInt .f = none ∧ cvtInt .i32 = some .i32 ∧ ival .i32 0xFFFFFFFF = -1) ∧
    fCvt .f .i32 .rne false 0xFFFFFFFF = (0xBF800000, 0) ∧ fCvt .i32 .f .rne false 0x7FC00000 = (0, fInvalid) ∧
    fCvt .i32 .f .rne false 0xFF800000 = (0x80000000, fInvalid) ∧ fCvt .h .f .rne false 0x477FF000 = (0x7C00, fOverflow ||| fInexact) ∧
    fCvt .h .f .rne true 0x477FF000 = (0x7BFF, fOverflow ||| fInexact) ∧ fCvt .f .f .rne false 0x7F800001 = (0x7FC00000, fInvalid) := by
  decide +kernel

/-- Elements of E2M1 and E4M3 that are numbers, an infinity and a NaN; of an integer code none is a float. -/
theorem witness_DotValues : elemInt .e2m1 = none ∧ Elem.e2m1.dot8Ok = true ∧ elemInt .e4m3 = none ∧ Elem.e4m3.dot4Ok = true ∧
    elemVal .e2m1 2 = .fin false 2 (-1) ∧ elemVal .e5m2 0x7C = .inf false ∧ elemVal .e4m3 0x7F = .nan false ∧
    Elem.e2m1.count = 8 ∧ Elem.e4m3.count = 4 := by decide +kernel

/-- Eight products of ones: 8, and with C = 1 it is 9 (05 R117). -/
theorem test_dot : dotVal .e2m1 .rne false 0x22222222 0x22222222 0x3F800000 = (0x41100000, 0) := by decide +kernel

/-- 1.0 packed as E4M3, with a saturating overflow beside it; as i8, with -1 and a clamp; and read back (05 R118, R119). -/
theorem witness_ElementValues : elemFmt .e4m3 = some e4m3 ∧ 1 < Elem.e4m3.count / 2 ∧ elemInt .i8 = some (8, true) ∧
    packVal .e4m3 1 .rne true 0x00001234 0x3F800000 0x7F7FFFFF = (0x7E381234, fOverflow ||| fInexact) ∧
    packVal .i8 0 .rne true 0xABCD0000 0xFFFFFFFF 300 = (0xABCD7FFF, 0) ∧
    unpackVal .i8 0 0x7FFF = (0x7F * 2 ^ 32 + 0xFFFFFFFF, 0) ∧ unpackVal .e4m3 1 0x7E380000 = (0x43E00000 * 2 ^ 32 + 0x3F800000, 0) := by
  decide +kernel

/-- The greatest magnitude of 1.0 and 0.5 is 2^0, whatever the grid. -/
theorem witness_QuantiseValues : binary32.read 0x3F800000 = .fin false 8388608 (-23) ∧ binary32.read 0x3F000000 = .fin false 8388608 (-24) ∧
    (∀ q : Int, q ≤ -23 → q ≤ 0 → 2 ^ (0 - q).toNat ≤ 8388608 * 2 ^ (-23 - q).toNat ∧ 8388608 * 2 ^ (-23 - q).toNat < 2 ^ (0 + 1 - q).toNat) ∧
    ∀ q : Int, q ≤ -24 → q ≤ 0 → 8388608 * 2 ^ (-24 - q).toNat < 2 ^ (0 + 1 - q).toNat := by
  have pos := fun (n : Nat) => Nat.two_pow_pos n
  have two : (8388608 : Nat) = 2 ^ 23 := by decide
  refine ⟨by decide +kernel, by decide +kernel, fun q h _ => ?_, fun q h _ => ?_⟩
  · rw [two, ← Nat.pow_add, show 23 + (-23 - q).toNat = (0 - q).toNat by omega,
      show (0 + 1 - q).toNat = (0 - q).toNat + 1 by omega, Nat.pow_succ]
    have := pos (0 - q).toNat
    omega
  · rw [two, ← Nat.pow_add]
    exact Nat.pow_lt_pow_right (by decide) (by omega)

/-- Scale and codes of 1.0 in E4M3, and with a NaN among the values (05 R120). -/
theorem test_quantise : mxScale .e4m3 [0x3F800000, 0x3F000000] = 119 ∧ mxScale .e4m3 [0x3F800000, 0x7FC00000] = 0xFF ∧
    mxElem .e4m3 .rne false 119 0x3F800000 = (0x78, 0) ∧ mxElem .mxi8 .rne false 127 0x3F800000 = (0x40, 0) ∧
    mxElem .e4m3 .rne false 0xFF 0x7FC00000 = (0, fInvalid) := by decide +kernel

/-- Three contributions: the first two join, the third passes up. -/
theorem witness_ReductionTree : [0x3F800000, 0x3F800000, 0x3F800000].length ≤ 2 ^ 16 ∧
    redTree .f .sum [0x3F800000, 0x3F800000, 0x3F800000] = some (0x40400000, 0) ∧
    (RType.f, FType.f) ∈ [(RType.f, FType.f), (.d, .d), (.h, .h), (.bf, .bf)] ∧
    (0x3F800000 : Nat) < 2 ^ (ftype .f).bits ∧ (ftype .f).read 0x7F800001 = .nan true := by
  exact ⟨by decide, by decide +kernel, List.Mem.head _, by decide +kernel, by decide +kernel⟩

/-- Products of 1 and of 2^-60, which the window keeps, and of 2^-61, which it cuts off (02 R47). -/
theorem witness_WindowValues : (∀ q : Int, q ≤ 0 → q ≤ 0 → 2 ^ (0 - q).toNat ≤ 1 * 2 ^ (0 - q).toNat ∧ 1 * 2 ^ (0 - q).toNat < 2 ^ (0 + 1 - q).toNat) ∧
    windowSum [⟨.fin false 1 0, false⟩, ⟨.fin true 1 (-61), false⟩] = (0x3F800000, 0) ∧
    windowSum [⟨.fin false 1 0, false⟩, ⟨.fin true 1 (-24), false⟩] = (0x3F7FFFFF, 0) ∧
    windowSum [⟨.fin true 0 0, false⟩] = (0x80000000, 0) ∧
    windowSum [⟨.inf true, false⟩, ⟨.inf false, false⟩] = (0x7FC00000, fInvalid) := by
  refine ⟨fun q _ _ => ?_, by decide +kernel, by decide +kernel, by decide +kernel, by decide +kernel⟩
  have := Nat.two_pow_pos (0 - q).toNat
  rw [show (0 + 1 - q).toNat = (0 - q).toNat + 1 by omega, Nat.pow_succ]
  omega

/-- Operations of E4M3 by E2M3, with both scales: dense and pruned. -/
theorem witness_TileElements : ∀ sparse : Bool, ∃ (m : Mma) (panel metaB scales : List Byte), m.sparse = sparse ∧
    m.afmt ∈ [Elem.e4m3, .e5m2, .e3m2, .e2m3, .mxi8] ∧ m.bfmt ∈ [Elem.e4m3, .e5m2, .e3m2, .e2m3, .mxi8] ∧ m.a.length = 3072 ∧
    panel.length = (if m.sparse then 49152 else 24576) ∧ (m.sparse = true → metaB.length = 768) ∧
    scales.length = (if m.sparse then 12 else 6) * ((if m.ascaled then 16 else 0) + (if m.bscaled then 128 else 0)) := by
  intro sparse
  let m : Mma := ⟨0, 0, 0, 0, 0, 0, 0, sparse, false, 15, .e4m3, .e2m3, true, true, List.replicate 3072 0, 0, 0, 0, none, none⟩
  refine ⟨m, List.replicate (if sparse then 49152 else 24576) 0, List.replicate 768 0, List.replicate (if sparse then 1728 else 864) 0, rfl,
    List.Mem.head _, by simp [m], List.length_replicate, List.length_replicate, fun _ => List.length_replicate, ?_⟩
  rw [List.length_replicate]
  cases sparse <;> rfl

/-- A 64-bit sum of an odd pair fails the operand check. -/
theorem witness_FrontTraps : isWaveInstr (.iadd .i64 (rr v1 v2 v4 z)) = true ∧
    ∃ t, (probe (.iadd .i64 (rr v1 v2 v4 z))).frontTrap (.iadd .i64 (rr v1 v2 v4 z)) = some t :=
  ⟨rfl, Option.isSome_iff_exists.mp (by decide +kernel)⟩

/-- The state with its wave changed. -/
def withWave (s : State) (f : Wave → Wave) : State := { s with waves := s.waves.map f }

/-- What the checks find: a marked register, a misplaced transfer or literal, an undefined sub, a field outside its form, a barrier
or tile at the grid's count, an operand off its alignment, one beyond the allotment; and the trap they give. -/
def frontB (s : State) (i : Instr) : List Bool × Option Nat :=
  let w := curWave s
  let c := s.cur.getD default
  let l := (s.grd (s.blk w)).l
  let e := ((w.th (lowLane c.lanes)).ex).getD default
  let off := fun (p : OpUse → Nat → Bool) => (usesOf i).any fun u => (w.vnum u.o).any (p u)
  ([standsB s && (w.th (lowLane c.lanes)).ex.isSome, (w.named i).any fun k => w.marks.contains k,
    isTransfer i && c.next != e.hdr + BitVec.ofNat 64 (8 + 8 * e.len), !i.subOk, !i.fieldsOk,
    off (fun u n => n % u.al != 0), off (fun u n => l.regs < n + u.k)], (s.frontTrap i).map Trap.cause)

theorem witness_FrontChecks :
    (let i := Instr.iadd .i32 (rr v2 v1 s2 z)
     frontB (withWave (probe i) fun w => { w with marks := [.v 2] }) i = ([true, true, false, false, false, false, false], some 0x0A)) ∧
    (let i := Instr.bra 1
     frontB { probe i with cur := some ⟨0, 0xFFFFFFFF, 0x1008, 0x1018⟩ } i = ([true, false, true, false, false, false, false], some 0x01)) ∧
    (let i := Instr.movl .ui64 v4 0
     frontB { probe i with cur := some ⟨0, 0xFFFFFFFF, 0x1010, 0x1020⟩ } i = ([true, false, false, false, false, false, false], some 0x01)) ∧
    (let i := Instr.iadd .i64 (rr v1 v2 v4 z)
     frontB (probe i) i = ([true, false, false, false, true, true, false], some 0x03)) ∧
    (let i := Instr.iadd .i64 (rr (.vx 0) v2 v4 z)
     frontB (withWave (probe i) fun w => { w with x := 1 }) i = ([true, false, false, false, false, true, false], some 0x03)) ∧
    (let i := Instr.iadd .i32 (rr (.vx 0) v2 v4 z)
     frontB (withWave (probe i) fun w => { w with x := 0xFFFF }) i = ([true, false, false, false, false, false, true], some 0x04)) ∧
    (let i := Instr.barw 31 r0
     let s := probe i
     frontB { s with grids := s.grids.map fun g => { g with l := { g.l with barriers := 31 } } } i
       = ([true, false, false, false, false, false, false], some 0x03)) := by decide +kernel

/-- A pair that starts at an odd register is off its form: the last v-register, and an s-register. -/
theorem witness_OperandFields : isWaveInstr (.iadd .i64 (rr (.v 255) v2 (.s 63) z)) = true ∧
    (⟨.v 255, 2, 2⟩ : OpUse) ∈ usesOf (.iadd .i64 (rr (.v 255) v2 (.s 63) z)) ∧
    (⟨.s 63, 2, 2⟩ : OpUse) ∈ usesOf (.iadd .i64 (rr (.v 255) v2 (.s 63) z)) ∧ 255 % 2 ≠ 0 ∧ 63 % 2 ≠ 0 := by decide +kernel

/-- A state whose grids have a handler, and whose waves are in it or not. -/
def withHandler (s : State) (inside : Bool) : State :=
  { s with
    grids := s.grids.map fun g => { g with l := { g.l with handler := 0x2000 } }
    waves := s.waves.map fun w => { w with handler := inside } }

abbrev StandsNow (s : State) : Prop := s.Stands (s.cur.getD default) (curWave s)

theorem witness_TrapEntry :
    (let s := withHandler (probe (.trap 1)) false
     StandsNow s ∧ (curWave s).handler = false ∧ (s.grd (s.blk (curWave s))).l.handler ≠ 0) ∧
    (let s := withHandler (probe (.trap 1)) true
     StandsNow s ∧ (curWave s).handler = true) ∧
    let s := probe (.trap 1)
    StandsNow s ∧ (s.grd (s.blk (curWave s))).l.handler = 0 :=
  ⟨⟨stands_of (by decide +kernel), by decide +kernel, by decide +kernel⟩,
    ⟨stands_of (by decide +kernel), by decide +kernel⟩, stands_of (by decide +kernel), by decide +kernel⟩

/-- A window over the first 64 KiB, with header words from 0x1000 on. -/
def withCode (s : State) : State :=
  { s with
    mem := s.mem.writeMany 0x1000 ((List.range 6).flatMap fun _ => toBytes 8 ((loadedExec 0).word.toNat))
    grids := s.grids.map fun g => { g with windows := [⟨0, true, true, true, 0, false, 0, 1, 0, 0⟩] } }

/-- A wave at depth 1 with the address of a header in its stack and in s2. -/
def withTarget (s : State) : State :=
  { withCode s with waves := s.waves.map fun w =>
    { w with s := w.s.setIfInBounds 2 0x1018, threads := w.threads.map fun t => { t with depth := 1, rstack := [0x1018] } } }

/-- What the k-th transfer of the rule meets in a state: it issues, it or the join check traps, a thread goes on. -/
def transferB (s : State) (k : Nat) (r : RForm) : Option (Bool × Bool × Bool) :=
  ((transferRule s (s.cur.getD default) (curWave s) 1 true (.m 1) r)[k]?).map fun x =>
    let c := s.cur.getD default
    let dest := x.dest (s.act x.i)
    (issuesB s x.i, ((x.own (s.act x.i)).orElse fun _ => s.divergeTrap dest).isSome,
      (List.range 32).any fun l => if c.lanes.getLsbD l then (dest l).isSome else decide (((curWave s).th l).status = .run))

/-- Branches, calls and a return in a wave with code go on. -/
theorem witness_Transfers :
    transferB (withTarget (probe (.bra 1))) 0 r0 = some (true, false, true)
    ∧ transferB (withTarget (probe (.brc true (.m 1) 1))) 1 r0 = some (true, false, true)
    ∧ transferB (withTarget (probe (.jmpi (rr z s2 z z)))) 2 (rr z s2 z z) = some (true, false, true)
    ∧ transferB (withTarget (probe (.call 1))) 3 r0 = some (true, false, true)
    ∧ transferB (withTarget (probe (.calli (rr z s2 z z)))) 4 (rr z s2 z z) = some (true, false, true)
    ∧ transferB (withTarget (probe (.ret r0))) 5 r0 = some (true, false, true) := by decide +kernel

/-- Without code a branch traps; a return at depth 0 and an exit of every thread end the wave. -/
theorem witness_TransferTraps_WaveEnds :
    transferB (probe (.bra 1)) 0 r0 = some (true, true, true)
    ∧ transferB (probe (.ret r0)) 5 r0 = some (true, false, false)
    ∧ transferB (probe (.exit r0)) 6 r0 = some (true, false, false) := by decide +kernel

/-- The probe's ELB block is elastic with a join; with a region open for a later round another ELB is illegal. -/
theorem witness_NopFenceElb : Iss (probe (.nop r0)) (.nop r0) ∧
    (let i := Instr.fence 1 { mm z z .slice false with sz := .b8, order := .acqRel, scope := .block }
     Iss (probe i) i) ∧
    let s := probe (.elb 3)
    Iss s (.elb 3) ∧ s.exec.join.isSome = true ∧ (s.cur.getD default).pc = s.exec.hdr + 8 ∧ s.exec.elastic = true
      ∧ (curWave s).region = none ∧ (probe (.nop r0)).exec.join = none :=
  ⟨issues_of (by decide +kernel), issues_of (by decide +kernel), issues_of (by decide +kernel), by decide +kernel⟩

theorem witness_LaneInstructions :
    (let s := probe (.idrd .lane (rr v2 z z z))
     (∃ dk f, (.idrd .lane (rr v2 z z z), dk, f) ∈
       laneRule s (s.cur.getD default) (curWave s) (rr v2 z z z) (s.act (.idrd .lane (rr v2 z z z))))
     ∧ Iss s (.idrd .lane (rr v2 z z z)) ∧ s.act (.idrd .lane (rr v2 z z z)) ≠ 0) ∧
    Iss (probe (.vote .ballot (rr (.m 1) (.m 2) z z))) (.vote .ballot (rr (.m 1) (.m 2) z z)) :=
  ⟨⟨⟨_, _, List.Mem.head _⟩, issues_of (by decide +kernel), by decide +kernel⟩, issues_of (by decide +kernel)⟩

theorem witness_Reductions :
    (let i := Instr.wred .f .sum (rr s2 v1 z z)
     Iss (probe i) i ∧ (probe i).act i ≠ 0) ∧
    (let i := Instr.wred .f .sum { rr s2 v1 z z with p := 1 }
     Iss (probe i) i ∧ (probe i).act i = 0) ∧
    (let i := Instr.wscan .i32 .max true (rr v2 v1 z z)
     Iss (probe i) i) ∧
    ((List.replicate 32 0xFFFFFFFF).length ≤ 32 ∧ ∀ v ∈ List.replicate 32 0xFFFFFFFF, v < 2 ^ 32) :=
  ⟨⟨issues_of (by decide +kernel), by decide +kernel⟩, ⟨issues_of (by decide +kernel), by decide +kernel⟩,
    issues_of (by decide +kernel), by decide +kernel⟩

/-- The largest object; and the last arrival at a generation, which wraps to 0. -/
theorem witness_BarrierState :
    (let s := probe (.barw 1 r0)
     s.mem.wf = true ∧ (s.setBar loadedBlock 31 ⟨16777215, 16777214, 255, 1, 4294967295⟩).bar loadedBlock 31
       = ⟨16777215, 16777214, 255, 1, 4294967295⟩) ∧
    let s := (probe (.barw 3 r0)).setBar loadedBlock 3 ⟨64, 32, 0, 1, 4294967295⟩
    s.mem.wf = true ∧ (s.arrive loadedBlock 3 32 1).map (fun t => (t.bar loadedBlock 3).gen) = some 0
      ∧ (s.arrive loadedBlock 3 33 1).isNone = true ∧ (s.arrive loadedBlock 4 1 0).isNone = true := by decide +kernel

/-- Barrier `k` of the block armed for 32 arrivals. -/
def armed (s : State) (k : Nat) : State := s.setBar loadedBlock k ⟨32, 0, 0, 1, 7⟩

theorem witness_Barriers : (∀ i ∈ [Instr.binit 0 (rr z z s2 z), .barv 31 (rr v2 z z z), .bwait 31 (rr z z s2 z), .barw 31 r0,
    .binval 0 r0, .brdf .arr 31 (rr s2 z z z)], issuesB (probe i) i = true ∧ (probe i).act i ≠ 0) ∧
    ((probe (.barw 31 r0)).bar loadedBlock 31).state ≠ 1 ∧ ((armed (probe (.barw 31 r0)) 31).bar loadedBlock 31).state = 1
      ∧ issuesB (armed (probe (.barw 31 r0)) 31) (.barw 31 r0) = true := by decide +kernel

/-- An access that passes its checks. -/
def accessB (s : State) (i : Instr) : Bool :=
  match accKind i with
  | some k => issuesB s i && (s.accTrap i k (s.laneLooks k (s.act i))).isNone
  | none => false

theorem witness_AccessInFlight : ([Instr.ld false false (mm v2 v1 .slice false), .st false (mm v2 v1 .cluster false),
    .lds false false (mm s2 s4 .die false), .sts false (mm s2 s4 .slice false), .gath false false (mm v2 v1 .slice false),
    .scat false (mm v2 v1 .cluster false), .atom .add (mm v2 v1 .slice false), .cas (mm v2 v1 .cluster false),
    .red .smax (mm v2 v1 .cluster false)].all fun i => accessB (probe i) i) = true ∧
    accessB (withTarget (probe (.ld false true (mm v2 s4 .main false)))) (.ld false true (mm v2 s4 .main false)) = true
    := by decide +kernel

/-- What a lane finds, with one thing against it. -/
def lookWith (ea : Nat) (refused mismatch absent : Bool) (lost : Option Nat) : LaneLook :=
  ⟨0, ea, ⟨none, refused, mismatch, absent, lost, .nowhere⟩⟩

/-- Each class of the order of traps: the code that a lane's look leads to. -/
def trapOfLook (x : LaneLook) : Option Nat :=
  let i := Instr.ld false false (mm v2 v1 .main true)
  match accKind i with
  | some k => ((probe i).accTrap i k [x]).map Trap.cause
  | none => none

theorem witness_AccessTraps : trapOfLook (lookWith 2 true true true none) = some 0x10 ∧
    trapOfLook (lookWith 4 true true true none) = some 0x0E ∧ trapOfLook (lookWith 4 false true true none) = some 0x0F ∧
    trapOfLook (lookWith 4 false false true none) = some 0x0D ∧
    trapOfLook (lookWith 4 false false false (some 1)) = some 0x0C ∧
    trapOfLook (lookWith 4 false false false none) = none ∧ isRedx (.ld false false (mm v2 v1 .main true)) = false := by
  decide +kernel

/-- A store to a barrier in state 1 of its own block, and one that ends where it begins; an atomic to main memory in an ordered
grid; a REDX whose redirect word names a rank beyond the team, one whose offset is off its size, and one in order. -/
theorem witness_AccessTraps_Writes :
    (let i := Instr.st false (mm v2 v1 .cluster false)
     let s := armed (probe i) 31
     let look := fun (p : Nat) => (⟨0, 4, ⟨some (.pad p), false, false, false, none, .nowhere⟩⟩ : LaneLook)
     let k := s.barKey loadedBlock 31
     (accKind i).map (fun a => ((s.accTrap i a [look (k + 12)]).map Trap.cause, (s.accTrap i a [look (k - 4)]).map Trap.cause))
       = some (some 0x06, none)) ∧
    (let i := Instr.atom .add (mm v2 v1 .main true)
     let s := probe i
     let u := { s with grids := s.grids.map fun (g : Grid) => { g with l := { g.l with ordered := true } } }
     (accKind i).map (fun a => (u.accTrap i a [lookWith 4 false false false none]).map Trap.cause) = some (some 0x13)) ∧
    (let i := Instr.redx .add (mm v2 v1 .cluster false)
     let s := probe i
     let at' := fun (x : Nat) => withWave s fun w => w.apply (.v 3 0 (BitVec.ofNat 32 x))
     (accKind i).map (fun a => [at' (1 <<< 24), at' 2, at' 0].map fun u => (u.accTrap i a [lookWith 4 false false false none]).map Trap.cause)
       = some [some 0x0E, some 0x10, none]) := by decide +kernel

/-- A page instruction needs a window that is paged: without one it is refused. -/
theorem witness_PagesAndWindows :
    (let i := Instr.pgreq true { mm z v4 .main true with sz := .b8 }
     Iss (probe i) i ∧ (probe i).act i ≠ 0) ∧
    (let i := Instr.dscd { mm z v4 .main true with sz := .b8 }
     Iss (probe i) i) ∧
    (let i := Instr.pgqry { mm v2 v4 .main false with sz := .b8 }
     Iss (probe i) i) ∧
    Iss (probe (.ordfl r0)) (.ordfl r0) :=
  ⟨⟨issues_of (by decide +kernel), by decide +kernel⟩, issues_of (by decide +kernel), issues_of (by decide +kernel),
    issues_of (by decide +kernel)⟩

/-- The ordered grid of the second clause. -/
theorem witness_OrderedFlush : (let s := probe (.ordfl r0)
    let u := { s with grids := s.grids.map fun g => { g with l := { g.l with ordered := true } } }
    issuesB u (.ordfl r0) && (u.grd (u.blk (curWave u))).l.ordered && u.act (.ordfl r0) != 0) = true := by decide +kernel

/-- MMA with the format word of s2 (0: BF16 by BF16) passes its own checks; TLD and TST too. -/
theorem witness_MatrixInstructions :
    (let i := Instr.mma true 5 (rr z (.v 0) s2 s4)
     issuesB (probe i) i && (mmaTrap false (rr z (.v 0) s2 s4) (probe i) ((probe i).act i)).isNone) = true ∧
    (∀ i ∈ [Instr.mmasp false 15 (rr z (.v 0) s2 v1), .tzero 3 r0, .lrel r0, .tflg .rdc 7 (rr s2 z z z)],
      issuesB (probe i) i = true) ∧
    ∀ st ∈ [false, true],
      let i := if st then Instr.tst .f 2 (rr z s2 z z) else .tld .f 2 (rr z s2 z z)
      issuesB (probe i) i = true ∧ (tileTrap .f st (rr z s2 z z) (probe i) ((probe i).act i)).isNone = true := by
  decide +kernel
/-! ## Cards, semaphores, fabric and handler -/

/-- The probe with a card of 64 bytes at offset 0 of its block's cluster pad, and a window for digests. -/
def withCard (s : State) (x : Nat) : State :=
  { s with
    mem := s.mem.write (cpadKey 0 0) (toBytes 64 x)
    grids := s.grids.map fun g => { g with windows := [⟨3, true, true, true, 0, false, 0, 1, 0, 0⟩] } }

/-- A copy of one row of 64 bytes, a gather of four words, and a digest of 136 bytes (17 R311). -/
def copyCard : Nat :=
  2 ^ 60 + 15 * 2 ^ 46 + 0xFFFFFFFF + 2 ^ 253 + 2 ^ 250 + 2 ^ 224 + 64 * 2 ^ 192 + 1024 * 2 ^ 128 + 512 * 2 ^ 64
def gatherCard : Nat :=
  2 * 2 ^ 60 + 15 * 2 ^ 46 + 2 * 2 ^ 32 + 0xFFFFFFFF + 2 ^ 253 + 2 ^ 250 + 2 ^ 247 + 4 * 2 ^ 192 + 4096 * 2 ^ 128
    + 512 * 2 ^ 64 + 64 * 2 ^ 256 + 2048 * 2 ^ 320
def digestCard : Nat :=
  3 * 2 ^ 60 + 2 ^ 59 + 15 * 2 ^ 46 + 0xFFFFFFFF + 3 * 2 ^ 253 + 2 ^ 250 + 136 * 2 ^ 192 + 1024 * 2 ^ 128

def cardB (i : Instr) (kind x : Nat) : Bool :=
  let s := withCard (probe i) x
  issuesB s i && (cardTrap kind (rr s2 s4 z z) s (s.act i)).isNone && (curWave s).latched.isEmpty

theorem witness_CardInstructions : cardB (.cpyj (rr s2 s4 z z)) 1 copyCard = true ∧
    cardB (.gatj (rr s2 s4 z z)) 2 gatherCard = true ∧ cardB (.dgstj (rr s2 s4 z z)) 3 digestCard = true ∧
    issuesB (probe (.jcan (rr s2 s4 z z))) (.jcan (rr s2 s4 z z)) = true := by decide +kernel

/-- Semaphore 63 of cluster 0 belongs to partition 0, at its greatest count. -/
def withSem (s : State) : State := s.updSem 0 63 fun _ => ⟨0xFFFFFFFF, true, true, some 0⟩

theorem witness_SemaphoresAndFlags : (∀ i ∈ [Instr.semadd 63 (rr z z s2 z), .semset 63 (rr z z s2 z), .semrd true 63 (rr s2 z z z),
    .semwt 63 (rr s4 z s2 z)], issuesB (withSem (probe i)) i = true ∧ (withSem (probe i)).owns 0 63 0 = true ∧
      (probe i).owns 0 63 0 = false ∧ (probe i).act i ≠ 0) ∧
    issuesB (probe (.flgrd (rr s2 z z z))) (.flgrd (rr s2 z z z)) = true ∧
    issuesB (probe (.flgclr (rr z s2 z z))) (.flgclr (rr z s2 z z)) = true := by decide +kernel

/-- A tile table of one entry, whose regions stand in die pad 0: contributor and receiver of one slot. -/
def withTable (s : State) : State :=
  ({ s with mem := s.mem.writeMany 0x2000 (toBytes 64 (2 * 2 ^ 317 + 2 * 2 ^ 314 + 2 ^ 227 + 2 ^ 226 + 2 ^ 192)) }).updPart 0
    fun q => { q with ttbase := 0x2000, ttsize := 1, clusters := [0] }

theorem witness_FabricInstructions : (∀ i ∈ [Instr.tready (rr z s2 z z), .tstat (rr s2 s4 z z)],
    issuesB (withTable (probe i)) i = true ∧ ((withTable (probe i)).part 0).ttsize = 1 ∧ ((probe i).part 0).ttsize = 0) ∧
    issuesB (probe (.folrd .g0 (rr s2 z z z))) (.folrd .g0 (rr s2 z z z)) = true ∧
    ∀ st ∈ [false, true],
      let m := mm v2 s4 .slice false
      let i := if st then Instr.xst m else .xld false m
      let s := withTable (probe i)
      issuesB s i = true ∧ (entryAccTrap m ((lanesOf (s.act i)).map fun l => s.entryLook m st l)).isNone = true := by
  decide +kernel

/-- A wave in its handler: depth at entry, restart records, and one thread outside the path. -/
def inHandler (s : State) (depth : Nat) (restart : Option (W64 × Nat)) (others : Bool) : State :=
  { withHandler s true with
    cur := some ⟨0, if others then 0xFFFFFFFE else 0xFFFFFFFF, 0x1008, 0x1010⟩
    waves := (withHandler s true).waves.map fun w =>
      { w with threads := w.threads.map fun t => { t with depth := depth, restart := restart } } }

theorem witness_HandlerInstructions : issuesB (probe (.trap 0x42)) (.trap 0x42) = true ∧
    (∀ i ∈ [Instr.rte true r0, .restart r0], issuesB (probe i) i = true ∧ (curWave (probe i)).handler = false ∧
      ∀ o ∈ [false, true], ∀ d ∈ [0, 255], ∀ r ∈ [none, some (0x1000#64, 0)],
        issuesB (inHandler (probe i) d r o) i = true ∧ (curWave (inHandler (probe i) d r o)).handler = true ∧
        ((curWave (inHandler (probe i) d r o)).th 0).tdepth = 0) ∧
    (let s := withHandler (probe (.trap 0x42)) false
     issuesB s (.trap 0x42) = true ∧ (curWave s).handler = false ∧ (s.grd (s.blk (curWave s))).l.handler ≠ 0) := by
  decide +kernel

theorem witness_StatusInstructions : (∀ n ∈ [Csr.ths, .tcause, .taddr, .winset, .pkr, .cap, .mapgen, .impgen, .wvs],
      issuesB (probe (.csrrd n v2)) (.csrrd n v2) = true ∧ issuesB (probe (.csrwr n s2)) (.csrwr n s2) = true) ∧
    issuesB (probe (.pkwr (rr z s4 (.s 5) z))) (.pkwr (rr z s4 (.s 5) z)) = true ∧
    (∀ k ∈ [(0 : Fin 7), 4, 6], issuesB (probe (.qrd 3 k)) (.qrd 3 k) = true) ∧
    let i := Instr.qst 2 ⟨.b64, z, s4, none, .main, true, .plain, .wave, 0, false, 0⟩
    issuesB (probe i) i = true ∧ (qstTrap (probe i) 0).isSome = true ∧
    let s := { probe i with grids := (probe i).grids.map fun g => { g with windows := [⟨2, true, true, true, 0, false, 0, 1, 0, 0⟩] } }
    issuesB s i = true ∧ (qstTrap s 0).isNone = true := by decide +kernel
/-! ## Graph words, and the step -/

/-- A partition whose graph stands at the word, with a table, a cluster and the words behind it zero. -/
def gprobe (i : Instr) : State :=
  (State.reset.withFetchWord 64 (codeOf i)).updPart 0 fun q =>
    { q with ttsize := 4096, clusters := List.range 32, loops := [(8, 3)] }

/-- The state has a node outstanding. -/
def withNode (s : State) : State := s.updPart 0 fun q => { q with nodes := [⟨0, .sig 0 none, false, 0, 0⟩] }

def readyB (s : State) (i : Instr) (g : Guard) (boundary b : Bool) : Bool :=
  !(boundary && s.outstanding 0) && i.fieldsOk && s.nodeBounds i && s.guard 0 g == some b

/-- Each guard of a graph word: always, and a condition word that is not zero or is. -/
def graphWords (g : Guard) : List (Instr × Bool) :=
  [(.glaunch g false 0 true 1, false), (.gcoll g 4095 0 1 true 2, false), (.gphase g 7, true), (.gjmp g 1, true),
   (.gwaitgc g (.rel 5), true), (.gwaitsem g 1 31 63, false), (.gsetc g 2 true 5, false), (.gsig g true 9, false),
   (.ghalt g 0, true)]

theorem witness_GraphTests :
    ((graphWords .always).all fun p => readyB (gprobe p.1) p.1 .always p.2 true) = true ∧
    ((graphWords (.nz 1)).all fun p => readyB (gprobe p.1) p.1 (.nz 1) p.2 false) = true ∧
    ((graphWords (.z 1)).all fun p => readyB (gprobe p.1) p.1 (.z 1) p.2 true) = true ∧
    ((graphWords .always).all fun p => (withNode (gprobe p.1)).outstanding 0) = true ∧
    (Instr.gjmp .always 0).fieldsOk = false ∧
    (gprobe (.gcoll .always 4095 1 1 true 2)).nodeBounds (.gcoll .always 4095 1 1 true 2) = false ∧
    ((gprobe (.gwaitsem .always 1 31 63)).updPart 0 fun q => { q with clusters := List.range 31 }).nodeBounds
      (.gwaitsem .always 1 31 63) = false ∧
    (((gprobe (.gjmp (.nz 1) 1)).updPart 0 fun q => { q with grsize := 0 }).guard 0 (.nz 1)).isNone = true := by
  decide +kernel

theorem witness_GraphFlow : readyB (gprobe (.gif (.z 1) 3 2)) (.gif (.z 1) 3 2) (.z 1) true true = true ∧
    readyB (gprobe (.gwhile (.z 1) (-1) 16777215)) (.gwhile (.z 1) (-1) 16777215) (.z 1) true true = true ∧
    readyB (gprobe (.gwhile (.nz 1) (-1) 1)) (.gwhile (.nz 1) (-1) 1) (.nz 1) true false = true ∧
    readyB (gprobe (.gwaitgc .always (.cw 63))) (.gwaitgc .always (.cw 63)) .always true true = true := by decide +kernel

/-- Launch record within the region and beyond it; a semaphore of the partition and of none. -/
theorem witness_GraphNodes : (gprobe (.glaunch .always true 0 true 1)).inRegion 0 0 128 = true ∧
    (gprobe (.glaunch .always true 0 true 1)).inRegion 0 (128 * (2 ^ 40 - 1)) 128 = false ∧
    (gprobe (.gwaitsem .always 1 31 63)).owns 31 63 0 = false ∧
    ((gprobe (.gwaitsem .always 1 31 63)).updSem 31 63 fun m => { m with owner := some 0 }).owns 31 63 0 = true ∧
    ((gprobe (.gwaitsem .always 1 31 63)).part 0).clusters[31]? = some 31 := by decide +kernel

theorem witness_WordsOfNoInstruction : standsB (probe (.unassignedOpcode 0xFF00000000000000)) = true ∧
    (gprobe (.illegalGraphWord 0xCB00000000000000)).outstanding 0 = false := by decide +kernel

/-- Why a word is none. -/
def rejectOf (x : Nat) : Option Reject := match decodeWave x 0 with | .error r => some r | .ok _ => none

/-- Words of each refusal on a path that stands: a bit of hint-zero, an undefined sub, a MOVL with a reserved bit that is last in its
block, a branch that is not and whose register is no predicate, and the sum that names a marked register at an odd pair. -/
theorem witness_RejectedWords : standsB (probe (.nop r0)) = true ∧ (probe (.nop r0)).isLast = true ∧
    (rejectOf 0x4702_C160_B058_000B = some .reserved ∧ rejectOf 0x4706_C160_B058_000A = some .illegal ∧
      rejectOf 0x1E08_0400_0000_0001 = some .reserved) ∧
    (let s := { probe (.nop r0) with cur := some ⟨0, 0xFFFFFFFF, 0x1008, 0x1018⟩ }
     standsB s = true ∧ s.isLast = false ∧ rejectOf (codeOf (.ret r0) + 1) = some .reserved) ∧
    (let i := Instr.iadd .i64 (rr v1 v2 v4 z)
     let w : Wave := { curWave (probe (.nop r0)) with marks := [.v 2] }
     rejectOf (codeOf i) = some .reserved ∧
       (looseWave (codeOf i) 0).any (fun i => (w.named i).any fun k => w.marks.contains k) = true) := by decide +kernel

/-- What the first due event of a state is: a row, a visit, or a graph word. -/
def firstAct (s : State) : Option Nat :=
  (firstCand s.now s.cands).map fun c => match c.act with | .run _ => 0 | .visit _ => 1 | .graph _ => 2 | _ => 3

theorem witness_StepRunsEvent : State.reset.fresh.booted = true ∧ firstAct State.reset.fresh = some 0 := by decide +kernel

/-- The first step of a fetched NOP is its visit: one path issues, and its words decode. -/
theorem witness_StepIssuesFetched :
    (let s := State.reset.withFetchWord 64 (codeOf (.nop r0))
     s.booted = true ∧ firstAct s = some 1 ∧
     (s.waves[0]?.map fun w => (s.chosen 0 w).map fun a => decide (a.lanes = 0xFFFFFFFF)) = some [true]) ∧
    (let i := Instr.barw 0 r0
     let s := (probe i).sensed
     let u := { s with mem := { s.mem with broken := [s.barKey (s.blk (curWave s)) 0] } }
     (s.groupsMet (curWave s) 0xFFFFFFFF i, (u.groupsMet (curWave u) 0xFFFFFFFF i).length) = ([], 1)) ∧
    let s := gprobe (.gphase .always 7)
    s.booted = true ∧ firstAct s = some 2 ∧ s.inRegion 0 (s.part 0).gpc.toNat 8 = true ∧
      firstAct (s.updPart 0 fun q => { q with gpc := 0x10000 }) = some 2 ∧
      (s.updPart 0 fun q => { q with gpc := 0x10000 }).inRegion 0 0x10000 8 = false := by decide +kernel

/-- A wave at a header: its code, with the wait mask of a block and without code. -/
def atHeader (s : State) (wait : Nat) : State :=
  { withCode s with
    mem := (withCode s).mem.writeMany 0x1000 (toBytes 8 ((loadedExec 0).word.toNat + wait))
    waves := s.waves.map fun w => { w with threads := w.threads.map fun t => { t with ex := none, pc := 0x1000 } } }

theorem witness_BlockEntry :
    (let s := atHeader (probe (.nop r0)) 0
     let w := curWave s
     (s.waves[0]?.map Wave.uid) = some w.uid ∧ (s.waveOf w.uid).isSome = true ∧ (w.th 31).status = .run
      ∧ (w.th 31).ex = none ∧ (w.th 31).wait = .none ∧ w.started.isSome = true ∧ (s.headerTrap w 0x1000).isNone = true
      ∧ s.flagsReady w (w.th 31).flagWait (s.readBlock w s.nextUid 0x1000) = true) ∧
    (probe (.nop r0)).headerTrap (curWave (probe (.nop r0))) 0x1000 = some 0x0E := by decide +kernel

/-- A wave with a target and a join field of two words in its block, and thread 31 to branch the other way. -/
def diverging (i : Instr) (joins : List Join) : State :=
  withWave (withTarget (probe i)) fun w =>
    { w with
      m := w.m.setIfInBounds 1 0x80000000, joins := joins
      threads := w.threads.map fun t => { t with ex := t.ex.map fun e => { e with word := e.word + 2 ^ 27 } } }

/-- Whether a transfer passes with its headers readable, some thread goes on, and its threads part. -/
def divergeB (s : State) (k : Nat) : Option (Bool × Bool × Bool × Bool) :=
  ((transferRule s (s.cur.getD default) (curWave s) 2 true (.m 1) r0)[k]?).map fun x =>
    let dest := x.dest (s.act x.i)
    (issuesB s x.i && (s.lostTarget x.i (s.act x.i) dest).isNone && (s.spillsLost (curWave s) (s.spillsOf x.i (s.act x.i))).isEmpty,
      ((x.own (s.act x.i)).orElse fun _ => s.divergeTrap dest).isNone, (List.range 32).any fun l => (dest l).isSome,
      (List.range 32).any fun l => (dest l).map (fun y => (y.1, y.2.1)) != (dest 0).map fun y => (y.1, y.2.1))

/-- A branch by which thread 31 parts, with a list of none and of 16 records, and one by which none does. -/
theorem witness_JoinRecorded : divergeB (diverging (.brc true (.m 1) 2) []) 1 = some (true, true, true, true) ∧
    divergeB (diverging (.brc true (.m 1) 2) (List.replicate 16 ⟨0x2000, 0, 1⟩)) 1 = some (true, true, true, true) ∧
    divergeB (diverging (.bra 2) []) 0 = some (true, true, true, false) ∧
    (diverging (.brc true (.m 1) 2) []).exec.join = some 0x1010 := by decide +kernel

/-- A header in a poisoned atom, and a spill slot in uncorrectable groups. -/
theorem witness_TransferLosses :
    (let s := withTarget (probe (.bra 1))
     let u := { s with mem := { s.mem with poison := [s.mem.key 0x1000] } }
     ((transferRule u (u.cur.getD default) (curWave u) 1 true (.m 1) r0)[0]?.map fun x =>
       (issuesB u x.i, (u.lostTarget x.i (u.act x.i) (x.dest (u.act x.i))).isSome)) = some (true, true)) ∧
    (let s := withWave (withTarget (probe (.call 1))) fun w => { w with threads := w.threads.map fun t => { t with depth := 8 } }
     let s := { s with grids := s.grids.map fun g => { g with l := { g.l with spill := 8 } } }
     let k := match (curWave s).spillLoc 1 0 with | .pad k => k | .main .. => 0
     let u := { s with mem := { s.mem with broken := [k / 8 * 8] } }
     ((transferRule u (u.cur.getD default) (curWave u) 1 true (.m 1) r0)[3]?.map fun x =>
       (issuesB u x.i, (u.lostTarget x.i (u.act x.i) (x.dest (u.act x.i))).isNone,
         ((x.own (u.act x.i)).orElse fun _ => u.divergeTrap (x.dest (u.act x.i))).isNone,
         (u.spillsLost (curWave u) (u.spillsOf x.i (u.act x.i))).isEmpty)) = some (true, true, true, false)) := by decide +kernel

/-- A wave whose threads 0 and 1 stand at one header and 2 and 3 at another; the others run elsewhere or have ended. -/
def joining (joins : List Join) (others : TStatus) : Wave :=
  let w := curWave (probe (.nop r0))
  { w with
    joins := joins
    threads := Vector.ofFn fun l => if l.val < 4 then { w.th 0 with ex := none, pc := if l.val < 2 then 0x2000 else 0x3000 }
      else { w.th 0 with status := others } }

/-- A record whose threads are all there, one that holds a thread while others run, and two of which each holds a path while
nothing else can run: the newest leaves. -/
theorem witness_JoinsSettle :
    (let w := joining [⟨0x2000, 0, 3⟩] .run
     w.joinDone ⟨0x2000, 0, 3⟩ = true ∧ (w.dropDone 7).stuck = false ∧ (w.settleJoins 7).joins = []) ∧
    (let w := joining [⟨0x2000, 0, 7⟩] .run
     w.joinDone ⟨0x2000, 0, 7⟩ = false ∧ w.holds ⟨0x2000, 0, 7⟩ 0 = true ∧ (w.dropDone 7).stuck = false) ∧
    (let w := joining [⟨0x2000, 0, 5⟩, ⟨0x3000, 0, 6⟩] .ended
     (w.dropDone 7).joins.length = 2 ∧ (w.dropDone 7).stuck = true ∧ (w.dropDone 7).holds ⟨0x2000, 0, 5⟩ 0 = true
       ∧ (w.settleJoins 7).joins = [⟨0x3000, 0, 6⟩]) := by decide +kernel

/-- The last thread of a handler leaves by RTE, and by RESTART with an earlier thread gone. -/
theorem witness_JoinsReturn : (∀ i ∈ [Instr.rte true r0, .restart r0],
    let s := inHandler (probe i) 0 (some (0x1000#64, 0)) false
    issuesB s i = true ∧ (curWave s).handler = true ∧ (s.cur.getD default).lanes = 0xFFFFFFFF ∧
      ((curWave s).th 31).depth = ((curWave s).th 31).tdepth ∧ s.spillsLost (curWave s) ((curWave s).restartSlots 0xFFFFFFFF) = []) := by
  decide +kernel

/-- A wave whose path has an instruction to issue; and one whose path a record holds at a header, which waits. -/
theorem witness_HeldPathsWait :
    (let s := State.reset.withFetchWord 64 (codeOf (.nop r0))
     s.waves.map (fun w => (s.chosen 0 w).length) = [1]) ∧
    (let s := atHeader (probe (.nop r0)) 0
     let w := withWave s fun w => { w with
       joins := [⟨0x1000, 0, 0x80000001⟩], threads := w.threads.mapIdx fun l t => if l = 31 then { t with pc := 0x1018 } else t }
     w.waves.map (fun u => ((w.chosen 0 u).map fun a => a.lanes)) = [[0x80000000]]) := by decide +kernel

/-! ## Results, rounds and waits -/

/-- A result in flight that sets the inexact flag in lane 31, with and without its enable. -/
def withPend (s : State) (en : BitVec 5) : State :=
  { s with waves := s.waves.map fun w => { w with pend := [⟨0, 0xFFFFFFFF, [.v 2], w.dst v2 1 0xFFFFFFFF fun l => l,
    [(31, 0x10)], none, [(31, en)], 0x1008, 0x1010, none⟩] } }

theorem witness_ResultArrives : (∀ en ∈ [0x00#5, 0x10#5],
    let s := withPend (probe (.nop r0)) en
    (s.waves[0]?.map Wave.uid) = some (curWave s).uid ∧ (s.waveOf (curWave s).uid).isSome = true
      ∧ ((curWave s).pend[0]?.map Pend.due) = some 0 ∧ 0 ≤ s.round (curWave s)
      ∧ ((curWave s).pend[0]?.map fun p => flagsIn p.fl 31 &&& flagsIn p.en 31) = some en)
    ∧ (curWave (probe (.nop r0))).v.wf 0 = true := by decide +kernel

def invB (s : State) : Bool :=
  s.mem.wf && s.tiles.wf Tile.none && s.mem.chans.wf none && s.slices.length == 192 && s.clusters.length == 32

theorem inv_of {s : State} (h : invB s = true) : s.Inv := by
  simp only [invB, Bool.and_eq_true, beq_iff_eq] at h
  exact ⟨h.1.1.1.1, h.1.1.1.2, h.1.1.2, h.1.2, h.2⟩

theorem witness_Invariant : State.reset.Inv ∧ (probe (.nop r0)).Inv ∧ (gprobe (.gphase .always 7)).Inv :=
  ⟨inv_of (by decide +kernel), inv_of (by decide +kernel), inv_of (by decide +kernel)⟩

/-- The state after an instruction, some rounds and cycles on. -/
def later (i : Instr) (s : State) (rounds now : Nat) : State :=
  match exec i s with
  | .next t => { t with now := now, slices := List.replicate 192 { Slice.reset with round := rounds } }
  | _ => s

/-- A class-0 load of main memory. -/
def mainLoad : Instr := .ld false true (mm v2 s4 .main false)

/-- A cluster apart from a stall, whether its slice's round has ended, and whether an item of it is late. -/
def boundaryB (s : State) (cl sl : Nat) : Bool × Bool × Bool × Bool :=
  (invB s, (s.cluster cl).frozen,
    decide ((s.slice cl sl).c0 + 6 * (s.cluster cl).pass * (s.slice cl sl).ratio ≤ s.cycle cl), s.late cl)

def lateState : State := later mainLoad (withCode (probe mainLoad)) 300 (10 ^ 17)

/-- A cluster in a round, at its end, with a late load at its end, and stalled; a slice that is to take ratio 2 where the
others open a round with it, and where they do not. -/
theorem witness_RoundBoundaries :
    (let s := { State.reset.fresh with now := 10 ^ 17 }.updSlice 31 5 fun x => { x with ratioNext := 2 }
     let u := s.updSlice 31 0 fun x => { x with c0 := 3 }
     let cyc := (s.slice 31 5).c0 + 6 * (s.cluster 31).pass * (s.slice 31 5).ratio
     let near := fun (s : State) => (List.range 5).all fun k =>
       let y := s.slice 31 k
       y.c0 == cyc || y.c0 + 6 * (s.cluster 31).pass * y.ratio == cyc
     ((s.slice 31 5).ratioNext, near s, near u) = (2, true, false)) ∧
    boundaryB State.reset.fresh 31 5 = (true, false, false, false) ∧
    boundaryB { State.reset.fresh with now := 10 ^ 17 } 31 5 = (true, false, true, false) ∧
    boundaryB lateState 0 0 = (true, false, true, true) ∧
    (boundaryB (State.reset.fresh.updCluster 0 fun c => { c with stall := some 0 }) 0 0).2.1 = true := by decide +kernel

/-- Start and noted end of a stall, whether its limit has come, and the end of a release stall. -/
def stallB (s : State) (cl : Nat) : Bool × Option Nat × Bool × Option Nat :=
  ((s.cluster cl).stall.isSome, (s.cluster cl).ready, decide (s.stallLimit cl ≤ s.stallCycles cl), (s.cluster cl).release)

/-- A stalled cluster whose load is late: at the limit of 2,048 cycles, and with a time of its end noted. -/
theorem witness_Stalls : stallB (lateState.updCluster 0 fun c => { c with stall := some 0, ready := some 5 }) 0
      = (true, some 5, true, none) ∧
    stallB ({ State.reset.fresh with now := 7 }.updCluster 31 fun c => { c with release := some 7 }) 31
      = (false, none, false, some 7) ∧ lateState.accs.any (fun a => lateState.accLate a) = true := by decide +kernel

/-- A wave in its exit round, at its join header or away from it: the region is open, and where thread 31 stands. -/
def elasticB (hdr : W64) : Bool :=
  let u := atHeader (probe (.nop r0)) 0
  let s := { u with waves := u.waves.map fun w => { w with region := some ⟨0, hdr, 0⟩ } }
  let w := curWave s
  (s.waveOf 0).isSome && w.region == some ⟨0, hdr, 0⟩ && (w.th 31).ex.isNone && (w.th 31).pc == 0x1000

theorem witness_ElasticExit : elasticB 0x1000 = true ∧ elasticB 0x2000 = true := by decide +kernel

/-- A path that waits for generation 6 of a barrier in generation 7, and one for a semaphore that has failed. -/
def waitB (wt : Wait) : Bool :=
  let s := withSem (armed (probe (.nop r0)) 31)
  let u := { s with waves := s.waves.map fun w => { w with threads := w.threads.map fun t => { t with wait := wt } } }
  let w := curWave u
  (w.th 31).wait == wt && (w.th 31).status == .run && w.joins.isEmpty && !w.handler && (u.waveOf w.uid).isSome
    && (u.bar (u.blk w) 31).gen == 7 && ((u.cluster 0).sem 63).fail

theorem witness_WaitsEnd : waitB (.bar 31 6) = true ∧ waitB (.sem 63 0xFFFFFFFF (some 63) 0) = true := by decide +kernel
/-- The device after reset with a wave at an instruction. -/
def atWord (w : Nat) : State := State.reset.withFetchWord 64 w

/-- The paths that issue in the visit that comes first, with what each would do. -/
def visitB (s : State) : Option (List (W32 × Front)) :=
  (firstCand s.now s.cands).bind fun c =>
    let u := ({ s with now := max s.now c.time } : State).sensed
    match c.act with
    | .visit wv => (u.waves[wv]?).map fun w => (u.chosen wv w).map fun a => (a.lanes, a.front)
    | _ => none

/-- Thread 31 of the wave at another depth: two paths at one instruction. -/
def twoPaths (i : Instr) (ths : W32) : State :=
  withWave (atWord (codeOf i)) fun w =>
    { w with threads := w.threads.mapIdx fun l t => if l = 31 then { t with depth := 1, ths := ths } else t }

/-- Visits with no path that issues, at a header with code and without, at a word of no instruction, and with two paths. -/
theorem witness_OtherVisits :
    visitB (withWave (atWord (codeOf (.nop r0))) fun w => { w with hold := 9 }) = some [] ∧
    visitB (atHeader (atWord (codeOf (.nop r0))) 0) = some [(0xFFFFFFFF, .enter false)] ∧
    visitB (withWave (atWord (codeOf (.nop r0))) fun w =>
      { w with threads := w.threads.map fun t => { t with ex := none, pc := 0x1000 } }) = some [(0xFFFFFFFF, .trap)] ∧
    visitB (atWord 0x4702_C160_B058_000B) = some [(0xFFFFFFFF, .issue false)] ∧
    (let i := Instr.iadd .i32 (rr v2 v1 s2 z)
     visitB (twoPaths i 0) = some [(0x7FFFFFFF, .issue true), (0x80000000, .issue true)] ∧
     ((twoPaths i 0).waves.map fun w => ((twoPaths i 0).groupsMet w 0x7FFFFFFF i, (twoPaths i 0).groupsMet w 0x80000000 i)) = [([], [])]) := by
  decide +kernel

/-- Two paths of the vector ALU issue together; with an enable set in a thread, or another class, one does. -/
theorem witness_PathsChosen : (visitB (twoPaths (.iadd .i32 (rr v2 v1 s2 z)) 0)).map List.length = some 2 ∧
    (visitB (twoPaths (.iadd .i32 (rr v2 v1 s2 z)) 0x100)).map List.length = some 1 ∧
    (visitB (twoPaths (.ld false false (mm v2 v1 .slice false)) 0)).map List.length = some 1 ∧
    (⟨3, 9, .issue true⟩ : Ranked).First ⟨0xFFFFFFFF, 7, .issue true⟩ ∧ (⟨6, 7, .issue true⟩ : Ranked).First ⟨8, 0, .issue true⟩ := by
  refine ⟨by decide +kernel, by decide +kernel, by decide +kernel, .inl ⟨by decide, .inl (by decide)⟩, .inr ⟨.inr ⟨by decide, by decide⟩, .inl (by decide)⟩⟩

/-- Results of a round in which lanes 31 and the others write x, s2 and bits of m1: those of the lower path stand. -/
theorem witness_PrevailingWrites :
    let p := fun (lanes : W32) (wr : List Wr) => (⟨1, lanes, [], wr, [], none, [], 0, 0, none⟩ : Pend)
    let a := p 0x7FFFFFFF [.x 5, .m 1 1 1]
    let b := p 0x80000000 [.x 6, .s 2 7, .m 1 0x80000001 0, .v 3 31 8]
    prevail 0 0x7FFFFFFF [b, a] = [p 0x80000000 [.s 2 7, .m 1 0x80000000 0, .v 3 31 8], a] := by decide +kernel

/-- A path in its block, and the wave with its number. -/
theorem witness_PathsNoted_PathFront :
    (let s := probe (.nop r0)
     (s.waves[0]?) = some (curWave s) ∧ (s.waveOf (curWave s).uid) = some (curWave s) ∧ s.free? (curWave s) 0xFFFFFFFF = true) ∧
    (let i := Instr.iadd .i32 (rr v2 v1 s2 z)
     let s := probe i
     let u := withPend s 0
     (((curWave s).lead 0xFFFFFFFF).ex.map fun e =>
       (decodeWave (e.wordsAt ((curWave s).lead 0xFFFFFFFF).pc).1.toNat (e.wordsAt ((curWave s).lead 0xFFFFFFFF).pc).2.toNat).toOption)
         = some (some i) ∧
     (u.onPath (curWave u) 0xFFFFFFFF).waits i ≠ [] ∧ (s.onPath (curWave s) 0xFFFFFFFF).waits i = [] ∧
     s.free? (withWave s fun w => { w with hold := 9 }).waves[0]! 0xFFFFFFFF = false) ∧
    (let s := atHeader (withTarget (probe mainLoad)) 0
     s.waves.map (fun w => w.walked.isEmpty) = [true]) := by decide +kernel

/-! ## Accesses, tiles and cards at work -/

/-- A class-0 access whose effect is due and unhindered: its class, whether it is atomic, whether a lane still has its
effect before it. -/
def actsB (s : State) : List (Bool × Bool × Bool) :=
  s.accs.map fun a =>
    (invB s && s.mem.broken.isEmpty && !a.cls1 && !a.effected && !a.abandoned && s.accDue a && s.clear a && !(s.cluster a.cl).frozen
        && (s.behindPeer a.cl a.keys).isNone,
      match accKind a.i with | some k => k.atomic | none => false, a.lanes.any LaneAcc.live)

theorem witness_AccessEffect :
    (∀ i ∈ [Instr.ld false false (mm v2 v1 .slice false), .st false (mm v2 v1 .cluster false)],
      actsB (later i (probe i) 5 0) = [(true, false, true)]) ∧
    (let i := Instr.lds false false (mm s2 s4 .slice false)
     (later i (probe i) 5 0).accs.map (fun a => decide ((a.loaded (later i (probe i) 5 0)).writes = [])) = [false]) := by
  decide +kernel

theorem witness_AtomicChain : ∀ i ∈ [Instr.atom .add (mm v2 v1 .slice false), .cas (mm v2 v1 .cluster false)],
    actsB (later i (probe i) 20 0) = [(true, true, true)] := by decide +kernel

/-- Two lanes apart, and an edge of each: the stores of adjacent words. -/
theorem witness_apart : LaneAcc.apart 4 ⟨0, .pad 0, false, 1, 0, 0, false⟩ ⟨1, .pad 4, false, 2, 0, 0, false⟩ :=
  ⟨0, 4, rfl, rfl, .inl (by decide)⟩

/-- The bytes of a location: in a pad, below CAP, across it, and in an encrypted window. -/
theorem witness_StoreBytes : (probe (.nop r0)).mem.wf = true ∧ (probe (.nop r0)).mem.sweep = none ∧
    (probe (.nop r0)).mem.cap = 512 * 1572864 * 512 ∧
    (probe (.nop r0)).mem.keysOf (.main (512 * 1572864 * 512 - 1) none) 2 = [511 * 805306368 + 805306367] := by
  decide +kernel

theorem witness_LoadedValues : ∃ a : Access, accKind a.i = some ⟨mm v2 v1 .slice false, ⟨true, false, false⟩, false, 1, false, false⟩
    ∧ a.lanes = [⟨31, .pad 0, false, 0, 0, 0xFFFFFFFF, true⟩] := by
  let i := Instr.ld false false (mm v2 v1 .slice false)
  exact ⟨{ id := 0, i := i, uid := 0, bid := 0, gid := 0, part := 0, asid := 0, cl := 0, sl := 0, slot := 0, path := 0
           act := 0, dreg := 2, round := 0, lat := 3, cls1 := false, lanes := [⟨31, .pad 0, false, 0, 0, 0xFFFFFFFF, true⟩]
           regs := [], flag := 15, exec := 0, effected := false, abandoned := false, after := [], wnum := [], paged := false },
    by decide +kernel, rfl⟩

/-- A REDX of one lane whose target is the block's own first barrier. -/
def redxState : State :=
  let i := Instr.redx .add { mm v2 v1 .cluster false with p := 0 }
  let s := later i (probe i) 20 0
  { s with accs := s.accs.map fun a => { a with effected := true, lanes := a.lanes.take 1 } }

theorem witness_Redirects : invB redxState = true ∧ redxState.mem.broken = [] ∧
    redxState.accs.map (fun a => ((redxState.cluster a.cl).frozen, (redxState.behindPeer a.cl (redxState.redirKeys a)).isNone))
      = [(false, true)] ∧ redxState.accs.map (fun a => isRedx a.i && a.effected) = [true] ∧
    redxState.accs.flatMap (fun a => a.lanes.map fun x => (redxState.redirKey a.bid (redirOf x.aux)).isSome) = [true] := by
  decide +kernel

/-- Class-1 accesses with nothing left to wait for: a load, and an ordered RED of one lane. -/
def servedB (s : State) : List (Bool × Bool × Bool) :=
  s.accs.map fun a => (a.cls1 && s.completes a && (s.waveOf a.uid).isSome, isRedx a.i, a.collected)

def noReqs (s : State) : State := { s with mem := { s.mem with reqs := [] } }

def orderedRed : Instr := .red .add (mm s2 s4 .main true)

def orderedState : State :=
  let u := withCode (probe orderedRed)
  let u := { u with grids := u.grids.map fun g => { g with l := { g.l with ordered := true } }, cur := u.cur.map fun c => { c with lanes := 1 } }
  noReqs (later orderedRed u 5 0)

theorem witness_Class1Completes :
    (let i := Instr.ld false true (mm v2 s4 .main true)
     servedB (noReqs (later i (withCode (probe i)) 5 0)) = [(true, false, false)]) ∧
    servedB orderedState = [(true, false, true)] ∧ orderedState.heldRoom 0 = true ∧
    orderedState.accs.map (fun a => ((orderedState.gridOf a.gid).map Grid.phase, (orderedState.blockOf a.bid).isSome,
      (orderedState.part a.part).preemptAt)) = [(some .run, true, none)] ∧
    orderedState.accs.map (fun a => (a.lanes.map fun x => (x.withheld, x.loc), a.wnum)) = [([(false, .main 0 none)], [(0, 0)])] := by
  decide +kernel

def mmaInstr : Instr := .mma true 15 (rr z (.v 0) s2 s4)
def mmaState : State := later mmaInstr (probe mmaInstr) 5 0

theorem witness_OperandsLatched : invB mmaState = true ∧ mmaState.mmas.map (fun m => (m.latched.isNone, m.cl,
    decide (m.round + 2 ≤ (mmaState.slice m.cl m.sl).round))) = [(true, 0, true)] ∧ mmaState.mem.broken = [] := by
  decide +kernel

/-- Cluster 31 with an operation in its queue, and its twins cool or the one on duty at its threshold. -/
def queuedSpan (hot : Bool) : State :=
  let s := State.reset.fresh
  let s := { s with host := { s.host with templim := 0xFFFF } }
  s.updCluster 31 fun c =>
    let c := { c with queue := [(0, 0)], spanAt := 0 }
    if hot then c.setTwin c.duty { c.twin c.duty with temp := 255 } else c

theorem witness_SpanOpens_ProofFails : ∀ hot ∈ [false, true],
    let s := queuedSpan hot
    let c := s.cluster 31
    invB s = true ∧ c.frozen = false ∧ c.spanAt ≤ s.cycle 31 ∧ c.queue.head? = some (0, 0) ∧ c.fails = [] ∧
      (c.twin c.duty).out = false ∧ (c.other c.duty).out = false ∧ s.tripped (c.twin c.duty) = hot ∧
      s.tripped (c.other c.duty) = false ∧ (s.onDuty 31 != c.duty) = hot ∧ (c.other (s.onDuty 31)).out = false ∧
      (c.twin (s.onDuty 31)).out = false := by decide +kernel

/-- An operation with its operands latched, and tile transfers without and with their image. -/
def latchedState : State :=
  { mmaState with mmas := mmaState.mmas.map fun m => { m with latched := some (List.replicate 24576 0, [], []) } }

def moveState (st : Bool) (img : Option (List Byte)) : State :=
  let i := if st then Instr.tst .f 2 (rr z s2 z z) else .tld .f 2 (rr z s2 z z)
  let s := later i (probe i) 5 0
  { s with moves := s.moves.map fun m => { m with img := img } }

theorem witness_TileUpdates : invB latchedState = true ∧ latchedState.mem.broken = [] ∧ (moveState true none).mem.broken = [] ∧
    latchedState.mmas.map (fun m => (m.latched.isSome, (latchedState.blockOf m.bid).isSome)) = [(true, true)] ∧
    ∀ st ∈ [false, true], ∀ img ∈ [none, some (List.replicate 8192 (0 : Byte))],
      (moveState st img).moves.map (fun m => (m.store, m.img.isSome, m.done)) = [(st, img.isSome, false)] := by
  decide +kernel

def copyState (rounds : Nat) : State :=
  let i := Instr.cpyj (rr s2 s4 z z)
  later i (withCard (probe i) copyCard) rounds 0

def stepKind : CardStep → Nat
  | .close => 0 | .halt .. => 1 | .start => 2 | .send .. => 3 | .index _ => 4 | .read _ => 5 | .write _ => 6 | .ask _ => 7

/-- A card's next step, with whether it is the one that its wave and handle name and no stalled peer is before it. -/
def dueB (s : State) : List (Option (Nat × Bool)) :=
  s.cards.map fun c => (s.dueStep c).map fun st =>
    (stepKind st, s.cards.find? (fun e => e.uid == c.uid && e.handle == c.handle) == some c
      && (s.behindPeer c.cl (s.cardKeys c st)).isNone && c.cl == 0
      && (match st with | .index p | .read p | .write p => (s.cardGroups c p).isEmpty | _ => true))

/-- The one card of the state, changed. -/
def withCardDo (s : State) (f : Card → Card) : State := { s with cards := s.cards.map f }

/-- A chunk with its requests made or not, before its read or after it. -/
def chunkOf (asked : Bool) (data : Option (List (Nat × Byte))) : Chunk := ⟨0, 9, some [], data, asked, [], 0⟩

/-- A card about to start, to send, to ask, to read and to write the one chunk, to halt and to close. -/
theorem witness_CardSteps : dueB (copyState 5) = [some (2, true)] ∧
    dueB (withCardDo (copyState 5) fun c => { c with started := true }) = [some (3, true)] ∧
    dueB (withCardDo (copyState 50) fun c => { c with started := true, sent := 1, pipe := [chunkOf false none] })
      = [some (7, true)] ∧
    dueB (withCardDo (copyState 50) fun c => { c with started := true, sent := 1, pipe := [chunkOf true none] })
      = [some (5, true)] ∧
    dueB (withCardDo (copyState 50) fun c => { c with
      started := true, sent := 1, pipe := [chunkOf true (some [(1024, 7)])] }) = [some (6, true)] ∧
    dueB (withCardDo (copyState 5) fun c => { c with stop := some 0x20 }) = [some (1, true)] ∧
    dueB (withCardDo (copyState 5) fun c => { c with code := some (1, 0) }) = [some (0, true)] := by decide +kernel

/-- The copy of the probe is strided; with mode 3 it transposes elements of 4 bytes. -/
theorem witness_CopyAddresses : (copyState 5).cards.map (fun c => (c.kind, c.transpose)) = [(1, false)] ∧
    ((withCardDo (copyState 5) fun c => { c with word := BitVec.ofNat 512 (copyCard + 3 * 2 ^ 32) }).cards.map fun c =>
      (c.transpose, c.count % c.esize)) = [(true, 0)] := by decide +kernel
/-- A result of a wave in its slot, and one without flags of a wave that has left it: each number stands once among the waves. -/
theorem witness_DeliveryCompletes :
    let s := withPend (probe (.nop r0)) 0
    let u := { s with waves := [], ended := s.waves.map fun (w : Wave) => { w with pend := w.pend.map fun (p : Pend) => { p with fl := [] } } }
    ((s.waves ++ s.ended).map Wave.uid).Nodup ∧ ((u.waves ++ u.ended).map Wave.uid).Nodup ∧
    (u.waves ++ u.ended).map (fun w => w.pend.map fun p => (decide (p.due ≤ u.round w), p.fl, p.mrg)) = [[(true, [], none)]] := by
  decide +kernel

/-- A load of main memory in its effect round whose lane reaches past CAP. -/
theorem witness_CapMet : (let s := noReqs (later mainLoad (withCode (probe mainLoad)) 300 0)
    let u := { s with accs := s.accs.map fun (a : Access) => { a with lanes := a.lanes.map fun (x : LaneAcc) => { x with loc := .main (s.mem.cap - 2) none } } }
    actsB u = [(true, false, true)] ∧ u.accs.map (fun a => (u.beyondCap a).isSome) = [true]) := by decide +kernel

/-- A gather of four words about to read its indices, its elements, and to write them. -/
def gatherState (p : Chunk) : State :=
  let i := Instr.gatj (rr s2 s4 z z)
  withCardDo (later i (withCard (probe i) gatherCard) 50 0) fun c => { c with started := true, sent := 1, pipe := [p] }

theorem witness_GatherChunks :
    (let s := gatherState ⟨0, 9, none, none, true, [], 0⟩
     invB s = true ∧ dueB s = [some (4, true)] ∧ s.cards.map (fun c => (c.kind, (List.range 4).all fun j =>
       !(s.cardLook c c.ispace .read (c.idx + 4 * j)).refused)) = [(2, true)]) ∧
    (let s := gatherState ⟨0, 9, some [some 0, some 16, none, some 15], none, true, [], 0⟩
     dueB s = [some (5, true)] ∧ s.cards.map (fun c => [0, 15].all fun v => decide (c.esize * v + c.esize ≤ c.srclen)
       && !(s.cardLook c c.sspace .read (c.src + c.esize * v)).refused) = [true]) ∧
    (let s := withCardDo (gatherState ⟨0, 9, some [some 0], some [(4096, 7)], true, [], 0⟩) fun c =>
       { c with word := c.word + BitVec.ofNat 512 (8 * 2 ^ 192), sent := 2 }
     dueB s = [some (6, true)] ∧ s.cards.map (fun c => (decide (c.chunk + 1 < c.chunks), c.stop, (s.cardLook c c.dspace .write 4096).refused))
       = [(true, none, false)]) := by decide +kernel

/-- A digest of 136 bytes about to read, to absorb, and to write its output. -/
def digestState (p : Chunk) (chunk : Nat) : State :=
  let i := Instr.dgstj (rr s2 s4 z z)
  withCardDo (later i (withCard (probe i) digestCard) 500 0) fun c => { c with started := true, sent := 2, chunk := chunk, pipe := [p] }

theorem witness_DigestChunks :
    (let s := digestState ⟨0, 9, none, none, true, [], 0⟩ 0
     invB s = true ∧ dueB s = [some (5, true)] ∧ s.cards.map (fun c => (c.kind, (s.cardFail c c.sspace .read [c.src]).isNone, c.chunks)) = [(3, true, 1)]) ∧
    (let s := digestState ⟨0, 9, none, some [(0, 7)], true, [], 0⟩ 0
     dueB s = [some (6, true)] ∧ s.cards.map (fun c => (c.stop, decide (c.chunk + 1 < c.chunks))) = [(none, false)]) ∧
    (let s := digestState ⟨1, 9, none, some [(1024, 7)], true, [], 0⟩ 1
     dueB s = [some (6, true)] ∧ s.cards.map (fun c => (c.chunk == c.chunks, (s.cardFail c c.dspace .write [1024]).isNone)) = [(true, true)]) := by
  decide +kernel

/-! ## Main memory, page service and windows -/

/-- A load that waits for main memory, its request not yet sent; and at its home. -/
def waitingLoad (i : Instr) (lanes : W32) (now : Nat) : State :=
  let u := withCode (probe i)
  later i { u with cur := u.cur.map fun c => { c with lanes := lanes } } 5 now

def sent (s : State) (retry : Bool) : State :=
  { s with mem := { s.mem with reqs := s.mem.reqs.map fun r => { r with tag := some (s.mem.gen, 0, 0), retry := retry } } }

def withSweep (s : State) (f xfers : Nat) : State :=
  { s with mem := { s.mem with sweep := some ⟨f, s.mem.live.erase 511, xfers, 0, 0, true, [], []⟩ } }

def dispatchB (s : State) (cap : Bool) : List Bool :=
  s.mem.reqs.map fun r => (r.tag.isNone || s.mem.stale r) && !r.read && s.unheld r && s.cards.isEmpty && (s.reqGrid r).isSome
    && decide (r.addr < s.mem.cap) == cap

/-- A request below CAP, with a sweep at its granule and above it, and one at CAP. -/
theorem witness_Dispatch :
    (let s := waitingLoad mainLoad 1 0
     dispatchB s true = [true] ∧ dispatchB (withSweep s 0 0) true = [true] ∧ dispatchB (withSweep s 9 0) true = [true] ∧
     dispatchB { s with mem := { s.mem with reqs := s.mem.reqs.map fun r => { r with addr := s.mem.cap } } } false = [true]) := by
  decide +kernel

def slotB (i : Instr) (cls1 : Bool) : List Bool :=
  let s := (sent (waitingLoad i 1 0) false).updChan 0 fun c => { c with half := true }
  s.mem.reqs.map fun r => invB s && s.mem.live.contains 0 && decide ((s.chan 0).next ≤ s.slotNow)
    && ((s.chan 0).entry s.slotNow).1 == 1 && r.walk.isNone && (s.readAtoms r).all (fun k => !s.mem.poison.contains k)
    && s.pick 0 0 cls1 == [r] && (s.accOf r.acc).any (fun a => a.cls1 == cls1 && a.lanes.any fun x => r.takes x && x.live)

theorem witness_SlotService : slotB mainLoad false = [true] ∧ slotB (.st false (mm v2 v1 .main true)) true = [true] ∧
    (let s := { State.reset.fresh with now := 15 * Config.memSlot }
     ((s.chan 511).entry s.slotNow).1 = 2 ∧ s.waitingAt 511 = [] ∧ s.sweepAt 511 = false) := by decide +kernel

/-- A retry in the present gutter slot, of a walk's entry or of a load. -/
theorem witness_GutterRetry :
    (let s := sent (waitingLoad mainLoad 1 (15 * Config.memSlot)) true
     invB s = true ∧ (s.oldestRetry 0).isSome = true ∧ s.gutterFree 0 = true ∧
     s.mem.reqs.map (fun r => ((s.readAtoms r).isEmpty, s.reqGrid r, r.walk.isNone)) = [(false, some 0, true)]) := by decide +kernel

theorem witness_ChannelUpkeep :
    (let s := sent (waitingLoad mainLoad 1 (15 * Config.memSlot)) false
     invB s = true ∧ s.gutterFree 0 = true ∧ s.mem.reqs.map (fun r => (r.tag.isSome, s.reqGrid r)) = [(true, some 0)]) := by
  decide +kernel

def sweepB (f xfers : Nat) : Bool × Bool × Bool :=
  let s := withSweep State.reset.fresh f xfers
  (invB s, home s.mem.live f == home (s.mem.live.erase 511) f, decide (xfers < 8))

/-- Granules in place, on their way, and with all transfers done: the first of all, and the last. -/
theorem witness_SweepMoves : sweepB 0 0 = (true, true, true) ∧ sweepB 511 7 = (true, false, true) ∧
    sweepB 511 8 = (true, false, false) ∧ sweepB (511 * 1572864 - 1) 8 = (true, false, false) := by decide +kernel

theorem witness_Grooming : invB (probe (.nop r0)) = true ∧ (probe (.nop r0)).ownerOf 0 = none ∧
    (probe (.nop r0)).ownerOf (cpadKey 0 0) = some 0 := by decide +kernel

/-- A walk's entry at address 0x3000, read. -/
def walked (pte : Nat) : State :=
  let s := probe (.nop r0)
  { s with mem := { s.mem.writeMany 0x3000 (toBytes 8 pte) with
      reqs := [⟨0, some (0, 0, 3), 0x3000, 8, false, false, 0, 0, 0, 0, 0, some (0, 0, 24), false, true, []⟩] } }

theorem witness_WalkReads : ∀ p ∈ [(0, false), (2, true)],
    let s := walked p.1
    (s.waveOf 0).isSome = true ∧ (s.mem.word 0x3000 8 = p.1) ∧ (p.1 % 4 ≠ 0 && !pteBad s.mem.cap 3 p.1) = p.2 := by decide +kernel

def withAsid (s : State) (r : FaultRec) (fences : List MapFence) : State :=
  { s with asids := [⟨5, 0, 0, 0x8000, 4, 0x9000, 4, 0, 0, [r], [], fences⟩] }

def faultRec : FaultRec := ⟨0, 7, 9, 0, 15, true, false, 0, false, none, 3⟩

theorem witness_RecordPosted :
    (let u := withAsid (probe (.nop r0)) faultRec []
     let s := { u with mem := { u.mem with live := [0, 511] } }
     invB s = true ∧ s.asids.map (fun e => ((e.recs.find? fun r => !r.posted) == some faultRec, e.slotFree)) = [(true, true)]
     ∧ s.mem.live.Nodup ∧ s.mem.sweep = none ∧ 0x8000 + 32 ≤ s.mem.cap) := by decide +kernel

/-- Completion records of sequence numbers 0 and 1. -/
def completed (seq : Nat) : State :=
  let s := withAsid (probe (.nop r0)) { faultRec with posted := true } []
  { s with mem := s.mem.writeMany 0x9000 (toBytes 16 (2 + 5 * 2 ^ 19 + seq * 2 ^ 32)) }

theorem witness_CompletionRead : ∀ seq ∈ [0, 1],
    (completed seq).asids.map (fun e => ((completed seq).complReady e, e.recs.any fun r => r.posted && r.seq == seq))
      = [(true, seq == 0)] := by decide +kernel

theorem witness_PagesServed :
    (let s := withAsid (probe (.nop r0)) { faultRec with posted := true, compl := some (0, false) } [⟨[]⟩]
     s.asids.map (fun e => (e.recs.all fun r => r.seq == 0 && s.servable r, e.fences.length)) = [(true, 1)]) := by decide +kernel

/-- An update below CAP, and one at it. -/
theorem witness_WindowCloses : ∀ pa ∈ [64, 512 * 1572864 * 512],
    (let u := probe (.nop r0)
     let s := { u with
       held := [⟨0, 0, pa, none, false, .add, 5, 0, 0, none, none⟩]
       grids := u.grids.map fun g => { g with l := { g.l with ordered := true } }
       waves := u.waves.map fun w => { w with threads := w.threads.map fun t => { t with window := 1 } } }
     invB s = true ∧ s.grids.map (fun g => (s.closable g, g.phase == .run, decide (g.retired < g.blocks))) = [(true, true, true)]
       ∧ s.mem.poison = [] ∧ (decide (s.mem.cap < pa + 4) = (pa != 64))) := by
  decide +kernel
/-- A request whose one read meets a detected error, in its slot; and the sweep's reads that wait for their retry. -/
theorem witness_SlotService_GutterRetry :
    (let s := (sent (waitingLoad mainLoad 1 0) false).updChan 0 fun c => { c with half := true }
     s.mem.reqs.map (fun r => (s.pick 0 0 false == [r], (s.readAtoms r).length)) = [(true, 1)]) ∧
    (let s := sent (waitingLoad mainLoad 1 (15 * Config.memSlot)) true
     let u := { s with mem := { s.mem with reqs := s.mem.reqs.map fun (r : Req) => { r with again := s.readAtoms r } } }
     u.gutterFree 0 = true ∧ u.mem.reqs.map (fun r => ((u.nextAtoms r).length, u.oldestRetry 0 == some r)) = [(1, true)]) ∧
    (let s := withSweep { State.reset.fresh with now := 15 * Config.memSlot } 511 4
     let u := { s with mem := { s.mem with sweep := s.mem.sweep.map fun (w : Sweep) => { w with again := [15, 3, 12] } } }
     invB u = true ∧ u.gutterFree 511 = true ∧ (u.oldestRetry 511).isNone = true ∧ u.sweepAgain 511 = [15, 12]) := by decide +kernel

/-- A granule on its way whose reads are to be judged, with its last atom poisoned; and one of which an atom is lost. -/
theorem witness_SweepJudges :
    (let s := withSweep State.reset.fresh 511 4
     let u := { s with mem := { s.mem with
       sweep := s.mem.sweep.map fun (w : Sweep) => { w with checked := false }
       poison := [homeKey (home s.mem.live 511).1 (home s.mem.live 511).2 + 32 * 15] } }
     invB u = true ∧ (home u.mem.live 511 ≠ home (u.mem.live.erase 511) 511) ∧ u.mem.sweep.map (fun w => (w.xfers, w.checked)) = some (4, false)) ∧
    (let s := withSweep State.reset.fresh 511 8
     let u := { s with mem := { s.mem with sweep := s.mem.sweep.map fun (w : Sweep) => { w with lost := [15] } } }
     invB u = true ∧ u.mem.sweep.map (fun w => (w.xfers, w.lost)) = some (8, [15])) := by decide +kernel

/-- A lane whose pad group is uncorrectable. -/
theorem witness_Grooming_Lane : (let s := probe (.nop r0)
    { s with mem := { s.mem with broken := [cpadKey 0 0] } }.brokenLoc (.pad (cpadKey 0 0)) 4 ≠ []) ∧
    (⟨0, .pad (cpadKey 0 0), false, 0, 0, 0, false⟩ : LaneAcc).live = true := by decide +kernel

/-- A queue slot at CAP, and a walk whose first entry is poisoned. -/
theorem witness_RecordLost :
    (let u := withAsid (probe (.nop r0)) faultRec []
     let s := { u with asids := u.asids.map fun (e : AsidSt) => { e with fqbase := u.mem.cap - 16 } }
     s.asids.map (fun e => ((e.recs.find? fun r => !r.posted) == some faultRec, e.slotFree, decide (s.mem.cap < e.fqbase + 32 * (e.prod % 2 ^ e.fqn) + 32)))
       = [(true, true, true)]) ∧
    (let u := withAsid (probe (.nop r0)) faultRec []
     let s := { u with mem := { u.mem with poison := [u.mem.key 0] } }
     s.asids.map (fun e => ((s.postLost e.root (faultRec.ipage * 65536)).isSome, decide (s.mem.cap < e.fqbase + 32 * (e.prod % 2 ^ e.fqn) + 32)))
       = [(true, false)]) ∧
    (let u := withAsid (probe (.nop r0)) faultRec []
     u.postLost 0 (faultRec.ipage * 65536) = none ∧ u.mem.poison = []) := by decide +kernel

/-- A completion slot in a poisoned atom, and one of its pass that can be read. -/
theorem witness_CompletionRead_Lost : ∀ bad ∈ [true, false],
    let u := completed 0
    let s := { u with mem := { u.mem with poison := if bad then [u.mem.key 0x9000] else [] } }
    s.asids.map (fun e => (s.complBad e, e.recs.any fun r => r.posted)) = [(bad, true)] ∧ (s.grids.map Grid.gid).Nodup ∧
      fld (s.mem.word 0x9000 16) 1 1 = 1 := by decide +kernel

/-- A fence whose access has an update held, and one with none. -/
theorem witness_PagesServed_Held :
    (let u := withAsid (probe (.nop r0)) { faultRec with posted := true, compl := some (0, false) } [⟨[3]⟩]
     let s := { u with held := [⟨0, 0, 64, none, false, .add, 5, 0, 0, none, some 3⟩] }
     s.asids.map (fun e => e.fences.map fun f => s.held.any fun h => f.accs.any fun id => h.acc == some id) = [[true]]
       ∧ (s.accOf 3).isNone = true ∧ s.mem.lostPa 64 4 = false) := by decide +kernel

/-! ## The marshal -/

def queueB (s : State) : Bool × Bool × Bool × Bool :=
  let q := s.part 0
  let a := q.qbase.toNat + 16 * (q.qhead.toNat % 2 ^ q.qsize.toNat)
  let x := s.mem.word a 16
  (q.mstate == .idle && q.qhead != q.qtail && q.preemptAt.isNone, decide (a + 16 ≤ s.mem.cap),
    x / 2 ^ 64 % 2 ^ 32 == 0, x % 8 == 0)

def queued (base : W64) (x : Nat) : State :=
  let s := State.reset.fresh
  { s with mem := s.mem.writeMany 0 (toBytes 16 x) }.updPart 0 fun q => { q with qtail := 1, qbase := base }

/-- The last entry below CAP, the first above it, reserved bits set, and an entry that starts a graph. -/
theorem witness_QueueTaken : queueB (queued (BitVec.ofNat 64 (512 * 1572864 * 512 - 16)) 0) = (true, true, true, true) ∧
    queueB (queued (BitVec.ofNat 64 (512 * 1572864 * 512)) 0) = (true, false, true, true) ∧
    queueB (queued 0 (2 ^ 95)) = (true, true, false, true) ∧ queueB (queued 0 4) = (true, true, true, false) ∧
    queueB (queued 0 (2 ^ 96 + 8)) = (true, true, true, true) := by decide +kernel

/-- A code object of one code section of two words, with its notes (03 R74 to R76), behind a window set of one window. -/
def objectBytes : List Byte :=
  toBytes 32 (0x4F344B49 + 2 ^ 32 + 3 * 2 ^ 48 + 32 * 2 ^ 64 + 192 * 2 ^ 128)
  ++ toBytes 32 (1 + 3 * 2 ^ 8 + 128 * 2 ^ 64 + 16 * 2 ^ 128) ++ toBytes 32 (4 + 3 * 2 ^ 8 + 144 * 2 ^ 64 + 16 * 2 ^ 128)
  ++ toBytes 32 (5 + 3 * 2 ^ 8 + 160 * 2 ^ 64 + 32 * 2 ^ 128) ++ toBytes 8 (loadedExec 0).word.toNat ++ toBytes 8 0
  ++ toBytes 16 (1 + 2 * 2 ^ 8 + 2 ^ 16) ++ toBytes 32 (16 * 2 ^ 32 + 2 ^ 48 + 2 ^ 61)

def checked (magic : Nat) : State :=
  let s := State.reset.fresh
  { s with
    mem := ((s.mem.writeMany 0 (toBytes 32 (7 * 2 ^ 173 + 2 ^ 128))).writeMany 0x4000 objectBytes).writeMany 0x4000 (toBytes 4 magic)
    asids := [⟨5, 0, 0, 0x8000, 4, 0x9000, 4, 0, 0, [], [], []⟩]
    grids := [{ loadedGrid with phase := .check, next := 0, recAddr := 0x6000, l := { loadedLaunch with code := 0x4000, asid := 5 } }]
    }.updPart 0 fun q => { q with clusters := [0, 31] }

/-- A grid that passes its check, and one whose object has another magic number. -/
theorem witness_LaunchChecked : (checked 0x4F344B49).grids.map (checked 0x4F344B49).launchCode = [none] ∧
    (checked 0).grids.map (checked 0).launchCode = [some 0x01] ∧
    (checked 0).grids.map (fun g => (g.part, g.phase, g.gid)) = [(0, .check, 0)] := by decide +kernel

def placeable (l : Launch) : State :=
  { State.reset.fresh with grids := [{ loadedGrid with next := 0, l := l }] }.updPart 0 fun q => { q with clusters := [31] }

/-- A block that finds all of a cluster, and a larger one of 36 waves. -/
theorem witness_BlockPlaced : ∀ l ∈ [loadedLaunch, { loadedLaunch with waves := 36, regs := 16 }],
    let s := placeable l
    invB s = true ∧ s.nextSaved 0 = none ∧ (s.placing 0).isSome = true ∧ (s.part 0).preemptAt = none ∧
    (s.part 0).searchOrder.find? (fun c => (s.room l c).isSome) = some 31 ∧ (s.room l 31).isSome = true ∧
    (s.placeNext 0).isSome = true ∧ s.grids.map (fun g => (g.phase, (s.gridOf g.gid).isSome)) = [(.run, true)] := by decide +kernel

/-- A saved block of one wave that comes back. -/
def comingBack : State :=
  let u := probe (.nop r0)
  let x : SavedBlock := ⟨loadedBlock, [curWave u], [], [], [], [[]], []⟩
  { State.reset.fresh with grids := u.grids, resuming := [⟨0x10000, 0, [x]⟩] }.updPart 0 fun q => { q with clusters := [31] }

theorem witness_PlacementCompletes : (comingBack.nextSaved 0).isSome = true ∧ (comingBack.placeSaved 0).isSome = true := by
  decide +kernel

def notStarted : State :=
  let s := probe (.nop r0)
  { s with waves := s.waves.map fun w => { w with started := none } }

theorem witness_WaveStarts : (notStarted.waves[0]?.map notStarted.startable) = some true ∧
    (notStarted.waveOf 0).isSome = true ∧ (notStarted.waves[0]?.map fun w => (w.started, notStarted.round w % 36,
      (notStarted.part (notStarted.grd (notStarted.blk w)).part).preemptAt)) = some (none, 0, none) ∧ ((notStarted.waves[0]?).map fun w => (notStarted.blk w).budgetAt.isNone) = some true := by
  decide +kernel

def ended (blocks : Nat) : State :=
  let s := probe (.nop r0)
  { s with blocks := s.blocks.map fun b => { b with live := 0 }, waves := [], grids := s.grids.map fun g => { g with blocks := blocks, next := blocks } }

theorem witness_BlockRetires : ∀ n ∈ [1, 2], (ended n).blocks.map (ended n).retirable = [true] ∧
    ((ended n).accs, (ended n).cards.length, (ended n).mmas.length, (ended n).moves.length, (ended n).ended.length)
      = ([], 0, 0, 0, 0) ∧ (ended n).blocks.map (fun b => (b.retired, b.live)) = [(false, 0)] ∧
    (ended n).grids.map (fun g => (g.phase, g.l.team, g.retired + 1 == g.blocks, g.saved)) = [(.run, 1, n == 1, none)] := by
  decide +kernel

/-- A block and a grid whose budgets ran out long ago. -/
def spent : State :=
  let s := later (.nop r0) (probe (.nop r0)) 300 (10 ^ 17)
  { s with
    blocks := s.blocks.map fun b => { b with budget := 300, budgetAt := some 0 }
    grids := s.grids.map fun g => { g with l := { g.l with gbudget := 1 } } }

theorem witness_BudgetsExpire : spent.blocks.map spent.blockLate = [true] ∧ spent.grids.map spent.gridLate = [true] := by
  decide +kernel

theorem witness_GraphWaits :
    (let s := { (withNode State.reset.fresh) with now := 10 ^ 17 }.updPart 0 fun q => { q with
       deadline := some 0, waitgc := some 0, nodes := q.nodes ++ [(⟨1, .sem 0 63 0, false, 0, 0⟩ : Node)] }
     s.phaseLate 0 = true ∧ 0 ≤ s.gc ∧ ((s.part 0).nodes[1]?.map fun n => n.sten) = some false
       ∧ (0 : W32) ≤ ((s.cluster 0).sem 63).count) := by decide +kernel

/-! ## Pre-emption -/

/-- A wave at a header with restart = 1, or that has not started, of a partition that is pre-empted. -/
def leavingState (s : State) (at' : Option Nat) : State :=
  { s with
    mem := s.mem.writeMany 0x1000 (toBytes 8 ((loadedExec 0).word.toNat + 2 ^ 5)) }.updPart 0 fun q =>
    { q with preempt := some (0x10000, 100), preemptAt := at' }

theorem witness_PreemptTakesEffect : ((leavingState (probe (.nop r0)) none).part 0).preempt = some (0x10000, 100) ∧
    ((leavingState (probe (.nop r0)) none).part 0).preemptAt = none := by decide +kernel

/-- The last wave to be saved, started at a restart header and not started; and one with another after it. -/
theorem witness_WaveSaved : (∀ u ∈ [atHeader (probe (.nop r0)) 0, notStarted],
    let s := leavingState u (some 0)
    (s.waves[0]?.map fun w => (s.savable w, (s.grd (s.blk w)).part, (s.waveOf w.uid).isSome)) = some (true, 0, true) ∧
    (s.updWave 0 fun w => { w with saved := true }).allSaved 0 = true) ∧
    (let s := leavingState { notStarted with waves := notStarted.waves.flatMap fun w => [w, { w with uid := 1 }] } (some 0)
     s.waves.map (fun w => (w.uid, s.savable w, (s.grd (s.blk w)).part, w.saved)) = [(0, true, 0, false), (1, true, 0, false)]) := by
  decide +kernel

/-- At the limit, a wave within a block, with a restart point and without one. -/
theorem witness_PreemptLimit : ∀ r ∈ [none, some ((0x1000 : W64), 0)],
    let u := probe (.nop r0)
    let s := { leavingState { u with waves := u.waves.map fun w =>
      { w with threads := w.threads.map fun t => { t with restart := r } } } (some 0) with now := 10 ^ 17 }
    100 ≤ s.gc ∧ (s.partWaves 0).map (fun w => (w.uid, w.handler, w.saved, s.stopped w (w.th 31))) = [(0, false, false, false)] := by
  decide +kernel
/-! ## The fabric -/

/-- An entry of one slot whose regions stand in die pad 0: sender and receiver by `roles`, of `n` contributors. -/
def entryOf (roles n : Nat) : EWord :=
  BitVec.ofNat 512 (2 * 2 ^ 317 + 2 * 2 ^ 314 + (n - 1) * 2 ^ 242 + roles * 2 ^ 226 + 2 ^ 192)

/-- A device with a schedule, on whose port 11 position 1 of frame 0 carries a slot, and with one entry. -/
def linked (slot : Nat) (t : Tent) : State :=
  let s := State.reset.fresh.updPart 0 fun q => { q with clusters := [0] }
  { s with fabric := { s.fabric with plan := some ⟨0, 6000, 17, 1⟩, ents := [t] } }.updPort 11 fun q =>
    { q with tx := [(1, BitVec.ofNat 64 slot)], rx := [(1, BitVec.ofNat 64 slot)] }

def tentOf (st roles n : Nat) : Tent := { Tent.idle 0 0 with st := st, word := some (entryOf roles n) }

/-- The slot of chunk 0 of a node, and its trailer. -/
def slotWord (kind lo hi : Nat) : Nat := kind * 2 ^ 62 + lo * 2 ^ 25 + hi * 2 ^ 11

/-- A sender armed and ready, and one armed and not ready with a semaphore to mark. -/
theorem witness_EntryFires :
    (let s := linked 0 { tentOf 1 2 1 with ready := true }
     (s.tent 0 0).st = 1 ∧ (s.tent 0 0).ready = true ∧ (s.tent 0 0).word.map EWord.recv = some false
       ∧ (List.range 12).all (fun n => (s.port n).siding.isEmpty) = true) ∧
    (let w : EWord := entryOf 2 1 + BitVec.ofNat 512 (63 * 2 ^ 282 + 2 ^ 281)
     let s := withSem (linked 0 { tentOf 1 2 1 with word := some w })
     (s.tent 0 0).st = 1 ∧ (s.tent 0 0).ready = false ∧ (s.tent 0 0).replay = false ∧ w.semen = true
       ∧ s.physCluster 0 w.semcl = some 0 ∧ s.owns 0 w.sem 0 = true) := by decide +kernel

/-- What the transmit slot meets: it is on; the bytes of its node and the flags of its trailer, if held. -/
def txB (s : State) : Bool × Nat × Option Nat × Option Nat :=
  let q := s.port 11
  let ts := tslot (q.tx.get 0 1)
  let t := s.tent ts.part ts.e
  (ts.kind != 0 && q.trained && !s.inHold q.dataAt.1 && t.folio == q.dataAt.1 && decide (2 ≤ t.st) && t.word.isSome
      && !t.leavesOut ts && s.mem.broken.isEmpty,
    t.st, (s.node t (t.word.getD 0) ts.alt ts.chunk ts.lo ts.hi).map (fun x => x.1.length),
    (s.nodeFlags t (t.word.getD 0) ts.alt ts.lo ts.hi).map BitVec.toNat)

theorem witness_TxReads : txB (linked (slotWord 1 0 0) (tentOf 2 2 1)) = (true, 2, some 256, some 0) ∧
    txB (linked (slotWord 2 0 0) (tentOf 2 2 1)) = (true, 2, some 256, some 0) ∧
    txB (linked (slotWord 2 0 0) (tentOf 4 2 1)) = (true, 4, some 256, some 0) ∧
    txB (linked (slotWord 1 1 1) (tentOf 2 2 2)) = (true, 2, none, none) ∧
    (txB (linked 0 (tentOf 2 2 2))).1 = false ∧
    (let t := { tentOf 4 2 2 with twos := [(1, 1)] }
     (t.marker (tslot (BitVec.ofNat 64 (slotWord 2 0 1))), t.marker (tslot (BitVec.ofNat 64 (slotWord 2 0 0)))) = (2, 1)) := by
  decide +kernel

/-- The last bytes below CAP, the first at it, and an atom that is poisoned. -/
theorem witness_FabricMeets :
    (let s := linked 0 (tentOf 1 2 1)
     (s.mem.cap - 256 + 256 ≤ s.mem.cap ∧ s.mem.cap < s.mem.cap + 256 ∧ s.mem.lost (.main 0 none) 256 = false)) ∧
    (let s := linked 0 (tentOf 1 2 1)
     { s.mem with poison := [s.mem.key 224] }.lost (.main 0 none) 256 = true) := by decide +kernel

theorem witness_SlotLayouts : (2 ^ 12 - 1 < 2 ^ 12 ∧ 2 ^ 14 - 1 < 2 ^ 14 ∧ 7 < 8) ∧ ∀ x ∈ some ((2 ^ 14 - 1, 5) : Nat × Nat), x.1 < 2 ^ 14 := by
  decide +kernel

/-- Frames 0, F - 1, F and F + 1 of 17, all groups plaintext; position 255 asked for. -/
theorem witness_ControlSlotsSent :
    (let s := linked (slotWord 1 0 0) (tentOf 2 2 1)
     s.fabric.plan = some ⟨0, 6000, 17, 1⟩ ∧ 0 < 17 ∧ 16 < 17 ∧ (18 : Nat) ≤ 17 + 1 ∧
     (List.range 15).all (fun g => (s.groupKey (s.port 11).tx 0 g).isNone) = true ∧ (s.port 11).trained = true ∧
     ((s.port 11).rxAt 0 1).kind ≠ 0 ∧
     (asksOf [(15, [255])] 17)[0]? = some 255) := by decide +kernel

theorem crc64_zeros (n : Nat) : crc64 (bytesNat (List.replicate n 0)) = 0 := by
  have h : (List.range 8).foldl (fun c (_ : Nat) => crcBit c) ((0 : Nat) ^^^ (0 * 2 ^ 56)) = 0 := by decide
  induction n with
  | zero => rfl
  | succ n ih =>
    simp only [crc64, bytesNat, List.replicate_succ, List.map_cons, List.foldl_cons, BitVec.toNat_ofNat, Nat.zero_mod,
      BitVec.ofNat_eq_ofNat] at ih ⊢
    rw [h]
    exact ih

theorem zeros_joined (l : List Nat) : (l.flatMap fun _ => zeroSlot) = List.replicate (256 * l.length) 0 := by
  induction l with
  | nil => rfl
  | cons x l ih =>
    rw [List.flatMap_cons, ih, zeroSlot, List.replicate_append_replicate, List.length_cons]
    congr 1
    omega

/-- A tag slot of plaintext whose groups all hold zeros. -/
theorem witness_TagArrives :
    (let s := linked (slotWord 1 0 0) (tentOf 2 1 1)
     s.fabric.plan.isSome = true ∧ (s.port 11).trained = true ∧
     (((List.range 255).map (· + 1)).filter fun i => ((s.port 11).rxAt 2 i).kind != 0).length ≤ 3 ∧
     (List.range 15).all (fun g => (s.groupKey (s.port 11).rx 2 g).isNone) = true) ∧
    (let slots := (List.range 256).map fun i => (⟨i, false, zeroSlot⟩ : RxSlot)
     ((List.range 256).all fun i => (slots.find? fun x => x.pos == i).any fun x => !x.bad && (i != 255 || x.bytes == zeroSlot)) = true) ∧
    ∀ g, g < 15 → ((List.replicate 256 (0 : Byte)).drop (16 * g)).take 16 = plainCheck ((groupPos g).flatMap fun _ => zeroSlot) := by
  refine ⟨by decide +kernel, by decide +kernel, fun g h => ?_⟩
  rw [zeros_joined, plainCheck, crc64_zeros]
  exact (show ∀ g, g < 15 → ((List.replicate 256 (0 : Byte)).drop (16 * g)).take 16 = toBytes 16 0 by decide +kernel) g h

theorem witness_SyncArrives : (State.reset.fresh.port 11).trained = true ∧
    ((({ State.reset.fresh with now := 0 }.updPort 11 fun q => { q with trained := false }).port 11).trained = false) := by
  decide +kernel

/-- Ports in each role: a master whose domain agrees, with a request waiting, and a slave that knows its delay. -/
def ptpDevice (role : PtpRole) (f : PtpPort → PtpPort) : State :=
  let s := State.reset.fresh
  { s with fabric := { s.fabric with agreed := true } }.updPort 11 fun q => { q with ptp := f { q.ptp with role := role } }

/-- What a message is to a device: whether it is of the version and domain, and its kind. -/
def ptpKind (s : State) (m : BitVec 512) : Bool × Nat :=
  (ptpField m 1 1 % 16 == 2 && ptpField m 4 1 == s.flash.domain, ptpField m 0 1 % 16)

theorem witness_PtpExchange_PtpSends :
    (let s := ptpDevice .slave fun q => { q with delay := some 40, req := some (7, 0) }
     let r := s.updPort 11 fun q => { q with ptp := { q.ptp with seq := 7 } }
     ptpKind s (s.syncMsg 11) = (true, 0) ∧ ptpKind s (s.delayReq 11) = (true, 2) ∧
     ptpKind s (s.delayResp 11 (s.portIdentity 11) 7 0) = (true, 3) ∧
     ptpField (s.delayResp 11 (s.portIdentity 11) 7 0) 30 2 = 7 ∧
     ptpField (s.delayResp 11 (s.portIdentity 11) 7 0) 44 10 = s.portIdentity 11 ∧ ptpKind s 0 = (false, 0) ∧
     (s.port 11).ptp.role = .slave ∧ (r.port 11).ptp.seq = 7) ∧
    (let s := ptpDevice .master id
     (s.port 11).ptp.role = .master ∧ (s.port 11).ptp.resp = none ∧ s.fabric.agreed = true ∧ s.flash.domain < 256
       ∧ (s.port 11).ptp.seq < 2 ^ 16) ∧
    ((ptpDevice .master fun q => { q with resp := some (1, 2, 3) }).port 11).ptp.resp = some (1, 2, 3) := by decide +kernel

/-- A slot that has arrived, with what carries something or nothing. -/
def arrivedAt (s : State) (b : Byte) : State :=
  s.updPort 11 fun q => { q with arrived := [(0, ⟨0, 0, 1, List.replicate 256 b⟩)] }

def arriveB (s : State) : Bool × Nat × Nat × Bool × Bool :=
  let ts := (s.port 11).rxAt 0 1
  let t := s.tent ts.part ts.e
  ((s.port 11).arrived.length == 1, ts.kind, t.st, t.folio == 0, ((s.port 11).arrived.map fun x => x.2.data) == [zeroSlot])

/-- A slot of no entry; of an entry that is armed, with room and without; of a sender; and the root of a receiver. -/
theorem witness_SlotArrives : (arriveB (arrivedAt (linked 0 (tentOf 1 1 1)) 1)).2.1 = 0 ∧
    arriveB (arrivedAt (linked (slotWord 1 0 0) (tentOf 1 1 1)) 1) = (true, 1, 1, true, false) ∧
    arriveB (arrivedAt (linked (slotWord 1 0 0) (tentOf 1 1 1)) 0) = (true, 1, 1, true, true) ∧
    arriveB (arrivedAt (linked (slotWord 1 0 0) (tentOf 2 2 1)) 1) = (true, 1, 2, true, false) ∧
    (let s := arrivedAt (linked (slotWord 1 0 0) { tentOf 2 1 1 with trails := [⟨false, 0, 0, 0⟩] }) 1
     let w := entryOf 1 1
     arriveB s = (true, 1, 2, true, false) ∧ w.recv = true ∧ w.contrib = false ∧ w.nslots = 1 ∧ w.isw = false ∧ w.n = 1
       ∧ s.destStalled 0 w = false ∧ s.regionLoc 0 w.dspace w.dloc w.dkey w.dst w.bytes = some (.pad (dpadKey 0 0))
       ∧ s.regionHere 0 w.dspace w.dloc w.dst w.bytes = true ∧ s.liveBar (dpadKey 0 0) 256 = false
       ∧ s.regionPlace 0 w.dspace w.dloc w.dkey w.dst w.bytes = some (.pad (dpadKey 0 0)) ∧ s.mem.broken = []) := by decide +kernel

/-- A folio that has failed, one whose predecessor is marked, and one of neither. -/
theorem witness_FolioEnds :
    (let s := linked 0 (tentOf 1 1 1)
     let u := { s with fabric := { s.fabric with synced := some 0 } }
     u.fabric.plan.isSome = true ∧ u.gcDisagrees 0 = false ∧ u.fabric.marks = [] ∧ u.fabric.stops = []) ∧
    (let s := linked 0 { tentOf 4 1 1 with folio := 8, node := some 0 }
     let u := { s with fabric := { s.fabric with folio := 9, failed := [9], marks := [(1, 8)], synced := some 0 } }
     u.gcDisagrees 9 = true ∧ 9 ∈ u.fabric.failed ∧ u.fabric.marks.find? (fun m => m.2 + 1 == 9) = some (1, 8)
       ∧ u.fabric.hold = none ∧ (u.tent 0 0).st = 4 ∧ (u.tent 0 0).node.isSome = true) := by decide +kernel

/-- A hold whose resume is at hand; one that can hear it announced, and one whose GC is 21 ticks off. -/
theorem witness_PodResumes :
    (let s := State.reset.fresh
     let held := fun (f : Nat) (r : Option Nat) (o : Int) =>
       { s.fabric with hold := some 5, resume := r, folio := f, offset := o }
     ((held 7 (some 7) 0).resume, (held 7 (some 7) 0).folio, (held 6 none 20).offset.natAbs, (held 6 none 21).offset.natAbs,
       (held 6 none 21).isMaster) = (some 7, 7, 20, 21, false)) := by decide +kernel

/-- The first read that a port holds: its slot and entry, whether it must still wait, and the bytes of the node it sends. -/
def heldB (s : State) : Bool × Nat × Bool × Option Nat :=
  let q := s.port 11
  let ts := tslot (q.tx.get 0 (q.held.headD (0, 0)).2)
  let t := s.tent ts.part ts.e
  let w := t.word.getD 0
  (q.held == [(0, 1)] && q.trained && !s.inHold 0 && t.folio == 0 && !t.leavesOut ts && !ts.trailer && ts.kind != 0, t.st,
    s.ownHeld t w ts.alt ts.chunk ts.lo ts.hi,
    ((((s.updPort 11 fun q => { q with held := [] }).setTent t).readOwn t w ts.alt ts.chunk ts.lo ts.hi).node t w ts.alt ts.chunk ts.lo
      ts.hi).map fun x => x.1.length)

/-- A transmit read that waited for a sweep and need wait no longer; and a node that was not sent at its read point. -/
theorem witness_HeldReads :
    heldB ((linked (slotWord 1 0 0) (tentOf 2 2 1)).updPort 11 fun q => { q with held := [(0, 1)] }) = (true, 2, false, some 256) ∧
    ({ tentOf 2 2 1 with unsent := [(false, 0, 0)] }.unsent.contains (false, 0, 0)) = true ∧ (tentOf 2 2 1).bad = [] := by
  decide +kernel

/-- A port that has failed training and a held folio, in which no slot but sync slots goes out. -/
theorem witness_ControlSlots_Held : (let s := linked (slotWord 1 0 0) (tentOf 2 2 1)
    let u := { s with fabric := { s.fabric with hold := some 0 } }
    s.inHold 0 = false ∧ u.inHold 0 = true ∧ ((s.updPort 11 fun q => { q with trained := false }).port 11).trained = false) := by
  decide +kernel

/-- A port in mid-folio with slots asked for, which are lost as its training fails; and one with nothing to lose. -/
theorem witness_TrainingFails :
    (let s := (linked (slotWord 1 0 0) (tentOf 2 2 1)).updPort 11 fun q => { q with asks := [(0, [1])], ctlAt := (0, 3) }
     s.inHold 0 = false ∧ (s.port 11).tagged.2 = 0 ∧ ((s.port 11).ctlAt.2 + 1) / 3 = 1 ∧ ((s.port 11).rxAt 0 1).kind ≠ 0 ∧
       s.groupKey (s.port 11).rx 0 (groupOf 1) = none ∧ (s.port 11).waiting = []) ∧
    (State.reset.fresh.port 11).session = none ∧ (State.reset.fresh.port 11).asks = [] ∧ State.reset.fresh.fabric.plan = none := by
  decide +kernel

/-! ## Switches -/

def session (step : Option Nat) (live : Bool) (missed : Nat) : Session :=
  { unit := 3, step := step, live := live, policy := 0, jslot := 5, digest := 0, chain := [], sent := [], vca := []
    kex := [], mutualAuth := false, hs := 0, rsp := 0, outKey := (0, 0), inKey := (0, 0), tx := 0, rx := 0, last := [], sentAt := 0, resent := false, missed := missed, awaiting := true, beat := 0, keys := [] }

def withSession (x : Session) : State := State.reset.fresh.updPort 11 fun q => { q with session := some x }

/-- A policy record for unit 3 with one measurement, at the address that the session names; a job key is loaded. -/
def withPolicy (step : Nat) : State :=
  let s := withSession (session (some step) false 0)
  { s with
    fabric := { s.fabric with jkeys := s.fabric.jkeys.set none 5 (some (7, 9)) } }

/-- A message of the switch as it travels: the record of a live session, whose two keys are the same here. -/
def onWire (x : Session) (m : List Byte) : List Byte := if x.live then natBytes (x.sealMsg 11 (bytesNat m)) else m

def spoken (s : State) (x : Session) (m : List Byte) : AttestResp := ⟨fragments s.unitOf 3 0 (onWire x m), true, 3⟩

def hearsB (s : State) (x : Session) (r : AttestResp) (m : List Byte) : Bool :=
  (s.port 11).session == some x && (s.port 11).inMsg == none && (s.received 11 r.flits == (none, [onWire x m]))
    && (!x.live || (x.openMsg 11 (bytesNat (onWire x m))).map natBytes == some m)

theorem hears_of {s : State} {x : Session} {r : AttestResp} {m : List Byte} (h : hearsB s x r m = true) : s.Hears 11 x r m := by
  simp only [hearsB, Bool.and_eq_true, beq_iff_eq, Bool.or_eq_true, Bool.not_eq_true'] at h
  refine ⟨h.1.1.1, h.1.1.2, onWire x m, h.1.2, fun hl => by simp [onWire, hl], fun hl => ?_⟩
  cases h.2 with
  | inl h => rw [h] at hl; cases hl
  | inr h => exact h

/-- VERSION with 1.4 and without it, DIGESTS, and the answer of the vendor-defined exchange. -/
def version (v : Nat) : List Byte := natBytes [0x10, 0x04, 0, 0, 0, 1, 0, v]
def digests : List Byte := natBytes [0x14, 0x01, 0, 1]
def done : List Byte := natBytes [0x14, 0x7E, 0, 0, 4, 0, 4, 0, 0, 0, 0, 1, 0, 0]

theorem witness_AttestSteps :
    (withPolicy 1).Hears 11 (session (some 1) false 0) (spoken (withPolicy 1) (session (some 1) false 0) (version 0x14)) (version 0x14) ∧
    (withPolicy 4).Hears 11 (session (some 4) false 0) (spoken (withPolicy 4) (session (some 4) false 0) digests) digests ∧
    (withSession (session (some 8) true 0)).Hears 11 (session (some 8) true 0)
      (spoken (withSession (session (some 8) true 0)) (session (some 8) true 0) done) done ∧
    (versionOk (version 0x14) = true ∧ versionOk (version 0x13) = false ∧ msgAt digests 1 1 = 0x01 ∧
      ((withPolicy 4).policyOf 0).isSome = true ∧ msgAt done 1 1 = 0x7E ∧ vendorStatus done = 0) ∧
    (withPolicy 1).stepPasses (session (some 1) false 0) (spoken (withPolicy 1) (session (some 1) false 0) (version 0x14)) (version 0x14) 1 :=
  ⟨hears_of (by decide +kernel), hears_of (by decide +kernel), hears_of (by decide +kernel), by decide +kernel,
    show versionOk (version 0x14) = true by decide +kernel⟩

/-- The largest flit that a message fills; a message of two fragments; and the answer to a heartbeat. -/
theorem witness_ControlChannel :
    (let f : Flit := ⟨2 ^ 16 - 1, 3, 255, 255, 48, true, true, List.replicate 48 255⟩
     f.dst < 2 ^ 16 ∧ f.msg < 256 ∧ f.frag < 256 ∧ f.len = f.payload.length ∧ f.len ≤ 48 ∧ (readFlit f.word).isSome = true
       ∧ (readFlit (f.word ^^^ 1)).isNone = true) ∧
    (let m := List.replicate 49 (7 : Byte)
     m ≠ [] ∧ m.length ≤ 12288 ∧ (fragments 5 3 255 m).foldl (takeFlit 5) (none, []) = (none, [m])) ∧
    (let f : Flit := ⟨5, 3, 1, 2, 1, true, false, [9]⟩
     (readFlit f.word) = some f ∧ f.len ≠ 0) ∧
    (let f : Flit := ⟨5, 3, 1, 0, 0, true, false, []⟩
     (readFlit f.word) = some f) ∧
    (let s := withSession (session none true 0)
     let m : List Byte := natBytes [0x14, 0x68, 0, 0]
     hearsB s (session none true 0) (spoken s (session none true 0) m) m = true ∧ msgAt m 1 1 = 0x68) ∧
    (withPolicy 7).fabric.jkeys.get none 5 = some (7, 9) := by decide +kernel

theorem witness_SessionEnds : ((withSession (session (some 1) true 2)).port 11).session = some (session (some 1) true 2) ∧
    (State.reset.fresh.port 11).session = none ∧
    (let s := withSession (session (some 1) true 2)
     let u := { s with fabric := { s.fabric with folio := 8 } }
     (u.port 11).session.any (fun x => decide (x.sentAt + 8 ≤ u.fabric.folio) && !x.resent && x.awaiting) = true) := by
  decide +kernel
/-- A record with one changed byte, which no live session opens. -/
theorem witness_ControlReceived : (let x := session (some 8) true 0
    let s := withSession x
    let c := ((onWire x done).set 20 0xFF)
    let r : AttestResp := ⟨fragments s.unitOf 3 0 c, true, 3⟩
    (s.received 11 r.flits).2 = [c] ∧ x.openMsg 11 (bytesNat c) = none ∧ x.step = some 8) ∧
    ((withSession (session none true 0)).received 11 []).2 = [] := by decide +kernel

/-! ## Events and power -/

def ev (code : Nat) : Ev := { (default : Ev) with code := code }

def withArb (f : Arb → Arb) : State := { State.reset.fresh with arb := f State.reset.fresh.arb }

theorem witness_EventRecord : (let e := ev 0xFFFF
    e.die < 4 ∧ e.cluster < 8 ∧ e.slice < 8 ∧ e.slot < 8 ∧ e.kind < 32 ∧ e.unit < 2 ^ 48 ∧ e.code < 2 ^ 16 ∧ e.seq < 2 ^ 64
      ∧ e.gc < 2 ^ 64 ∧ (∀ a ∈ e.asid, a < 2 ^ 13) ∧ ∀ p ∈ e.part, p < 8) ∧
    (let e := { ev 0 with die := 3, cluster := 7, slice := 7, slot := 7, kind := 31, asid := some 8191, part := some 7 }
     e.die < 4 ∧ e.kind < 32 ∧ (∀ a ∈ e.asid, a < 2 ^ 13) ∧ ∀ p ∈ e.part, p < 8) := by decide

/-- A ring of 16 entries with one free and with none; a dropped count; an event that finds room in the store, and none. -/
theorem witness_ArbiterActs :
    (let a := (withArb fun a => { a with size := 4, tail := 15, held := [ev 1] }).arb
     4 ≤ a.size ∧ a.size ≤ 20 ∧ (a.tail - a.head).toNat < 2 ^ a.size ∧ a.held = [ev 1]) ∧
    (let a := (withArb fun a => { a with size := 4, tail := 16, dropped := [(7, 2)] }).arb
     ¬ (a.tail - a.head).toNat < 2 ^ a.size ∧ a.dropped = [(7, 2)] ∧ a.held.length < 256) ∧
    (let a := (withArb fun a => { a with inbox := [(5, ev 1), (4, ev 2)] }).arb
     a.held = [] ∧ a.dropped = [] ∧ a.inbox ≠ [] ∧ (ev 2).code ≠ 0) ∧
    256 ≤ (List.replicate 256 (ev 1)).length := by decide +kernel

def withVf (f : Vf → Vf) : State := State.reset.fresh.updVf f

/-- No move, moves down and up, a pending point, and a move that is complete. -/
theorem witness_ClockMoves : State.reset.fresh.booted = true ∧ State.reset.fresh.host.busy = none ∧
    State.reset.fresh.host.owner = false ∧ State.reset.fresh.host.vf.current = 15 ∧ State.reset.fresh.host.vf.target = none ∧
    State.reset.fresh.host.vf.pending = none ∧ State.reset.fresh.clockOf 0 < State.reset.fresh.clockOf 15 ∧
    (let s := withVf fun v => { v with target := some 15, settled := true }
     s.host.vf.target = some 15 ∧ s.host.vf.settled = true ∧ (s.clusters.all fun x => x.clock == s.clockOf 15) = true) ∧
    (let s := withVf fun v => { v with target := some 0, pending := some 3, settled := false }
     s.host.vf.target = some 0 ∧ s.host.vf.settled = false ∧ (s.clusters.any fun x => x.clock != s.clockOf 0) = true) ∧
    (withVf fun v => { v with pending := some 3 }).host.vf.pending = some 3 := by decide +kernel

def overB (s : State) (cl : Nat) : Bool × Nat × Nat × Bool :=
  (invB s, ((s.cluster cl).overNext.map Prod.fst).getD (s.cluster cl).ovr, (s.cluster cl).ceil, s.host.raised.contains cl)

theorem witness_OverridesStep : overB State.reset.fresh 31 = (true, 1, 4, false) ∧
    overB (State.reset.fresh.updCluster 31 fun c => { c with overNext := some (4, 1) }) 31 = (true, 4, 4, false) ∧
    overB { (State.reset.fresh.updCluster 31 fun c => { c with ovr := 2 }) with host := { State.reset.fresh.host with
      raised := [31] } } 31 = (true, 2, 4, true) := by decide +kernel

/-- The budget is the floor of 400 W; of 401 W the lowest cluster steps up, of 359 W the highest that was raised steps
down, and a cap's time is at hand. -/
theorem witness_BudgetRule : State.reset.fresh.budget = 400 ∧ 10 * 359 < 9 * 400 ∧ ¬ 10 * 360 < 9 * 400 ∧
    (overB State.reset.fresh 0).2.1 = 1 ∧
    (let s := { State.reset.fresh with clusters := State.reset.fresh.clusters.map fun c => { c with ovr := 4 } }
     invB s = true ∧ (List.range 32).all (fun k => decide ((s.cluster k).ceil ≤ (overB s k).2.1)) = true) ∧
    (let s := { State.reset.fresh with host := { State.reset.fresh.host with raised := [0, 31], capUntil := some 0 } }
     invB s = true ∧ (∀ d ∈ s.host.raised, d ≤ 31) ∧ s.host.capUntil = some 0) := by decide +kernel

/-- A message at the lower end and one just below it. -/
theorem witness_CapMessages : State.reset.fresh.booted = true ∧ State.reset.fresh.host.rcap = none ∧
    (400 * 2 ^ 48 + 1) / 2 ^ 48 % 2 ^ 16 = 400 ∧ (400 * 2 ^ 48 + 1) / 2 ^ 40 % 2 ^ 8 = 0 ∧
    (399 * 2 ^ 48 + 1) / 2 ^ 48 % 2 ^ 16 = 399 := by decide +kernel

/-! ## Boot and host -/

theorem witness_BootSteps : State.reset.flash.signed = true ∧ State.reset.flash.wellFormed = true ∧
    State.reset.flash.retire ≠ BitVec.allOnes 512 ∧
    ({ State.reset.flash with signed := false }.signed = false) ∧ ({ State.reset.flash with wellFormed := false }.wellFormed = false)
    ∧ ({ State.reset.flash with retire := BitVec.allOnes 512 }.retire = BitVec.allOnes 512) := by decide +kernel

/-- The booted device, whose port A owns command; with argument doublewords. -/
def owned (args : List Nat) : State :=
  let s := State.reset.fresh
  { s with host := { s.host with arg := BitVec.ofNat 512 (args.zipIdx.foldl (fun v x => v + x.1 * 2 ^ (64 * x.2)) 0) } }

theorem owned_owned (args : List Nat) : (owned args).Owned false := ⟨⟨rfl, rfl, rfl⟩, rfl⟩

def busyHost (s : State) : State := { s with host := { s.host with busy := some (10, false) } }

theorem witness_HostOwnership : State.reset.booted = false ∧ (owned []).booted = true ∧ (owned []).host.busy = none ∧
    (owned []).host.owner ≠ true ∧ (busyHost (owned [])).host.busy = some (10, false) ∧ (busyHost (owned [])).now < 10 := by
  decide +kernel

/-- Partition 7 idle with a ring of 16 and 3 entries submitted, running, and with a resident block. -/
theorem witness_PageWrites :
    (let s := (owned []).updPart 7 fun q => { q with qsize := 4, qtail := 3, grbase := 0x10000, grsize := 1 }
     (s.part 7).locked = false ∧ (s.part 7).mstate = .idle ∧ s.resident 7 = false ∧ s.fabric.ents = [] ∧
     3 ≤ (16 : W32).toNat ∧ (16 : W32).toNat ≤ 2 ^ (s.part 7).qsize.toNat ∧ ¬ (17 : W32).toNat ≤ 2 ^ (s.part 7).qsize.toNat ∧
     (s.part 7).grbase.toNat ≤ 0x1FE00 ∧ 0x1FE00 + 512 ≤ (s.part 7).grbase.toNat + 65536 * (s.part 7).grsize.toNat) ∧
    (((owned []).updPart 7 fun q => { q with mstate := .running }).part 7).mstate ≠ .idle ∧
    (let s := { owned [] with blocks := [loadedBlock], grids := [loadedGrid] }
     s.resident 0 = true ∧ (s.part 0).locked = false ∧ (s.part 0).mstate = .idle) := by decide +kernel

/-- The slot table of pseudo-channel 511 with an entry written. -/
def slotsWith (i : Nat) (v : Byte) : List Byte := (((owned []).chan 511).tableNext.setIfInBounds i v).toList

/-- Another entry that keeps the gutters; one that takes a gutter away; one of a locked partition. -/
theorem witness_SlotTableWrites : (List.range 64).all (fun k => (slotsWith 0 0x4C ++ slotsWith 0 0x4C).drop k |>.take 16
      |>.any fun e => slotKind e == 2) = true ∧
    ((slotsWith 63 0x4C).drop 48).any (fun e => slotKind e == 2) = false ∧ (slotsWith 0 0).drop 1 = (slotsWith 0 0x44).drop 1 ∧
    (owned []).resident 0 = false ∧ (owned []).mem.sweep = none ∧
    ((owned []).updPart 1 fun q => { q with locked := true }).isLocked 1 = true := by decide +kernel

theorem witness_HostRegisters : invB (owned []) = true ∧ (owned []).arb.tail = (owned []).arb.head ∧
    ((withArb fun a => { a with tail := 1 }).arb.tail ≠ (withArb fun a => { a with tail := 1 }).arb.head) ∧
    (owned []).clusters.all (fun c => decide (c.clock ≤ 36)) = true ∧ (owned []).host.status < 256 ∧
    (owned []).host.op < 2 ^ 16 ∧ (owned []).budget < 2 ^ 16 := by decide +kernel

/-- The last bytes below CAP, the first above it, and a byte in the window of a locked partition. -/
theorem witness_Aperture : 2 ^ 32 - 8 + 8 ≤ (2 ^ 32 : Nat) ∧ (owned []).inLocked 0 8 = false ∧ (owned []).mem.poison = [] ∧
    (let s := { owned [] with host := { (owned []).host with apbase := BitVec.ofNat 64 (512 * 1572864 * 512 - 2 ^ 32) } }
     s.host.apbase.toNat + (2 ^ 32 - 8) + 8 = s.mem.cap) ∧
    (let s := { owned [] with mem := { (owned []).mem with poison := [(owned []).mem.key 32] } }
     (s.atomsAt 63 1).any (fun k => s.mem.poison.contains k) = true) ∧
    (let s := withCode (probe (.nop r0))
     (s.updPart 0 fun q => { q with locked := true }).inLocked 65535 1 = true
       ∧ (s.updPart 0 fun q => { q with locked := true }).inLocked 65536 1 = false) := by decide +kernel

/-- An estimate that has stood over its limit for 64 cycles, with the ceiling above and reached; one below 80% for 65,536. -/
theorem witness_OverridesStep_Counts : (let s := { State.reset.fresh with now := 10 ^ 18 }
    let u := s.updCluster 31 fun c => { c with overAt := some 0, lowAt := some 0 }
    invB u = true ∧ 64 * Config.cycle (u.cluster 31).clock ≤ u.now ∧ 65536 * Config.cycle (u.cluster 31).clock ≤ u.now ∧
      1 < (u.cluster 31).ceil ∧ ((u.updCluster 31 fun c => { c with ovr := 4 }).cluster 31).ceil ≤ 4) := by decide +kernel

/-- Readings on both sides of a limit of 100. -/
theorem witness_CurrentReadings : invB State.reset.fresh = true ∧ (5 * 79 < 4 * 100 ∧ ¬ 5 * 80 < 4 * 100) := by decide +kernel

/-- A move down before and after its voltage changes, and one that waits for its clusters; the whole time of a mean. -/
theorem witness_ClockMoves_Volts :
    (let s := withVf fun v => { v with target := some 15, voltAt := none }
     s.host.vf.voltAt = none ∧ (s.clusters.all fun x => x.clock == s.clockOf 15) = true) ∧
    (let s := withVf fun v => { v with target := some 15, voltAt := some 0, settled := true }
     s.host.vf.voltAt ≠ none ∧ s.host.vf.settled = true) ∧
    (let s := withVf fun v => { v with target := some 0, voltAt := some 0, settled := false }
     s.host.vf.voltAt ≠ none ∧ s.host.vf.settled = false) := by decide +kernel

theorem witness_BudgetRule_MeanPower :
    (let s := { State.reset.fresh with host := { State.reset.fresh.host with power := [(0, 401)], budgetAt := 0 }, now := 10 ^ 20 }
     1048576 ≤ s.gc ∧ 0 ≤ s.gc - 1048576 ∧ s.host.budgetAt ≤ s.gc ∧ s.meanPower = 401 ∧ s.budget < 401) := by decide +kernel

/-- A command at its end, with a failover that waits and without; and the failover's own time. -/
theorem witness_CommandEnds : (let s := { owned [] with host := { (owned []).host with busy := some (10, false) }, now := 10 }
    s.host.busy = some (10, false) ∧ s.host.moveAt = none ∧ s.host.moving = false ∧ s.now < 10 + Config.gcTick ∧ 10 ≤ s.now) ∧
    (let s := { owned [] with host := { (owned []).host with moveAt := some 10 }, now := 10 }
     s.host.busy = none ∧ s.host.moveAt = some 10 ∧ 10 ≤ s.now) := by decide +kernel

/-- A command of a locked partition in its session, its argument words, and one that concerns two locked partitions. -/
theorem witness_SpdmMessages : (let s := (owned [7]).updPart 7 fun q => { q with locked := true }
    s.lockedBy 7 0x0001 0 s.host.arg = true ∧ s.lockedBy 6 0x0001 0 s.host.arg = false ∧ (s.part 7).locked = true ∧
      s.resident 7 = false ∧ s.fabric.ents = []) ∧
    (∀ k, k < 8 → argOf (owned [7]).host.arg k = ((#v[7, 0, 0, 0, 0, 0, 0, 0] : Vector W64 8)[k]?.getD 0).toNat) := by decide +kernel

/-! ## Commands -/

def commandsB (s : State) (op slot : Nat) : Bool :=
  s.booted && s.host.busy == none && s.host.moveAt == none && s.host.owner == false && !s.lockedOut op slot s.host.arg

theorem commands_of {s : State} {op slot : Nat} (h : commandsB s op slot = true) : s.Commands false op slot := by
  simp only [commandsB, Bool.and_eq_true, beq_iff_eq, Bool.not_eq_true'] at h
  exact ⟨⟨⟨h.1.1.1.1, h.1.1.1.2, h.1.1.2⟩, h.1.2⟩, h.2⟩

/-- Every command runs when no partition is locked; partition 7 locked keeps its PARTDEF. -/
theorem witness_LockedOut : (owned [7]).Owned false ∧
    (mailboxCommands false 5 true).all (fun x => commandsB (owned [7]) x.2.1 x.2.2) = true ∧
    (let s := (owned [7]).updPart 7 fun q => { q with locked := true }
     s.lockedOut 0x0001 0 s.host.arg = true ∧ (s.part 7).locked = true ∧ s.arg 0 = 7) :=
  ⟨owned_owned _, by decide +kernel, by decide +kernel⟩

/-- A partition of all clusters; of one too many; of a cluster that another has. -/
theorem witness_Partdef : (owned [7, 2 ^ 32 - 1]).Commands false 0x0001 0 ∧ (owned [7, 2 ^ 32 - 1]).arg 1 < 2 ^ 32 ∧
    (owned [7, 2 ^ 32 - 1]).resident 7 = false ∧ (owned [8, 0]).arg 0 = 8 ∧ (owned [0, 2 ^ 32]).arg 1 = 2 ^ 32 ∧
    (((owned [7, 2 ^ 31]).updPart 0 fun q => { q with clusters := [31] }).part 0).clusters = [31] ∧
    maskBits 32 ((owned [7, 2 ^ 31]).arg 1) = [31] :=
  ⟨commands_of (by decide +kernel), by decide +kernel⟩

/-- A descriptor at ASID 8191 with queues of 16 and 65,536 slots, and a reserved bit in another. -/
def described (args : List Nat) (x : Nat) : State :=
  { owned args with mem := (owned args).mem.writeMany (64 * 8191) (toBytes 64 x) }

def fitsB (s : State) : Bool :=
  let a := s.host.asidtbl.toNat + 64 * s.arg 0
  let x := s.mem.word a 64
  decide (a + 64 ≤ s.mem.cap) && x / 2 ^ 18 % 2 ^ 302 == 0 && x % 2 ^ 8 == 0 && decide (4 ≤ x / 2 ^ 13 % 32)
    && decide (x / 2 ^ 13 % 32 ≤ 16) && decide (4 ≤ x / 2 ^ 8 % 32) && decide (x / 2 ^ 8 % 32 ≤ 16)
    && x / 2 ^ 448 % 2 ^ 64 % 16 == 0 && x / 2 ^ 384 % 2 ^ 64 % 32 == 0 && x / 2 ^ 320 % 2 ^ 64 % 4096 == 0

theorem witness_Asidset : (owned [8192, 0, 0]).Commands false 0x0002 0 ∧ (owned [8191, 7, 1]).Commands false 0x0002 0 ∧
    ((owned [8192, 0, 0]).arg 0 = 8192 ∧ fitsB (described [8191, 7, 1] (16 * 2 ^ 13 + 4 * 2 ^ 8)) = true
      ∧ fitsB (described [8191, 7, 1] (16 * 2 ^ 13 + 4 * 2 ^ 8 + 2 ^ 18)) = false ∧ (owned [8191, 7, 1]).grids = []
      ∧ (described [8191, 7, 1] 0).arg 1 = 7 ∧ (described [8191, 7, 1] 0).arg 2 = 1 ∧ (owned [8191, 7, 0]).arg 2 = 0) ∧
    (let s := { owned [0, 0, 1] with grids := [loadedGrid] }
     (s.grids.any fun g => g.l.asid == s.arg 0 && g.phase == .run) = true) :=
  ⟨commands_of (by decide +kernel), commands_of (by decide +kernel), by decide +kernel, by decide +kernel⟩

theorem witness_MapfenceTerminate : (owned [8192]).Owned false ∧ (owned [8192]).arg 0 = 8192 ∧
    (owned [8191]).asid 8191 = none ∧ ((withAsid (owned [5]) faultRec []).asid 5).isSome = true ∧
    (withAsid (owned [5]) faultRec []).arg 0 = 5 ∧ ((probe (.nop r0)).grids.map Grid.gid).Nodup ∧
    ((probe (.nop r0)).grids.any fun g => g.l.asid == 0 && g.phase == .run) = true :=
  ⟨owned_owned _, by decide +kernel⟩

/-- Semaphore 63 of cluster 0 is partition 0's: released with a block resident, and taken by partition 7. -/
theorem witness_Semassign : (owned [32, 0, 0]).Commands false 0x0005 0 ∧ (withSem (owned [0, 2 ^ 63, 7])).Commands false 0x0005 0 ∧
    invB (withSem (owned [0, 2 ^ 63, 7])) = true ∧
    (let s := withSem (owned [0, 2 ^ 63, 7])
     s.arg 0 = 0 ∧ s.arg 2 = 7 ∧ (s.arg 1).testBit 63 = true ∧ ((s.cluster 0).sem 63).owner = some 0 ∧ s.resident 0 = false) ∧
    (let s := withSem { owned [0, 2 ^ 63, 8] with blocks := [loadedBlock], grids := [loadedGrid] }
     ((s.cluster 0).sem 63).owner = some 0 ∧ s.resident 0 = true) :=
  ⟨commands_of (by decide +kernel), commands_of (by decide +kernel), by decide +kernel, by decide +kernel, by decide +kernel⟩

/-- Migration slots in every table, or none. -/
def migrating (args : List Nat) (n : Nat) : State :=
  { owned args with flash := { (owned args).flash with
      slots := Vector.ofFn fun i => if i.val < n then 0xC0 else if i.val % 16 = 15 then 0x80 else 0x44 } }

theorem witness_Retire : (owned [0]).Owned false ∧ (owned [0]).host.arg.toNat = 0 ∧
    ((migrating [2] 3).chan 511).table.toList.countP (fun e => slotKind e == 3) = 3 ∧
    ((migrating [2] 4).chan 511).table.toList.countP (fun e => slotKind e == 3) = 4 ∧
    (migrating [2] 4).mem.live.contains 1 = true ∧ ((migrating [2] 4).mem.live.filter fun q => !(2 : Nat).testBit q) ≠ [] ∧
    (owned (List.replicate 8 (2 ^ 64 - 1))).mem.live.filter (fun q => !(owned (List.replicate 8 (2 ^ 64 - 1))).host.arg.toNat.testBit q) = []
    ∧ (withSweep (owned [2]) 0 0).mem.sweep ≠ none :=
  ⟨owned_owned _, by decide +kernel⟩

/-- A save area of partition 7 at 0x10000, with `n` blocks of the grid that has block 0 out; and one of another version. -/
def savedArea (version n : Nat) : State :=
  let s := owned [7, 0x10000]
  { s with
    mem := s.mem.writeMany 0x10000 (toBytes 64 (0x53564B34 + 7 * 2 ^ 32 + version * 2 ^ 48 + n * 2 ^ 160) ++ toBytes 4 128)
    grids := [{ loadedGrid with part := 7, out := [⟨0, 0, []⟩] }] }

theorem witness_PreemptResume : (owned [7, 0, 0, 1]).Owned false ∧ (owned [8]).arg 0 = 8 ∧
    (owned [7, 0, 1 <<< 20, 1]).saveSize 7 ≤ (owned [7, 0, 1 <<< 20, 1]).arg 2 ∧
    (owned [7, 0, 0, 1]).arg 2 < (owned [7, 0, 0, 1]).saveSize 7 ∧
    (((owned [7]).updPart 7 fun q => { q with preempt := some (0, 1) }).part 7).preempt ≠ none ∧
    (∀ v ∈ [0, 1], (savedArea v 0).mem.word ((savedArea v 0).arg 1) 64 % 2 ^ 32 = 0x53564B34 ∧
      (savedArea v 0).mem.word ((savedArea v 0).arg 1) 64 / 2 ^ 48 % 2 ^ 16 = v) ∧
    (∀ n ∈ [0, 1], ((savedArea 1 n).savedAt 7 0x10000).length = n) :=
  ⟨owned_owned _, by decide +kernel⟩

theorem witness_MarshalCommands : (owned [7]).Owned false ∧
    (((owned [7]).updPart 7 fun q => { q with mstate := .stopped }).part 7).mstate = .stopped ∧ ((owned [7]).part 7).mstate ≠ .stopped ∧
    (let s := (owned [9]).updPart 7 fun q => { q with nodes := [(⟨0, .sig 5 (some 9), false, 0, 0⟩ : Node)] }
     (s.part 7).nodes.map (fun m => (m.kind, m.sten)) = [(.sig 5 (some 9), false)] ∧ s.arg 0 = 9) :=
  ⟨owned_owned _, by decide +kernel⟩

/-- A window of a running grid that uses key slot 127, and a session that holds job key slot 127. -/
theorem witness_KeyCommands : (owned []).Commands false 0x000B 127 ∧ (owned []).Commands false 0x000C 127 ∧
    (owned [0, 0, 0, 0, 2 ^ 32]).Commands false 0x000D 255 ∧ (owned []).Commands false 0x000E 128 ∧
    (owned [0, 0, 0, 0, 2 ^ 32]).arg 4 = 2 ^ 32 ∧ (127#8).toNat < 128 ∧ ¬ (128#8).toNat < 128 ∧
    (let s := { owned [] with grids := [{ loadedGrid with windows := [⟨0, true, true, true, 0, true, 127, 1, 0, 0⟩] }] }
     (s.grids.any fun g => g.phase == .run && g.windows.any fun w => w.size != 0 && w.enc && w.keyidx.val == 127) = true) ∧
    ((withSession { session none true 0 with keys := [127] }).port 11).session.any (fun x => x.keys.contains 127) = true :=
  ⟨commands_of (by decide +kernel), commands_of (by decide +kernel), commands_of (by decide +kernel), commands_of (by decide +kernel),
    by decide +kernel⟩

theorem witness_SwitchCommands : (owned [12]).Owned false ∧ (owned [12]).arg 0 = 12 ∧
    (let s := owned [11, 3, 0, 127]
     s.arg 0 = 11 ∧ s.arg 1 < 2 ^ 16 ∧ s.arg 3 = 127 ∧ (s.port 11).session = none ∧ s.fabric.jkeys.get none 127 = none ∧
     ({ s with fabric := { s.fabric with jkeys := s.fabric.jkeys.set none 127 (some (1, 2)) } }.fabric.jkeys.get none 127)
       = some (1, 2)) ∧
    ((withSession (session none true 0)).port 11).session.any (fun x => x.unit == 3 && x.step == none) = true ∧
    ((withSession (session (some 1) true 0)).port 11).session.any (fun x => x.step != none) = true :=
  ⟨owned_owned _, by decide +kernel⟩

/-- A schedule that just fits, one that does not, and an entry armed. -/
theorem witness_ScheduleCommands : (owned [0, 1273, 3, 1]).Owned false ∧
    (let s := owned [0, 1273, 3, 1]
     1024 ≤ s.arg 1 ∧ s.arg 3 + 2 ≤ s.arg 2 ∧ 3328 * s.arg 2 ≤ 10 * (s.arg 1 - 274) ∧ ¬ 3328 * s.arg 2 ≤ 10 * (1272 - 274)) ∧
    (linked 0 (tentOf 1 2 1)).fabric.ents.any (fun t => t.st == 1) = true ∧ (owned [12]).arg 0 = 12 ∧
    (owned [11]).fabric.plan = none ∧ (linked 0 (tentOf 3 2 1)).fabric.plan = some ⟨0, 6000, 17, 1⟩ ∧
    0x10000 + 2048 * 17 ≤ (owned [11]).mem.cap :=
  ⟨owned_owned _, by decide +kernel⟩

theorem witness_UnitCommands : (owned [255]).Owned false ∧ (owned [256]).arg 0 = 256 ∧ (owned [255]).arg 0 = 255 ∧
    (owned [31]).arg 0 = 31 ∧ (probe (.nop r0)).blocks.any (fun b => b.cl == 0 && !b.retired && b.tiles != []) = true ∧
    (owned []).blocks = [] ∧
    (∀ w ∈ [399, 400, 2400, 2401], ((owned [w * 2 ^ 48 + 1]).host.arg.setWidth 128 : BitVec 128).toNat / 2 ^ 48 % 2 ^ 16 = w) ∧
    ((owned [400 * 2 ^ 48 + 1]).host.arg.setWidth 128 : BitVec 128).toNat % 2 ^ 40 = 1 ∧
    ((owned [255]).halfCause 255, ((owned [255]).laneFault 255).halfCause 255) = (false, true) :=
  ⟨owned_owned _, by decide +kernel⟩

theorem witness_Encodings : (Instr.bra 1).isWord = true ∧ (Instr.bra 1).wf = true ∧ (Instr.gphase .always 7).isWord = true ∧
    (Instr.gphase .always 7).wf = true ∧ (Instr.gphase .always 7).isGraph = true ∧
    (decodeWave (codeOf (.bra 1)) 0).toOption = some (.bra 1) ∧
    (decodeGraph (codeOf (.gphase .always 7))).toOption = some (.gphase .always 7) := by
  decide +kernel
/-! ## Words of the spec, and words that are refused -/

def reads (l : List (Nat × Instr)) : Bool := l.all fun p => decodeTableWord 64 p.1 == some p.2

/-- Sources: 04 (IREM), 05, 06, 08, 09, 10 and 13 to 15, the listings of their worked programs. -/
theorem test_words_core : reads
    [(0x0600_0801_0158_0400, .irem .i32 { rr (.v 4) v1 v2 z with p := 1 }), (0x1D06_0B60_0000_0010, .movi .ui32 (.s 5) 0x10),
     (0x3802_C105_B058_0000, .fxen (rr z (.s 5) z z)), (0x2C00_0601_B058_0080, .fexp .f { rr (.v 3) v1 z z with rm := .rup }),
     (0x4302_C160_0000_0004, .call 4), (0x4A08_0300_B000_0000, .st false (mm v1 (.s 0) .slice false)),
     (0x0000_0201_00D8_0000, .iadd .i32 (rr v1 v1 v1 z)), (0x4502_C160_B058_0000, .ret r0),
     (0x5000_0160_B058_0000, .idrd .lane (rr (.v 0) z z z)), (0x1A02_8200_B058_0000, .icmp .eq .i32 (rr (.m 1) (.v 0) z z)),
     (0x1D06_8560_0000_001F, .movi .ui32 (.m 2) 0x1F), (0x4C0A_0960_B000_0000, .sts false (mm s4 z .slice false)),
     (0x6200_0160_B058_0000, .tzero 0 r0), (0x6000_0008_B058_0000, .mma false 0 (rr z (.v 8) z z)),
     (0x1F44_0300_0058_0000, .lea .ui32 2 (rr v1 (.s 0) (.v 0) z)), (0x4908_0801_B030_0000, .ld false false (mm v4 v1 .main false)),
     (0x2000_0C04_02D8_000A, .fadd .f { rr (.v 6) v4 (.v 5) z with hint := 5 }),
     (0x7608_0501_B010_0000, .cas (mm v2 (.s 1) .cluster false)),
     (0x742A_C160_B006_C000, .fence 10 { mm z z .slice false with sz := .b8, order := .acqRel, scope := .device }),
     (0x510C_1404_8658_0000, .shfl .xor false (rr (.v 10) v4 (.s 12) z)),
     (0x4B0A_3F19_B042_8000, .lds false false { mm (.s 31) (.s 25) .peer false with order := .acq, scope := .team })] = true := by
  decide +kernel

/-- Sources: 16, 17, 19, 20 and 22, the listings of their worked programs. -/
theorem test_words_system : reads
    [(0x7008_0C04_A1B8_0000, .gath false false { mm (.v 6) v4 .main true with b := some 3 }),
     (0x4A88_0C08_B030_0000, .st true (mm (.v 6) (.v 8) .main false)), (0x7748_0C04_B038_0000, .red .fadd (mm (.v 6) v4 .main true)),
     (0x7902_C160_B058_0000, .ordfl r0), (0x4988_1004_B030_0000, .ld false true (mm (.v 8) v4 .main false)),
     (0x9302_C003_8158_0000, .semadd 3 (rr z z s2 z)), (0x9602_C004_8158_0000, .semwt 4 (rr z z s2 z)),
     (0xB102_C160_B058_0000, .rte false r0), (0xB200_0D60_0000_0004, .csrrd .tcause (.v 6)), (0xB602_C160_B058_0000, .restart r0),
     (0xA002_C105_B058_0000, .tready (rr z (.s 5) z z)), (0xA102_0D05_B058_0000, .tstat (rr (.s 6) (.s 5) z z)),
     (0x5006_1560_B058_0000, .idrd .wave (rr (.s 10) z z z)), (0x1C04_1100_B058_0000, .mov .ui32 (rr (.v 8) (.s 0) z z)),
     (0x4A00_1002_B010_0000, .st false { mm (.v 8) v2 .cluster false with sz := .b8 }),
     (0x6004_0008_B040_8000, .mma true 0 (rr z (.v 8) z s2)), (0x6400_0103_B058_0000, .tst .f 0 (rr z (.s 3) z z))] = true := by
  decide +kernel

/-- Source: 18, the listing of its worked graph. -/
theorem test_words_graph : reads
    [(0xC800_0400_0000_0003, .gsetc .always 1 false 3), (0xC382_0000_0100_0006, .gif (.z 2) 1 6),
     (0xC600_0000_0000_C350, .gwaitgc .always (.rel 50000)), (0xC000_8002_0000_1080, .glaunch .always true 0x0400_0021 false 0),
     (0xC800_0600_FFFF_FFFF, .gsetc .always 1 true 0xFFFFFFFF), (0xC441_FFFF_FD00_0008, .gwhile (.nz 1) (-3) 8),
     (0xCA00_0000_0000_0000, .ghalt .always 0), (0xC900_0000_0000_00EE, .gsig .always false 0xEE)] = true := by decide +kernel

/-- One word for each check that it fails: 03 R57, R60 to R63, R82, R99; 06 R131 to R134; 08; 09 R188, R189; 13 R260 to
R263; 17; 18 R334; 19 R365. -/
def illFormed : List Instr :=
  [.imulhi .i16 (rr v2 v1 s2 z), .iabs .ui32 (rr v2 v1 z z), .cvt .i32 .ui32 (rr v2 v1 z z), .dot4 .i4 (rr v2 v1 v1 z),
   .dot8 .i8 (rr v2 v1 v1 z), .mxq .i8 false (rr v2 v1 z z), .pack .bf 1 (rr v2 v1 v1 z),
   .ld true false (mm v2 v1 .slice false), .st true (mm v2 v4 .slice false), .fence 0 { mm z z .slice false with sz := .b8, order := .rel, scope := .device },
   .cas { mm v2 v1 .cluster false with sz := .b8 }, .red .xchg (mm v2 v1 .cluster false),
   .iadd .i32 (rr v2 v1 s2 v1), .iadd .i64 (rr v2 v1 s2 z), .iadd .i32 (rr s2 v1 s2 z), .iadd .i64 (rr v2 (.m 2) s2 z),
   .iadd .i32 (rr (.m 1) s2 s2 z), .imul .i32 (rr .x s2 s2 z), .land .i32 { rr v2 v1 s2 z with sat := true },
   .fadd .f { rr v2 v1 s2 z with reuse := true }, .fadd .d (rr (.v 3) v4 v4 z), .icmp .eq .i32 (rr s2 v1 v1 z),
   .sel .i32 (rr v2 v1 v1 .x), .lea .ui32 2 { rr v1 (.s 0) (.v 0) z with sat := true }, .movi .d (.v 3) 0, .movl .ui64 (.s 3) 0, .fxrd (rr s2 z z z), .mxq .e4m3 false (rr s2 v1 z z),
   .brc true .x 1, .jmpi (rr z (.s 3) z z), .ret (rr v1 z z z), .elb 0, .ld false false { mm v2 v1 .slice false with order := .rel },
   .ld false false { mm v2 v1 .slice false with scope := .block }, .ld false false (mm v2 v1 .slice true),
   .lds false false (mm v2 s2 .slice false), .sts false (mm v2 s2 .slice false), .idrd .lane (rr s2 z z z), .shfl .up false (rr v2 v1 .x z),
   .vote .any (rr .x v1 z z), .bcast .first false (rr v2 v1 z s2), .wscan .i32 .sum false (rr s2 v1 z z), .binit 0 (rr z z v1 z),
   .mma false 0 (rr z (.v 4) s2 z), .mma false 0 (rr z (.v 8) s2 (.m 1)), .mmasp false 0 (rr z (.v 8) (.s 3) z), .tld .f 0 (rr z v1 z z),
   .tst .f 0 { rr z s2 z z with sat := true }, .gath false true (mm v2 v1 .slice false), .dscd { mm z v4 .main false with sz := .b8 },
   .atom .add (mm s2 v1 .cluster false), .atom .add (mm v2 v4 .main false), .cas (mm (.v 3) v1 .cluster false),
   .redx .add (mm (.v 3) v1 .cluster false), .cpyj (rr v2 s2 z z), .semwt 0 (rr v2 z s2 z), .xst (mm v2 s4 .main false),
   .rte false { r0 with p := 1 }, .csrrd .ths s2, .csrwr .pkr v2, .qst 0 (mm z v4 .main true), .pkwr (rr z v1 s2 z),
   .gcoll .always 4095 1 0 false 0, .gif .always 1 1, .gwhile (.nz 0) 1 1, .gjmp .always 0]

/-- Such a term is not well formed, and its words are refused. -/
def refused (i : Instr) : Bool := !i.wf && (decodeTableWord 64 (codeOf i)).all fun j => j != i

theorem test_ill_formed : illFormed.all refused = true := by decide +kernel

end Sys2Proof.Tests
end

namespace Sys2Proof.Machine

/-! ## Reset and the first step (23 R468, log 41) -/

/-- 00 R1: the device at reset is in canonical form and whole. -/
theorem State.reset_inv : State.reset.Inv :=
  ⟨rfl, rfl, rfl, List.length_replicate, List.length_replicate⟩

/-- Before the boot DEVID is the only register that does not read as zero: BOOTSTAT's fields are clear, and the others
are not there yet. -/
theorem State.readReg_reset (p : Bool) {off : Nat} (h : 8 ≤ off) : State.reset.readReg p off = 0 := by
  have h0 : off ≠ 0 := by omega
  have hb : State.reset.booted = false := rfl
  have hs : State.reset.bootstat = 0 := rfl
  simp [State.readReg, h0, hb, hs]

theorem State.part_reset {p : Nat} (h : p < 8) : State.reset.part p = Part.reset := by
  have hp : State.reset.parts[p]? = some Part.reset := Vector.getElem?_replicate.trans (if_pos h)
  rw [State.part, hp, Option.getD_some]

theorem State.cluster_reset {c : Nat} (h : c < 32) : State.reset.cluster c = Cluster.reset 36 := by
  have hc : State.reset.clusters[c]? = some (Cluster.reset 36) := List.getElem?_replicate.trans (if_pos h)
  rw [State.cluster, List.getD_eq_getElem?_getD, hc, Option.getD_some]

theorem State.slice_reset {c sl : Nat} (hc : c < 32) (hs : sl < 6) : State.reset.slice c sl = Slice.reset := by
  have hi : State.reset.slices[6 * c + sl]? = some Slice.reset := List.getElem?_replicate.trans (if_pos (by omega))
  rw [State.slice, List.getD_eq_getElem?_getD, hi, Option.getD_some]

theorem Cluster.sem_reset (f : Nat) {k : Nat} (h : k < 64) : (Cluster.reset f).sem k = Sem.reset := by
  have hk : (Cluster.reset f).sems[k]? = some Sem.reset := Vector.getElem?_replicate.trans (if_pos h)
  rw [Cluster.sem, hk, Option.getD_some]

theorem resetValues : Sys2Proof.Claims.ResetValues := by
  refine ⟨State.reset_inv, rfl, rfl, rfl, rfl, rfl, rfl, rfl, rfl, rfl, rfl, fun p _ => State.readReg_reset p,
    fun p hp => ?_, fun c hc => ?_, fun c sl hc hs => ?_⟩
  · rw [State.part_reset hp]
    exact ⟨rfl, rfl, rfl, rfl, rfl, rfl⟩
  · rw [State.cluster_reset hc]
    exact ⟨rfl, rfl, rfl, fun k hk => Cluster.sem_reset 36 hk⟩
  · rw [State.slice_reset hc hs]
    rfl

/-- A device that is dark, with no item of the environment ahead and no code of a failed boot, boots. -/
theorem State.tick_of_dark {s : State} (hb : s.booted = false) (ha : s.agenda = []) (hc : s.host.bootCode = none) :
    s.tick = s.boot true := by
  simp [State.tick, State.dark, hb, ha, hc]

theorem firstStep : Sys2Proof.Claims.FirstStep :=
  congrArg Host.Outcome.next (State.tick_of_dark rfl rfl rfl)

/-! ## The step of a booted device (07 R139) -/

theorem State.tick_of_firstCand {s : State} {c : Cand} (hb : s.booted = true) (hc : firstCand s.now s.cands = some c) :
    s.tick = ({ s with now := max s.now c.time } : State).sensed.doAct c.act := by
  simp [State.tick, hb, hc]

/-- Every row answers a next state: none is a fault and none is refused. -/
theorem exec_eq_next (i : Instr) (s : State) : ∃ t, exec i s = .next t := by
  cases i <;> exact ⟨_, rfl⟩

/-- A row's event takes its outcome. -/
theorem exec_eq_event (i : Instr) (s : State) : exec i s = .next (s.event i) := by
  obtain ⟨t, ht⟩ := exec_eq_next i s
  have he : s.event i = t := by simp [State.event, ht]
  rw [ht, he]

end Sys2Proof.Machine

open Sys2Proof.Machine in
/-- Settles O33: the first candidate is the row, and its act is the row's event, whose state is the row's outcome. -/
theorem stepRunsEvent : Obligations.StepRunsEvent := by
  intro s c i hb hc hi
  rw [step, State.tick_of_firstCand hb hc, hi]
  exact (exec_eq_event i _).symm

/-- Settles O59: the values at reset, among them the empty store, which the model chooses (log 1), and the boot as the
first step. -/
theorem resetState : Obligations.ResetState := ⟨Sys2Proof.Machine.resetValues, Sys2Proof.Machine.firstStep⟩

namespace Sys2Proof.Machine

set_option Elab.async false

/-! # The invariant is kept (00 R1, R2)

Of what the invariant speaks of, three things are written: the bytes and the pseudo-channels of main memory, and the
tiles. The lists of slices and clusters only have entries replaced. `State.Inv.f` says that operation `f` of the model
keeps the invariant; its proof follows what `f` is made of, and an instruction or a step is one more operation. -/

/-- A map made by a fold keeps its canonical form when each of the fold's steps does. -/
theorem Cells.wf_foldl {α β : Type} [DecidableEq α] {d : α} {f : Cells α → β → Cells α} {xs : List β} {c : Cells α}
    (hf : ∀ {c x}, Cells.wf d c = true → Cells.wf d (f c x) = true) (hc : Cells.wf d c = true) :
    Cells.wf d (xs.foldl f c) = true := by
  induction xs generalizing c with
  | nil => exact hc
  | cons x xs ih => exact ih (hf hc)

/-! ## Main memory: every write keeps the bytes in canonical form and the pseudo-channels as they are -/

theorem Mem.chans_writePa (m : Mem) (pa : Nat) (bs : List Byte) : (m.writePa pa bs).chans = m.chans := by
  unfold Mem.writePa
  split <;> rfl

theorem Mem.chans_putMany (m : Mem) (pa : Nat) (bs : List Byte) : (m.putMany pa bs).chans = m.chans := by
  induction bs generalizing m pa with
  | nil => rfl
  | cons b bs ih =>
    rw [Mem.putMany, ih]
    split
    · rfl
    · exact m.chans_writePa pa [b]

theorem Mem.chans_writeMany (m : Mem) (pa : Nat) (bs : List Byte) : (m.writeMany pa bs).chans = m.chans :=
  Mem.chans_putMany _ pa bs

theorem Mem.chans_writeEnc (m : Mem) (k : Fin 128) (pa : Nat) (bs : List Byte) :
    (m.writeEnc k pa bs).chans = m.chans := by
  induction bs generalizing m pa with
  | nil => rfl
  | cons b bs ih => rw [Mem.writeEnc, ih, Mem.writeBlock, Mem.chans_writePa]

theorem Mem.chans_writeLoc (m : Mem) (l : Loc) (bs : List Byte) : (m.writeLoc l bs).chans = m.chans :=
  match l with
  | .pad _ => rfl
  | .main pa none => m.chans_writeMany pa bs
  | .main pa (some k) => m.chans_writeEnc k pa bs

theorem Mem.chans_moveGranule (m : Mem) (src dst : Nat) (lost : List Nat) :
    (m.moveGranule src dst lost).chans = m.chans := by
  unfold Mem.moveGranule
  generalize m.read src 512 = bs
  rfl

/-- The part of the invariant that speaks of main memory. -/
structure Mem.Canon (m : Mem) : Prop where
  bytes : m.wf = true
  chans : m.chans.wf none = true

namespace Mem.Canon

variable {m : Mem}

theorem write {k : Nat} {bs : List Byte} (h : m.Canon) : (m.write k bs).Canon := ⟨Mem.wf_write h.bytes k bs, h.chans⟩

theorem writeMany {pa : Nat} {bs : List Byte} (h : m.Canon) : (m.writeMany pa bs).Canon :=
  ⟨Mem.wf_writeMany h.bytes pa bs, by rw [Mem.chans_writeMany]; exact h.chans⟩

theorem writeLoc {l : Loc} {bs : List Byte} (h : m.Canon) : (m.writeLoc l bs).Canon :=
  ⟨Mem.wf_writeLoc h.bytes l bs, by rw [Mem.chans_writeLoc]; exact h.chans⟩

theorem moveGranule {src dst : Nat} {lost : List Nat} (h : m.Canon) : (m.moveGranule src dst lost).Canon :=
  ⟨Mem.wf_moveGranule h.bytes src dst lost, by rw [Mem.chans_moveGranule]; exact h.chans⟩

theorem foldl {α : Type} {f : Mem → α → Mem} {xs : List α} (h : m.Canon) (hf : ∀ {m x}, m.Canon → (f m x).Canon) :
    (xs.foldl f m).Canon := by
  induction xs generalizing m with
  | nil => exact h
  | cons x xs ih => exact ih (hf h)

end Mem.Canon

/-! ## How a meaning is put together: a change of other fields, of main memory, a choice, a fold -/

/-- The state that an instruction answers meets the invariant. -/
def OutInv (o : Out State Fault Refusal) : Prop := ∀ {t}, o = .next t → t.Inv

/-- The state that a command leaves meets the invariant. -/
def Reply.Inv (r : Reply) : Prop := r.st.Inv

theorem Reply.Inv.ite {c : Prop} [Decidable c] {a b : Reply} (ha : a.Inv) (hb : b.Inv) : (if c then a else b).Inv := by
  split
  · exact ha
  · exact hb

namespace State.Inv

variable {s : State}

theorem canon (h : s.Inv) : s.mem.Canon := ⟨h.mem, h.chans⟩

theorem withMem {t : State} (h : s.Inv) (mem : t.mem.Canon) (tiles : t.tiles = s.tiles := by rfl)
    (slices : t.slices.length = s.slices.length := by rfl)
    (clusters : t.clusters.length = s.clusters.length := by rfl) : t.Inv :=
  ⟨mem.bytes, by rw [tiles]; exact h.tiles, mem.chans, slices.trans h.slices, clusters.trans h.clusters⟩

/-- The invariant reads nothing of a state but the bytes and the pseudo-channels of its memory, its tiles, and how many
slices and clusters it has. -/
theorem keep {t : State} (h : s.Inv) (bytes : t.mem.bytes = s.mem.bytes := by rfl)
    (chans : t.mem.chans = s.mem.chans := by rfl) (tiles : t.tiles = s.tiles := by rfl)
    (slices : t.slices.length = s.slices.length := by rfl)
    (clusters : t.clusters.length = s.clusters.length := by rfl) : t.Inv :=
  h.withMem ⟨by rw [Mem.wf, bytes]; exact h.mem, by rw [chans]; exact h.chans⟩ tiles slices clusters

theorem ite {c : Prop} [Decidable c] {a b : State} (ha : a.Inv) (hb : b.Inv) : (if c then a else b).Inv := by
  split
  · exact ha
  · exact hb

theorem getD {o : Option State} (h : s.Inv) (ho : ∀ {t}, o = some t → t.Inv) : (o.getD s).Inv := by
  cases o with
  | none => exact h
  | some t => exact ho rfl

theorem foldl {α : Type} {f : State → α → State} {xs : List α} (h : s.Inv) (hf : ∀ {t x}, t.Inv → (f t x).Inv) :
    (xs.foldl f s).Inv := by
  induction xs generalizing s with
  | nil => exact h
  | cons x xs ih => exact ih (hf h)

theorem next (h : s.Inv) : OutInv (.next s) := fun ht => by cases ht; exact h

/-! States that come with a second value -/

theorem fst {α : Type} {p : State × α} {t : State} {x : α} (h : p.1.Inv) (hp : p = (t, x)) : t.Inv := by
  subst hp
  exact h

theorem pair {α : Type} {x : α} (h : s.Inv) : (s, x).1.Inv := h

theorem foldlFst {α β : Type} {f : State × β → α → State × β} {xs : List α} {z : State × β} (h : z.1.Inv)
    (hf : ∀ {z x}, z.1.Inv → (f z x).1.Inv) : (xs.foldl f z).1.Inv := by
  induction xs generalizing z with
  | nil => exact h
  | cons x xs ih => exact ih (hf h)

/-! ## Named operations over the state, endings and traps (19 R361) -/

theorem updWave {uid : Nat} {f : Wave → Wave} (h : s.Inv) : (s.updWave uid f).Inv := h.keep
theorem updAny {uid : Nat} {f : Wave → Wave} (h : s.Inv) : (s.updAny uid f).Inv := h.keep
theorem updBlock {bid : Nat} {f : Block → Block} (h : s.Inv) : (s.updBlock bid f).Inv := h.keep
theorem updGrid {gid : Nat} {f : Grid → Grid} (h : s.Inv) : (s.updGrid gid f).Inv := h.keep
theorem updAcc {id : Nat} {f : Access → Access} (h : s.Inv) : (s.updAcc id f).Inv := h.keep
theorem updPart {p : Nat} {f : Part → Part} (h : s.Inv) : (s.updPart p f).Inv := h.keep

theorem updCluster {cl : Nat} {f : Cluster → Cluster} (h : s.Inv) : (s.updCluster cl f).Inv :=
  h.keep (clusters := List.length_set)

theorem updSlice {cl sl : Nat} {f : Slice → Slice} (h : s.Inv) : (s.updSlice cl sl f).Inv :=
  h.keep (slices := List.length_set)

theorem updAsid {a : Nat} {f : AsidSt → AsidSt} (h : s.Inv) : (s.updAsid a f).Inv := h.keep
theorem report {e : Ev} (h : s.Inv) : (s.report e).Inv := h.keep
theorem writeLoc {l : Loc} {n v : Nat} (h : s.Inv) : (s.writeLoc l n v).Inv := h.withMem h.canon.writeLoc
theorem writeBytes {l : Loc} {bs : List Byte} (h : s.Inv) : (s.writeBytes l bs).Inv := h.withMem h.canon.writeLoc
theorem setBar {b : Block} {i : Nat} {o : Bar} (h : s.Inv) : (s.setBar b i o).Inv := h.withMem h.canon.write
theorem settleFlags {bid : Nat} (h : s.Inv) : (s.settleFlags bid).Inv := h.updBlock
theorem arm {bid n : Nat} (h : s.Inv) : (s.arm bid n).Inv := h.updBlock.settleFlags

theorem dropWalks {asid : Nat} {keep : TlbEntry → Bool} {keepHit : WalkHit → Bool} (h : s.Inv) :
    (s.dropWalks asid keep keepHit).Inv :=
  h.keep

theorem dropAsid {asid : Nat} (h : s.Inv) : (s.dropAsid asid).Inv := h.dropWalks
theorem dropContext {asid : Nat} (h : s.Inv) : (s.dropContext asid).Inv := h.ite h.keep
theorem dropWave {w : Wave} (h : s.Inv) : (s.dropWave w).Inv := (h.foldl fun ht => ht.report).keep

theorem settleWaveEnd {uid : Nat} (h : s.Inv) : (s.settleWaveEnd uid).Inv := by
  unfold State.settleWaveEnd
  split
  · exact h.dropWave.ite h
  · exact h

theorem endCards {bid code : Nat} (h : s.Inv) : (s.endCards bid code).Inv := h.keep
theorem stopBlock {bid : Nat} (h : s.Inv) : (s.stopBlock bid).Inv := (h.foldl fun ht => ht.dropWave).endCards
theorem markLost {b : Block} (h : s.Inv) : (s.markLost b).Inv := h.updBlock.report.ite h

theorem endBlock {w : Wave} {code : Nat} {detail : List Nat} (h : s.Inv) : (s.endBlock w code detail).Inv :=
  h.report.updGrid.stopBlock.markLost

theorem reportDiscards {g : Grid} {pas : List Nat} (h : s.Inv) : (s.reportDiscards g pas).Inv :=
  h.foldl fun ht => ht.ite ht.report

theorem dropSaved {gid : Nat} (h : s.Inv) : (s.dropSaved gid).Inv := h.keep.foldl fun ht => ht.report

theorem endContext {gid : Nat} {e : Ev} (h : s.Inv) : (s.endContext gid e).Inv := by
  unfold State.endContext
  split
  · split
    · exact (h.report.updGrid.dropContext.dropSaved.foldl fun ht => ht.stopBlock).keep.reportDiscards
    · exact h
  · exact h

theorem poisonEnd {gid g : Nat} (h : s.Inv) : (s.poisonEnd gid g).Inv := h.endContext
theorem push {p : Pend} (h : s.Inv) : (s.push p).Inv := h.updWave

theorem enterHandler {uid : Nat} {lanes : W32} {cause : Nat → W32} {addr next : Nat → W64} {ex : Option Exec}
    (h : s.Inv) : (s.enterHandler uid lanes cause addr next ex).Inv := by
  unfold State.enterHandler
  split
  · exact h
  · exact h.endBlock.ite h.updWave

theorem takeTrap {act : W32} {t : Trap} (h : s.Inv) : (s.takeTrap act t).Inv := h.enterHandler

/-! ## Issue, results in flight and their flags (02 R40, 05 R100) -/

theorem settleJoins {uid : Nat} (h : s.Inv) : (s.settleJoins uid).Inv := h.updWave
theorem settle {uid : Nat} (h : s.Inv) : (s.settle uid).Inv := h.updWave.settleJoins.settleWaveEnd
theorem markIssue (h : s.Inv) : s.markIssue.Inv := h.updWave
theorem armLast (h : s.Inv) : s.armLast.Inv := h.arm.arm.ite h
theorem advance (h : s.Inv) : s.advance.Inv := h.armLast.updWave.settle

theorem issue {i : Instr} {k : State → W32 → State} (h : s.Inv) (hk : ∀ {t act}, t.Inv → (k t act).Inv) :
    (s.issue i k).Inv := by
  unfold State.issue
  split
  · exact h.takeTrap
  · exact hk h.markIssue

theorem issueChecked {i : Instr} {own : State → W32 → Option Trap} {k : State → W32 → State} (h : s.Inv)
    (hk : ∀ {t act}, t.Inv → (k t act).Inv) : (s.issueChecked i own k).Inv := by
  unfold State.issueChecked
  refine h.issue fun h' => ?_
  split
  · exact h.takeTrap
  · exact hk h'

theorem result {lat : Nat} {act : W32} {regs : List Reg} {wr : List Wr} (h : s.Inv) : (s.result lat act regs wr).Inv :=
  h.push

theorem resultFl {lat : Nat} {act : W32} {regs : List Reg} {wr : List Wr} {fl : List (Nat × Fl)} (h : s.Inv) :
    (s.resultFl lat act regs wr fl).Inv :=
  h.push.ite h.push.updWave

theorem setTile {k : Nat} {t : Tile} (h : s.Inv) : (s.setTile k t).Inv :=
  ⟨h.mem, Cells.wf_set h.tiles, h.chans, h.slices, h.clusters⟩

theorem applyWr {w : Wave} {a : Wr} (h : s.Inv) : (s.applyWr w a).Inv := by
  unfold State.applyWr
  split
  · exact h.updGrid
  · exact h.updBlock
  · exact h.setTile
  · exact h.setTile
  · exact h.updAny
  · exact h.updAny
  · exact h.updAny

theorem deliver {w : Wave} {p : Pend} (h : s.Inv) : (s.deliver w p).Inv :=
  h.updAny.enterHandler.ite (h.updAny.foldl fun ht => ht.applyWr)

theorem alu {i : Instr} {d : Opnd} {dk lat : Nat} {val : Wave → Nat → Nat} (h : s.Inv) : (alu i d dk lat val s).Inv :=
  h.issue fun h' => h'.result.advance

theorem aluBool {i : Instr} {d : Opnd} {lat : Nat} {val : Wave → Nat → Bool} (h : s.Inv) :
    (aluBool i d lat val s).Inv :=
  h.issue fun h' => h'.result.advance

theorem aluFl {i : Instr} {d : Opnd} {dk lat : Nat} {val : Wave → Nat → Nat × Fl} (h : s.Inv) :
    (aluFl i d dk lat val s).Inv :=
  h.issue fun h' => h'.resultFl.advance

/-! ## Protected groups that are found lost (12 R256 to R259) -/

theorem zeroGroup {k : Nat} (h : s.Inv) : (s.zeroGroup k).Inv := by
  unfold State.zeroGroup
  split
  · exact ⟨Cells.wf_drop h.mem, h.tiles, h.chans, h.slices, h.clusters⟩
  · exact h.setTile.ite h

theorem foundGroup {k : Nat} (h : s.Inv) : (s.foundGroup k).Inv := by
  unfold State.foundGroup
  dsimp only
  split
  · exact h.keep.zeroGroup.report
  · split
    · exact h.keep.endContext
    · exact h.keep.report

theorem found {ks : List Nat} (h : s.Inv) : (s.found ks).Inv := h.foldl fun ht => ht.foundGroup
theorem renew {k n : Nat} (h : s.Inv) : (s.renew k n).Inv := h.keep
theorem renewRegs {place regs : Nat} (h : s.Inv) : (s.renewRegs place regs).Inv := h.keep
theorem groom {k : Nat} {f : GroomFind} (h : s.Inv) : (s.groom k f).Inv := h.foundGroup.ite h
theorem mendGroups (h : s.Inv) : s.mendGroups.Inv := (h.foldl fun ht => ht.zeroGroup).keep

/-! ## Page walks (11 R219) -/

theorem reportBad {w : Wave} {vs : List Seen} (h : s.Inv) : (s.reportBad w vs).Inv := h.foldl fun ht => ht.report
theorem askWalk {w : Wave} {g : Gap} (h : s.Inv) : (s.askWalk w g).Inv := h.ite h.keep
theorem reportFetch {w : Wave} {as : List W64} (h : s.Inv) : (s.reportFetch w as).Inv := h.reportBad

/-! ## Control flow and block starts (06, 07 R142 to R147) -/

theorem addJoin {dest : Nat → Succ} (h : s.Inv) : (s.addJoin dest).Inv := by
  unfold State.addJoin
  split
  · exact h.updWave.ite h
  · exact h

theorem leave {dest : Nat → Succ} (h : s.Inv) : (s.leave dest).Inv := h.armLast.addJoin.updWave.settle

theorem transfer {i : Instr} {own : State → W32 → Option Trap} {pre : State → W32 → State}
    {dest : State → W32 → Nat → Succ} (h : s.Inv) (hpre : ∀ {t act}, t.Inv → (pre t act).Inv) :
    (transfer i own pre dest s).Inv := by
  unfold Machine.transfer
  refine h.issue fun h' => ?_
  split
  · exact h.poisonEnd
  · split
    · exact h.reportFetch.takeTrap
    · split
      · exact (hpre h').leave
      · exact h.found

theorem pushCall {l : Nat} (h : s.Inv) : (s.pushCall l).Inv := (h.writeLoc.ite h).updWave
theorem pushCalls {act : W32} (h : s.Inv) : (s.pushCalls act).Inv := h.foldl fun ht => ht.pushCall
theorem popRet {l : Nat} (h : s.Inv) : (s.popRet l).Inv := h.updWave

theorem startBlock {wv lane : Nat} (h : s.Inv) : (s.startBlock wv lane).Inv := by
  unfold State.startBlock
  dsimp only
  split
  · exact h
  · split
    · split
      · exact h.poisonEnd
      · split
        · exact h.reportFetch.enterHandler
        · exact h.keep.updWave.ite h.updWave
    · exact h

/-! ## Integer instructions (04) -/

theorem intOp {i : Instr} {t : IType} {r : RForm} {lat : Nat} {f : Wave → Nat → Int} (h : s.Inv) :
    OutInv (intOp i t r lat f s) :=
  h.alu.next

theorem countOp {i : Instr} {t : IType} {r : RForm} {f : Nat → Nat} (h : s.Inv) : OutInv (countOp i t r f s) :=
  h.alu.next

theorem execIcmp {cc : ICond} {t : IType} {r : RForm} (h : s.Inv) : OutInv (execIcmp cc t r s) := by
  unfold Machine.execIcmp
  exact h.aluBool.next

/-! ## Accesses to memory and their effects lane by lane (06 R135, 13) -/

theorem arrive {b : Block} {i k flags : Nat} {t : State} (h : s.Inv) (ht : s.arrive b i k flags = some t) : t.Inv := by
  unfold State.arrive at ht
  extract_lets o at ht
  split at ht
  · cases ht
  · split at ht <;> cases ht
    · exact h.keep.setBar
    · exact h.setBar

theorem addAccess {a : Access} {write : Bool} {runs : List (Nat × Nat)} (h : s.Inv) : (s.addAccess a write runs).Inv :=
  h.keep

theorem access {i : Instr} {k : AccKind} {act : W32} {ls : List LaneLook} (h : s.Inv) : (s.access i k act ls).Inv :=
  h.addAccess.updWave.ite h.addAccess

theorem accIssue {i : Instr} {k : AccKind} (h : s.Inv) : (accIssue i k s).Inv := by
  unfold Machine.accIssue
  dsimp only
  refine h.issue fun h' => ?_
  split
  · exact h.reportBad.takeTrap
  · exact h'.reportBad.access.advance

theorem laneEffect {i : Instr} {n : Nat} {l : LaneAcc} (h : s.Inv) : (s.laneEffect i n l).1.Inv := by
  unfold State.laneEffect
  dsimp only
  split
  · exact h
  · split
    · exact h.found
    · split
      · exact h.writeLoc
      · exact h

theorem laneEffects {i : Instr} {n : Nat} {pick : LaneAcc → Bool} {ls : List LaneAcc} (h : s.Inv) :
    (s.laneEffects i n pick ls).1.Inv := by
  induction ls generalizing s with
  | nil => exact h
  | cons l ls ih =>
    have hl : (if pick l then s.laneEffect i n l else (s, l)).1.Inv := by
      split
      · exact h.laneEffect
      · exact h
    exact ih hl

theorem dropAcc {id : Nat} (h : s.Inv) : (s.dropAcc id).Inv := h.keep

theorem class0Effect {a : Access} (h : s.Inv) : (s.class0Effect a).Inv := by
  unfold State.class0Effect
  extract_lets u
  have h1 : u.Inv := by
    unfold u
    split
    · exact h.endContext
    · exact h
  split
  extract_lets wr v
  have h2 := h1.laneEffects.fst ‹_›
  have h3 : v.Inv := h2.updAcc
  exact h2.dropAcc.ite (h3.ite h3.updAny)

theorem redirect {a : Access} {l : LaneAcc} (h : s.Inv) : (s.redirect a l).Inv := by
  unfold State.redirect
  split
  · exact h
  · extract_lets r s' u
    have h1 : s'.Inv := h.found
    have h2 : u.Inv := h1.withMem h1.canon.write
    split
    · exact h2.arrive ‹_›
    · exact h2.endContext

theorem spillHeld {p : Nat} {x : Held} (h : s.Inv) : (s.spillHeld p x).Inv := by
  unfold State.spillHeld
  split
  · refine h.withMem ?_
    dsimp only
    exact h.canon.writeMany
  · exact h.endContext

theorem collect {p : Nat} {x : Held} (h : s.Inv) : (s.collect p x).Inv := h.keep.ite h.spillHeld

theorem collectAll {a : Access} (h : s.Inv) : (s.collectAll a).Inv := by
  unfold State.collectAll
  split
  · split
    · exact h.reportDiscards
    · refine h.foldl fun ht => ?_
      split
      · exact ht.collect
      · exact ht
  · exact h

/-! ## Tile-table entries and semaphores (20 R408 to R411, 17 R324) -/

theorem setTent {t : Tent} (h : s.Inv) : (s.setTent t).Inv := h.keep
theorem updTent {p e : Nat} {f : Tent → Tent} (h : s.Inv) : (s.updTent p e f).Inv := h.setTent

theorem meets {p : Nat} {l : Loc} {n : Nat} {write : Bool} (h : s.Inv) : (s.meets p l n write).Inv := by
  unfold State.meets
  split
  · exact h.report.ite (h.report.ite h)
  · exact h.found

theorem readOwn {t : Tent} {w : EWord} {alt : Bool} {c lo hi : Nat} (h : s.Inv) : (s.readOwn t w alt c lo hi).Inv := by
  unfold State.readOwn
  split
  · split
    · split
      · exact h.meets.updTent
      · exact h.meets
    · exact h
  · exact h

theorem readyAfter {a : Access} (h : s.Inv) : (s.readyAfter a).Inv := by
  unfold State.readyAfter
  split
  · exact (h.foldl fun ht => ht.updTent).ite h
  · exact h

/-! ## Fabric instructions (20 R419 to R425) -/

theorem entryIssue {i : Instr} {m : MForm} {store : Bool} (h : s.Inv) : (entryIssue i m store s).Inv := by
  unfold Machine.entryIssue
  dsimp only
  refine h.issue fun h' => ?_
  split
  · exact h.takeTrap
  · exact h'.addAccess.advance

/-! ## Floating-point and packed instructions (05) -/

theorem fltOp {i : Instr} {t : FType} {r : RForm} {lat : Nat} {f : Wave → Nat → Nat × Fl} (h : s.Inv) :
    OutInv (fltOp i t r lat f s) :=
  h.aluFl.next

theorem thsOp {i : Instr} {mask val : Wave → Nat → W32} (h : s.Inv) : OutInv (thsOp i mask val s) :=
  (h.issue fun h' => h'.result.advance).next

theorem packedOp {i : Instr} {r : RForm} {dk : Nat} {f : Wave → Nat → Nat × Fl} (h : s.Inv) :
    OutInv (packedOp i r dk f s) :=
  (h.aluFl.ite h.alu).next

/-! ## Matrix engines (09) -/

theorem issueMma {sparse z : Bool} {t : Nat} {r : RForm} {act : W32} (h : s.Inv) : (s.issueMma sparse z t r act).Inv :=
  h.keep.renew.updWave

theorem mmaIssue {i : Instr} {sparse z : Bool} {t : Fin 16} {r : RForm} (h : s.Inv) :
    OutInv (mmaIssue i sparse z t r s) :=
  (h.issueChecked fun h' => (h'.ite h'.issueMma).advance).next

theorem proofFail {cl : Nat} {tw : Bool} {tiles : List Nat} {sub : Nat} (h : s.Inv) :
    (s.proofFail cl tw tiles sub).Inv := by
  unfold State.proofFail
  extract_lets t u v _ w
  have h1 : u.Inv := h.updCluster
  have h2 : v.Inv := h1.foldl fun ht => ht.setTile
  have h3 : w.Inv := h2.report
  exact (h3.foldl fun ht => ht.endContext).ite h3

theorem proofs {cl : Nat} {tw : Bool} {fails : List Nat} (h : s.Inv) : (s.proofs cl tw fails).Inv :=
  h.ite (h.updCluster.ite (h.foldl fun ht => ht.proofFail))

theorem span {cl : Nat} {fails : List Nat} (h : s.Inv) : (s.span cl fails).Inv := by
  unfold State.span
  extract_lets d q u v w
  have h1 : u.Inv := h.updCluster
  have h2 : v.Inv := h1.keep
  have h3 : w.Inv := h2.proofs
  exact h3.ite h3.proofs

theorem spanEvent {cl : Nat} {fails : List Nat} (h : s.Inv) : (s.spanEvent cl fails).Inv :=
  h.ite (h.updCluster.ite h.span)

theorem latchMma {i : Nat} (h : s.Inv) : (s.latchMma i).Inv := by
  unfold State.latchMma
  split
  · exact h
  · exact h.ite (h.keep.found.ite h.keep.updCluster)

theorem updated {m : Mma} {tile : Nat} (h : s.Inv) : (s.updated m tile).Inv := by
  unfold State.updated
  split
  · exact h.updCluster
  · exact h

theorem mmaUpdate {i : Nat} (h : s.Inv) : (s.mmaUpdate i).Inv := by
  unfold State.mmaUpdate
  split
  · exact h
  · split
    · exact h
    · extract_lets u
      have h1 : u.Inv := h.keep
      split
      · exact h1
      · extract_lets lost v t
        have h2 : v.Inv := h1.renew
        split
        · exact h1.found
        · split
          exact h2.updated.setTile

theorem tileMoveIssue {i : Instr} {store : Bool} {fm : TileFmt} {t : Fin 16} {r : RForm} (h : s.Inv) :
    OutInv (tileMoveIssue i store fm t r s) :=
  (h.issueChecked fun h' => (h'.ite h'.keep).advance).next

theorem moveTile {i : Nat} (h : s.Inv) : (s.moveTile i).Inv := by
  unfold State.moveTile
  split
  · exact h
  · extract_lets k t lost
    split
    · split
      · exact h.keep.found
      · split
        exact h.keep.setTile
    · split
      exact h.keep.renew.setTile
    · exact h

theorem movePad {i : Nat} (h : s.Inv) : (s.movePad i).Inv := by
  unfold State.movePad
  split
  · exact h
  · extract_lets n
    split
    · exact h.keep.found.ite h.keep
    · exact (h.keep.ite h).ite (h.withMem h.renew.canon.write)
    · exact h

theorem execTflg {op : TflgOp} {t : Fin 16} {r : RForm} (h : s.Inv) : OutInv (execTflg op t r s) := by
  unfold Machine.execTflg
  refine State.Inv.next ?_
  refine h.issue fun h' => ?_
  refine State.Inv.advance ?_
  split
  · exact h'
  · split
    · exact h'.result
    · exact h'.result
    · exact h'.result
    · exact h'.push.ite h'.push.updWave

/-! ## Card engines, semaphores and completion flags (17) -/

theorem cardIssue {i : Instr} {kind : Nat} {r : RForm} (h : s.Inv) : OutInv (cardIssue i kind r s) :=
  (h.issueChecked fun h' => (h'.ite h'.keep.updWave.result).advance).next

theorem dropChunks {ps : List Chunk} (h : s.Inv) : (s.dropChunks ps).Inv := h.keep
theorem closeCard {c : Card} (h : s.Inv) : (s.closeCard c).Inv := h.dropChunks.keep.updBlock.settleFlags

theorem execJcan {r : RForm} (h : s.Inv) : OutInv (execJcan r s) := by
  unfold Machine.execJcan
  dsimp only
  refine State.Inv.next ?_
  refine h.issue fun h' => ?_
  split
  · exact h'.advance
  · split
    · exact h'.closeCard.result.advance
    · exact h'.result.advance

theorem updSem {cl k : Nat} {f : Sem → Sem} (h : s.Inv) : (s.updSem cl k f).Inv := h.updCluster

theorem semOp {i : Instr} {k : Nat} {f : State → W32 → State} (h : s.Inv) (hf : ∀ {t act}, t.Inv → (f t act).Inv) :
    OutInv (semOp i k f s) :=
  (h.issueChecked fun h' => (h'.ite (hf h')).advance).next

theorem semResume {wv lane : Nat} (h : s.Inv) : (s.semResume wv lane).Inv := by
  unfold State.semResume
  dsimp only
  split
  · exact h
  · split
    · exact h.updWave.settle.ite h
    · exact h

theorem cardReqs {c : Card} {id : Nat} {write : Bool} {sp : Space} {as : List Nat} (h : s.Inv) :
    (s.cardReqs c id write sp as).Inv :=
  h.ite h.keep

theorem reportCard {c : Card} {sp : Space} {as : List Nat} (h : s.Inv) : (s.reportCard c sp as).Inv := h.reportBad.ite h
theorem setCard {c : Card} (h : s.Inv) : (s.setCard c).Inv := h.keep

theorem endCard {c : Card} {code faddr : Nat} (h : s.Inv) : (s.endCard c code faddr).Inv := by
  unfold State.endCard
  extract_lets b s' u
  have h1 : s'.Inv := h.dropChunks.setCard
  have h2 : u.Inv := (h1.withMem h1.canon.write).ite h1
  exact (h2.updSem.ite h2).ite (h2.updSem.ite h2).report

theorem loseCard {id : Nat} (h : s.Inv) : (s.loseCard id).Inv := by
  unfold State.loseCard
  split
  · exact h.closeCard
  · exact h

theorem failChunk {c : Card} {k code a : Nat} (h : s.Inv) : (s.failChunk c k code a).Inv := h.dropChunks.setCard
theorem startCard {c : Card} (h : s.Inv) : (s.startCard c).Inv := h.setCard

theorem askChunk {c : Card} {p : Chunk} (h : s.Inv) : (s.askChunk c p).Inv := by
  unfold State.askChunk
  split
  exact h.setCard.cardReqs.ite (h.foldl fun ht => ht.askWalk)

theorem nextPhase {c : Card} {p : Chunk} (h : s.Inv) : (s.nextPhase c p).Inv := h.setCard.askChunk

theorem sendChunk {c : Card} {cl sl slot : Nat} (h : s.Inv) : (s.sendChunk c cl sl slot).Inv := by
  unfold State.sendChunk
  extract_lets p c' u v w
  have h1 : u.Inv := h.keep
  have h2 : v.Inv := h1.updSlice
  have h3 : w.Inv := h2.keep.ite h1
  exact h3.setCard.askChunk

theorem readIndices {c : Card} {p : Chunk} (h : s.Inv) : (s.readIndices c p).Inv := by
  unfold State.readIndices
  dsimp only
  split
  · exact h.reportCard.failChunk
  · exact h.reportCard.nextPhase

theorem readElements {c : Card} {p : Chunk} {xs : List (Option Nat)} (h : s.Inv) : (s.readElements c p xs).Inv := by
  unfold State.readElements
  dsimp only
  split
  · exact h.reportCard.failChunk
  · exact h.reportCard.nextPhase

theorem readSource {c : Card} {p : Chunk} (h : s.Inv) : (s.readSource c p).Inv := by
  unfold State.readSource
  dsimp only
  split
  · exact h.reportCard.failChunk
  · exact h.reportCard.nextPhase.ite h.reportCard.setCard

theorem putBytes {c : Card} {bs : List (Nat × Byte)} (h : s.Inv) : (s.putBytes c bs).Inv := by
  unfold State.putBytes
  refine h.foldl fun ht => ?_
  split
  · exact ht.writeBytes
  · exact ht

theorem countBytes {c : Card} {n : Nat} (h : s.Inv) : (s.countBytes c n).Inv := h.updSem.ite h
theorem absorb {c : Card} {p : Chunk} (h : s.Inv) : (s.absorb c p).Inv := h.setCard.ite h.keep.setCard.askChunk

theorem putChunk {c : Card} {p : Chunk} (h : s.Inv) : (s.putChunk c p).Inv := by
  unfold State.putChunk
  extract_lets bs u fail lands n away v c₁ c₂ w
  have h1 : u.Inv := h.reportCard
  have h2 : v.Inv := h1.putBytes.countBytes
  have h3 : w.Inv := h2.setCard
  clear_value fail
  split
  · exact h1.failChunk
  · exact h3.endCard.ite h3

theorem writeChunk {c : Card} {p : Chunk} (h : s.Inv) : (s.writeChunk c p).Inv := by
  unfold State.writeChunk
  split
  · exact h.endCard.ite h.putChunk
  · exact h.absorb.ite h.putChunk

theorem runCard {c : Card} {st : CardStep} (h : s.Inv) : (s.runCard c st).Inv := by
  unfold State.runCard
  extract_lets lost
  split
  · exact h.found.closeCard
  · split
    · exact h.closeCard
    · exact h.endCard
    · exact h.startCard
    · exact h.sendChunk
    · exact h.askChunk
    · exact h.readIndices
    · split
      · exact h.readElements.ite h.readSource
      · exact h.readSource
    · exact h.writeChunk

/-! ## Shared operations of the marshal (18) -/

theorem gstop {p code : Nat} {more : List Nat} (h : s.Inv) : (s.gstop p code more).Inv := h.updPart.report

theorem nodeStop {p : Nat} {n : Node} {code : Nat} {more : List Nat} (h : s.Inv) : (s.nodeStop p n code more).Inv :=
  h.gstop.ite h

theorem setCw {p : Nat} {n : Fin 64} {v : Nat} (h : s.Inv) : (s.setCw p n v).Inv :=
  (h.withMem h.canon.writeMany).ite h.gstop

theorem dropNode {p id : Nat} (h : s.Inv) : (s.dropNode p id).Inv := h.updPart

theorem commit {p : Nat} {n : Node} {v : Nat} {fault : Option (Nat × List Nat)} (h : s.Inv) :
    (s.commit p n v fault).Inv := by
  unfold State.commit
  split
  · exact h.dropNode.setCw
  · split
    · exact h.dropNode.nodeStop
    · exact h.dropNode

theorem settleGrid {gid : Nat} (h : s.Inv) : (s.settleGrid gid).Inv := by
  unfold State.settleGrid
  dsimp only
  split
  · exact h
  · split
    · exact h
    · split
      · exact h.keep.dropContext.commit
      · exact h.keep.dropContext

theorem collEntry {t : Tent} {failed : Bool} (h : s.Inv) : (s.collEntry t failed).Inv := by
  unfold State.collEntry
  split
  · split
    · exact h.commit.ite h.updPart
    · exact h
  · exact h

theorem collFails {t : Tent} {reason folio : Nat} (h : s.Inv) : (s.collFails t reason folio).Inv := by
  unfold State.collFails
  split
  · exact (h.ite (h.keep.ite h.nodeStop)).collEntry
  · exact h.collEntry

theorem settleColls {n : Nat} (h : s.Inv) : (s.settleColls n).Inv := by
  unfold State.settleColls
  refine h.keep.foldl fun ht => ?_
  split
  · split
    · exact ht.nodeStop.commit.ite ht.nodeStop
    · exact ht.nodeStop
  · exact ht

/-! ## Collective entries (20 R409 to R418) -/

theorem updPort {n : Nat} {f : Port → Port} (h : s.Inv) : (s.updPort n f).Inv := h.keep

theorem semFail {t : Tent} (h : s.Inv) : (s.semFail t).Inv := by
  unfold State.semFail
  dsimp only
  split
  · split
    · exact h.updSem.ite h
    · exact h
  · exact h

theorem failFolio {reason folio : Nat} (h : s.Inv) : (s.failFolio reason folio).Inv := h.keep.ite h

theorem failEntryIn {t : Tent} {reason folio : Nat} (h : s.Inv) : (s.failEntryIn t reason folio).Inv := by
  unfold State.failEntryIn
  extract_lets keep r u v w x
  have h1 : u.Inv := h.setTent
  have h2 : v.Inv := h1.updPart
  have h3 : w.Inv := h2.semFail
  have h4 : x.Inv := h3.failFolio
  exact h.failFolio.ite (h4.ite h4.collFails)

theorem failEntry {t : Tent} {reason : Nat} (h : s.Inv) : (s.failEntry t reason).Inv := h.failEntryIn
theorem finishEntry {t : Tent} (h : s.Inv) : (s.finishEntry t).Inv := (h.setTent.ite h.setTent.report).collEntry

theorem semAdd {p : Nat} {w : EWord} (h : s.Inv) : (s.semAdd p w).Inv := by
  unfold State.semAdd
  split
  · split
    · exact h.updSem.ite h
    · exact h
  · exact h

theorem writeRoot {p e c : Nat} (h : s.Inv) : (s.writeRoot p e c).Inv := by
  unfold State.writeRoot
  extract_lets t alt
  split
  · exact h
  · extract_lets u
    have h1 : u.Inv := h.readOwn
    split
    · exact h
    · split
      · exact h1.failEntry
      · exact h
      · split
        · exact h1.failEntry
        · extract_lets at' v barred t₁ t₂ w
          have h2 : v.Inv := h1.meets
          have h3 : w.Inv := h2.writeBytes.setTent
          exact h2.failEntry.ite (h3.finishEntry.ite h3).semAdd

theorem settleEntry {p e : Nat} (h : s.Inv) : (s.settleEntry p e).Inv := by
  unfold State.settleEntry
  split
  · exact h
  · extract_lets u t
    have h1 : u.Inv := (h.foldl fun ht => ht.writeRoot).ite h
    split
    · split
      · exact h1.failEntry
      · exact h1
    · exact h1

theorem pathFails {p e : Nat} {alt : Bool} {c : Option Nat} {reason : Nat} (h : s.Inv) :
    (s.pathFails p e alt c reason).Inv :=
  h.updTent.settleEntry.ite h

theorem consume {ts : TSlot} {r : RxRec} (h : s.Inv) : (s.consume ts r).Inv := by
  unfold State.consume
  dsimp only
  split
  · exact h
  · split
    · exact h
    · split
      · split
        · exact h.setTent.settleEntry
        · exact h.setTent.pathFails
        · exact h.pathFails
      · exact h.setTent.settleEntry.ite h

theorem drain {p e : Nat} (h : s.Inv) : (s.drain p e).Inv :=
  h.foldl fun ht => ht.updPort.foldl fun ht => ht.consume.ite ht

theorem lossOf {ts : TSlot} {folio : Nat} (h : s.Inv) : (s.lossOf ts folio).Inv := h.ite h.pathFails
theorem losses {p e : Nat} (h : s.Inv) : (s.losses p e).Inv := h.foldl fun ht => ht.foldl fun ht => ht.lossOf

theorem armEntry {p e step node : Nat} (h : s.Inv) : (s.armEntry p e step node).Inv := by
  unfold State.armEntry
  dsimp only
  split
  · exact h.collFails
  · split
    · exact h.failEntry
    · split
      · exact h.failEntry
      · exact h.setTent.drain.losses.settleEntry.ite (h.setTent.failEntry.ite h.setTent.losses)

theorem fire {p e : Nat} (h : s.Inv) : (s.fire p e).Inv := h.ite (h.setTent.drain.settleEntry.ite h.failEntry)

/-! ## Graph code (18 R335 to R349) -/

theorem gnext {p : Nat} (h : s.Inv) : (s.gnext p).Inv := h.updPart
theorem gto {p : Nat} {off : BitVec 24} (h : s.Inv) : (s.gto p off).Inv := h.updPart
theorem nodeIssues {p : Nat} {boundary : Bool} (h : s.Inv) : (s.nodeIssues p boundary).Inv := h.updPart

theorem gnodeIf {i : Instr} {g : Guard} {boundary : Bool} {ok : Nat → State → Bool} {act : Nat → State → State}
    (h : s.Inv) (hact : ∀ {p t}, t.Inv → (act p t).Inv) : OutInv (gnodeIf i g boundary ok act s) := by
  unfold Machine.gnodeIf
  refine State.Inv.next ?_
  split
  · exact h
  · split
    · exact h.gstop
    · split
      · exact h.gstop
      · exact (hact h.nodeIssues).ite h.nodeIssues.gnext

theorem gnode {i : Instr} {g : Guard} {boundary : Bool} {act : Nat → State → State} (h : s.Inv)
    (hact : ∀ {p t}, t.Inv → (act p t).Inv) : OutInv (gnode i g boundary act s) :=
  h.gnodeIf fun h' => hact h'

theorem gbranch {i : Instr} {g : Guard} {act : Nat → Bool → State → State} (h : s.Inv)
    (hact : ∀ {p taken t}, t.Inv → (act p taken t).Inv) : OutInv (gbranch i g act s) := by
  unfold Machine.gbranch
  refine State.Inv.next ?_
  split
  · exact h
  · split
    · exact h.gstop
    · split
      · exact h.gstop
      · exact hact h.nodeIssues

theorem addNode {p : Nat} {kind : NodeKind} {sten : Bool} {cw : Fin 64} (h : s.Inv) : (s.addNode p kind sten cw).Inv :=
  h.updPart

theorem loopPass {p : Nat} {off bound : BitVec 24} (h : s.Inv) : (s.loopPass p off bound).Inv :=
  h.gstop.ite (h.updPart.gstop.ite h.updPart.gto)

theorem waitGc {p : Nat} {target : W64} (h : s.Inv) : (s.waitGc p target).Inv := h.updPart.gnext

theorem execGwaitgc {g : Guard} {mode : GcMode} (h : s.Inv) : OutInv (execGwaitgc g mode s) := by
  unfold Machine.execGwaitgc
  refine h.gnode fun h' => ?_
  split
  · exact h'.waitGc
  · split
    · exact h'.waitGc
    · exact h'.gstop

theorem execGwaitsem {g : Guard} {threshold : W32} {cl : BitVec 5} {k : Fin 64} (h : s.Inv) :
    OutInv (execGwaitsem g threshold cl k s) := by
  unfold Machine.execGwaitsem
  refine h.gnodeIf fun h' => ?_
  split
  · exact h'
  · exact h'.addNode.gnext.ite h'.gstop

theorem execGsetc {g : Guard} {cw : Fin 64} {add : Bool} {value : W32} (h : s.Inv) :
    OutInv (execGsetc g cw add value s) := by
  unfold Machine.execGsetc
  refine h.gnode fun h' => ?_
  split
  · exact h'.gstop
  · exact h'.setCw.gnext.ite h'.gstop

/-! ## The launch check (18 R338, R339) -/

theorem launchCheck {p : Nat} (h : s.Inv) : (s.launchCheck p).Inv := by
  unfold State.launchCheck
  split
  · exact h
  · split
    · exact h.updGrid.settleGrid
    · exact h.updGrid

/-! ## The discipline of the GC (20 R396 to R398) -/

theorem updPtp {n : Nat} {f : PtpPort → PtpPort} (h : s.Inv) : (s.updPtp n f).Inv := h.updPort.ite h.keep

theorem ptpSend {n k : Nat} (h : s.Inv) : (s.ptpSend n k).1.Inv := by
  unfold State.ptpSend
  extract_lets q t
  have h1 : t.Inv := h.updPtp
  split
  · exact h.updPtp.pair
  · split
    · exact h1.keep.ite h1
    · split
      · exact h.updPtp.pair
      · exact h

theorem slew {ppm : Int} (h : s.Inv) : (s.slew ppm).Inv := h.keep

theorem discipline {offset : Int} (h : s.Inv) : (s.discipline offset).Inv := by
  unfold State.discipline
  extract_lets _ u
  have h1 : u.Inv := h.slew
  exact h.keep.slew.ite h1.keep

theorem syncIn {n : Nat} {m : BitVec 512} (h : s.Inv) : (s.syncIn n m).Inv := by
  unfold State.syncIn
  extract_lets _ u
  have h1 : u.Inv := h.keep
  split
  · exact h
  · split
    · extract_lets v
      have h2 : v.Inv := h1.discipline
      exact h2.keep
    · exact h1

theorem ptpIn {n : Nat} {m : BitVec 512} (h : s.Inv) : (s.ptpIn n m).Inv := by
  unfold State.ptpIn
  split
  · exact h
  · split
    · exact h.syncIn
    · exact h.updPtp
    · split
      · exact h.updPtp.ite h
      · exact h
    · exact h

theorem mgmtSend {k : Nat} (h : s.Inv) : (s.mgmtSend k).Inv := h.ptpSend.ite h.ptpSend.keep

theorem execPtpMessage {port : Nat} {msg : PtpMsg} (h : s.Inv) : OutInv (execPtpMessage port msg s) := by
  unfold Machine.execPtpMessage
  refine State.Inv.next ?_
  split
  · exact h.ptpIn.ite h.ptpIn.mgmtSend
  · exact h.updPtp
  · exact h.keep

/-! ## Slots on a fabric port (20 R399 to R407) -/

theorem txSlot {n folio frame pos : Nat} (h : s.Inv) : (s.txSlot n folio frame pos).Inv := by
  unfold State.txSlot
  extract_lets q ts t t' put failed
  split
  · exact h
  · extract_lets lost s₁
    have hput {v : State} {d} (hv : v.Inv) : (put v d).Inv := hv.updPort
    have hfailed {v : State} (hv : v.Inv) : (failed v).Inv := (hput hv).ite hv
    have hlost {v : State} {c} (hv : v.Inv) : (lost v c).Inv := by
      unfold lost
      extract_lets v'
      have h1 : v'.Inv := hv.updTent
      split
      · exact h1.failEntry
      · exact h1.pathFails
    have h1 : s₁.Inv := h.setTent.readOwn
    split
    · exact h
    · split
      · exact hfailed h
      · split
        · split
          · exact hput h.setTent
          · exact hfailed (hlost h)
        · split
          · exact h.updPort
          · split
            · exact hput h1
            · exact hfailed (hlost h1)

theorem txRead {n frame pos : Nat} (h : s.Inv) : (s.txRead n frame pos).Inv := h.updPort.txSlot

theorem heldRead {n : Nat} (h : s.Inv) : (s.heldRead n).Inv := by
  unfold State.heldRead
  split
  · exact h.updPort.txSlot
  · exact h

theorem closeGroup {n folio frame g : Nat} (h : s.Inv) : (s.closeGroup n folio frame g).1.Inv := by
  unfold State.closeGroup
  extract_lets
  split
  · exact h
  · extract_lets
    exact h.updPort.pair

theorem closeGroups {n folio frame : Nat} {gs : List Nat} (h : s.Inv) : (s.closeGroups n folio frame gs).1.Inv := by
  induction gs generalizing s with
  | nil => exact h
  | cons g gs ih => exact ih h.closeGroup

theorem slotLost {n folio frame pos : Nat} (h : s.Inv) : (s.slotLost n folio frame pos).Inv := h.updPort.lossOf

theorem frameLost {n folio frame : Nat} (h : s.Inv) : (s.frameLost n folio frame).Inv :=
  h.ite (h.foldl fun ht => ht.slotLost)

theorem tagSend {n frame : Nat} (h : s.Inv) : (s.tagSend n frame).Inv := by
  unfold State.tagSend
  dsimp only
  split
  · exact h
  · exact h.updPort.ite (h.closeGroups.updPort.frameLost.ite h.updPort)

theorem ptpOut {n frame : Nat} {ptp : BitVec 512} (h : s.Inv) : (s.ptpOut n frame ptp).1.Inv := by
  unfold State.ptpOut
  split
  · exact h
  · split
    · exact h.ptpSend
    · exact h.keep.ite h

theorem syncSend {n frame : Nat} {ptp : BitVec 512} (h : s.Inv) : (s.syncSend n frame ptp).Inv := by
  unfold State.syncSend
  split
  · exact h
  · exact h.ptpOut.updPort

theorem sentDone {folio : Nat} (h : s.Inv) : (s.sentDone folio).Inv := by
  unfold State.sentDone
  dsimp only
  refine h.foldl fun ht => ?_
  split
  · exact ht.finishEntry.ite ht
  · exact ht

theorem retrySend {n frame : Nat} (h : s.Inv) : (s.retrySend n frame).Inv := by
  unfold State.retrySend
  split
  · exact h
  · exact h.updPort.sentDone

theorem slotPass {n folio frame pos : Nat} {data : List Byte} (h : s.Inv) : (s.slotPass n folio frame pos data).Inv :=
  h.ite h.updPort

theorem recheck {n folio : Nat} {g : RxGroup} (h : s.Inv) : (s.recheck n folio g).Inv := by
  unfold State.recheck
  dsimp only
  split
  · exact h.updPort.foldl fun ht => ht.slotPass
  · exact h.updPort.foldl fun ht => ht.slotLost

theorem resent {n folio frame pos : Nat} {data : Option (List Byte)} (h : s.Inv) :
    (s.resent n folio frame pos data).Inv := by
  unfold State.resent
  split
  · split
    · exact h
    · split
      · exact h.slotPass
      · exact h.slotLost
  · split
    · exact h.updPort.foldl fun ht => ht.slotLost
    · exact h.updPort.recheck.ite h.updPort

theorem retries {n folio frame j : Nat} {tagBad : Bool} {check : List Byte} {slots : List RxSlot} (h : s.Inv) :
    (s.retries n folio frame j tagBad check slots).Inv :=
  h.updPort.foldl fun ht => ht.resent

theorem tagArrives {n frame : Nat} {tagBad : Bool} {tag : List Byte} {slots : List RxSlot} (h : s.Inv) :
    (s.tagArrives n frame tagBad tag slots).Inv := by
  unfold State.tagArrives
  split
  · exact h
  · extract_lets folio check u gs v fails w x y z
    have h1 : u.Inv := h.updPort
    have h2 : v.Inv := h1.foldl fun ht => ht.foldl fun ht => ht.slotPass
    have h3 : w.Inv := h2.updPort
    have h4 : x.Inv := h3.foldl fun ht => ht.resent
    have h5 : y.Inv := h.retries
    have h6 : z.Inv := h5.retries
    exact h.ite ((h4.retries.ite h4).ite h6.retries)

theorem raiseMark {dev folio : Nat} (h : s.Inv) : (s.raiseMark dev folio).Inv := h.ite h.keep

theorem syncArrives {n frame : Nat} {y : SyncSlot} (h : s.Inv) : (s.syncArrives n frame y).Inv := by
  unfold State.syncArrives
  extract_lets u v
  have h1 : u.Inv := by
    unfold u
    split
    · exact h.ite h.updPort
    · exact h
  have h2 : v.Inv := h1.raiseMark.ite h1
  exact h.ite (h2.ite h2.ptpIn)

theorem letIn {n : Nat} {ts : TSlot} {r : RxRec} (h : s.Inv) : (s.letIn n ts r).Inv :=
  h.consume.ite (h.ite (h.failEntryIn.ite h.updPort))

theorem slotArrives {n i : Nat} (h : s.Inv) : (s.slotArrives n i).Inv := by
  unfold State.slotArrives
  split
  · exact h
  · exact h.ite (h.updPort.ite (h.updPort.consume.ite (h.updPort.updPort.ite h.updPort.letIn)))

/-! ## The control channel (21 R426, R427) -/

theorem controlSend {n : Nat} (h : s.Inv) : (s.controlSend n).Inv := h.updPort

theorem sendMsg {n : Nat} {x : Session} {m : List Nat} (h : s.Inv) : (s.sendMsg n x m).1.Inv :=
  h.updPort.pair

theorem ask {n : Nat} {x : Session} {step : Nat} {m : List Nat} (h : s.Inv) : (s.ask n x step m).Inv := by
  unfold State.ask
  split
  exact (h.sendMsg.fst ‹_›).updPort

theorem askSwitch {n : Nat} {x : Session} {step : Nat} (h : s.Inv) : (s.askSwitch n x step).Inv := h.keep.ask

/-! ## The pod around the device (20 R397, R418; 21 R426 to R434) -/

theorem expireSidings {n : Nat} (h : s.Inv) : (s.expireSidings n).Inv :=
  h.foldl fun ht => ht.updPort.foldl fun ht => ht.ite ht.failEntryIn

theorem expireEntries {n : Nat} (h : s.Inv) : (s.expireEntries n).Inv := by
  unfold State.expireEntries
  refine h.foldl fun ht => ?_
  extract_lets t
  split
  · exact (ht.ite ht.pathFails).ite (ht.ite ht.pathFails).pathFails
  · exact ht

theorem scheduleFault {n : Nat} (h : s.Inv) : (s.scheduleFault n).Inv := h.keep.raiseMark.report
theorem rearm {f : Nat} (h : s.Inv) : (s.rearm f).Inv := (h.foldl fun ht => ht.updTent.collFails).keep

theorem moveHeld {b : Nat} (h : s.Inv) : (s.moveHeld b).Inv := by
  unfold State.moveHeld
  split
  · exact h
  · exact h.keep

theorem resumePod (h : s.Inv) : s.resumePod.Inv := h.keep.report

theorem endFolio (h : s.Inv) : s.endFolio.Inv := by
  unfold State.endFolio
  extract_lets n u v _ w x
  have h1 : u.Inv := h.expireSidings.expireEntries
  have h2 : v.Inv := h1.scheduleFault.ite h1
  clear_value v
  have h3 : w.Inv := h2.keep.settleColls
  have h4 : x.Inv := h3.mgmtSend
  split
  · exact h4
  · split
    · exact h4.keep.rearm.settleColls
    · exact h4

theorem announce {b : Nat} (h : s.Inv) : (s.announce b).Inv := h.moveHeld.keep.ite h

theorem refuseSwitch {n : Nat} {x : Session} {step reason : Nat} (h : s.Inv) : (s.refuseSwitch n x step reason).Inv :=
  h.updPort.report

theorem endSession {n cause : Nat} (h : s.Inv) : (s.endSession n cause).Inv := by
  unfold State.endSession
  split
  · exact h
  · extract_lets u v
    have h1 : u.Inv := by
      unfold u
      split
      · exact h.refuseSwitch
      · exact h
    have h2 : v.Inv := h1.updPort
    exact h2.report.ite h2

theorem admitSwitch {n : Nat} {x : Session} (h : s.Inv) : (s.admitSwitch n x).Inv := h.updPort.report

theorem attestStep {n : Nat} {x : Session} {k : Nat} {m : List Byte} {r : AttestResp} (h : s.Inv) :
    (s.attestStep n x k m r).Inv := by
  unfold State.attestStep
  split
  · exact h.askSwitch.ite h.refuseSwitch
  · exact h.askSwitch.ite h.refuseSwitch
  · exact h.askSwitch.ite h.refuseSwitch
  · split
    · exact h.refuseSwitch
    · split
      · exact h.ask
      · exact h.ask.ite (h.askSwitch.ite h.refuseSwitch)
      · exact h.refuseSwitch
  · exact h.askSwitch.ite h.refuseSwitch
  · exact h.askSwitch.ite h.refuseSwitch
  · split
    · exact h.refuseSwitch
    · exact h.askSwitch.ite h.refuseSwitch
  · exact h.admitSwitch.ite h.refuseSwitch

theorem switchSays {n : Nat} {m : List Byte} {r : AttestResp} (h : s.Inv) : (s.switchSays n m r).Inv := by
  unfold State.switchSays
  split
  · exact h
  · split
    · exact h.updPort
    · split
      · exact h.attestStep
      · exact h

theorem control {n : Nat} {r : AttestResp} (h : s.Inv) : (s.control n r).Inv := by
  unfold State.control
  refine h.updPort.foldl fun ht => ?_
  split
  · exact ht
  · split
    · split
      · exact ht.updPort.switchSays
      · exact ht.endSession
    · exact ht.switchSays

theorem execControlRequestTimeout {port : Nat} (h : s.Inv) : OutInv (execControlRequestTimeout port s) := by
  unfold Machine.execControlRequestTimeout
  refine State.Inv.next ?_
  split
  · split
    · exact h.ite (h.refuseSwitch.ite h.updPort)
    · exact h
  · exact h

theorem heartbeat {n : Nat} {answered : Bool} (h : s.Inv) : (s.heartbeat n answered).Inv := by
  unfold State.heartbeat
  split
  · exact h.ite (h.endSession.ite h.sendMsg.updPort)
  · exact h

theorem revoke {n : Nat} (h : s.Inv) : (s.revoke n).Inv := by
  unfold State.revoke
  split
  · exact h
  · split
    exact ((h.pair.foldlFst fun hz => hz.sendMsg).fst ‹_›).endSession

theorem trainFail {n : Nat} (h : s.Inv) : (s.trainFail n).Inv :=
  ((h.updPort.foldl fun ht => ht.foldl fun ht => ht.resent).foldl fun ht => ht.frameLost).endSession

/-! ## Memory instructions (06 R131 to R138, 13) -/

theorem memOp {i : Instr} (h : s.Inv) : OutInv (memOp i s) := by
  unfold Machine.memOp
  split
  · exact h.accIssue.next
  · exact h.next

theorem pageIssue {i : Instr} {m : MForm} {refused : Seen → Bool} {k : State → Access → State} (h : s.Inv)
    (hk : ∀ {t act}, t.Inv → (k t act).Inv) : OutInv (pageIssue i m refused k s) :=
  (h.issue fun h' => h.reportBad.takeTrap.ite (hk h'.reportBad).advance).next

/-! ## Wave, reduction and barrier instructions (08) -/

theorem redResult {t : RType} {act : W32} {regs : List Reg} {wr : List Wr} {fl : Fl} (h : s.Inv) :
    (s.redResult t act regs wr fl).Inv :=
  h.result.ite h.resultFl

theorem execWred {t : RType} {op : RedOp} {r : RForm} (h : s.Inv) : OutInv (execWred t op r s) := by
  unfold Machine.execWred
  refine State.Inv.next ?_
  refine h.issue fun h' => ?_
  split
  · exact h'.redResult.advance
  · exact h'.advance

/-- A barrier instruction keeps the invariant when what it does to its object does. -/
theorem barOp {i : Instr} {f : State → W32 → State → Except Trap State} (h : s.Inv)
    (hf : ∀ {t u act}, t.Inv → f s act t = .ok u → u.Inv) : OutInv (barOp i f s) := by
  unfold Machine.barOp
  refine State.Inv.next (h.issue fun h' => ?_)
  split
  · exact h'.advance
  · split
    · exact (hf h' ‹_›).advance
    · exact h.takeTrap

theorem execBinit {b : Fin 32} {r : RForm} (h : s.Inv) : OutInv (execBinit b r s) := by
  refine h.barOp fun h' hu => ?_
  dsimp only at hu
  split at hu <;> cases hu
  exact h'.setBar

theorem arriveAll {t u : State} {b gen : Nat} {act : W32} (h : t.Inv) (hu : s.arriveAll t b act = .ok (u, gen)) :
    u.Inv := by
  unfold State.arriveAll at hu
  extract_lets fl at hu
  split at hu <;> cases hu
  exact h.arrive ‹_›

theorem execBarv {b : Fin 32} {r : RForm} (h : s.Inv) : OutInv (Machine.execBarv b r s) := by
  refine h.barOp fun h' hu => ?_
  split at hu <;> cases hu
  exact (h'.arriveAll ‹_›).result

theorem waitBar {lanes : W32} {b gen : Nat} (h : s.Inv) : (s.waitBar lanes b gen).Inv := h.updWave

theorem execBwait {b : Fin 32} {r : RForm} (h : s.Inv) : OutInv (execBwait b r s) := by
  refine h.barOp fun h' hu => ?_
  dsimp only at hu
  split at hu
  · cases hu
  · split at hu <;> cases hu
    · exact h'.waitBar
    · exact h'

theorem execBarw {b : Fin 32} {r : RForm} (h : s.Inv) : OutInv (Machine.execBarw b r s) := by
  refine h.barOp fun h' hu => ?_
  split at hu <;> cases hu
  exact (h'.arriveAll ‹_›).waitBar.ite (h'.arriveAll ‹_›)

theorem execBinval {b : Fin 32} {r : RForm} (h : s.Inv) : OutInv (execBinval b r s) := by
  refine h.barOp fun h' hu => ?_
  dsimp only at hu
  split at hu <;> cases hu
  exact h'.setBar

theorem execBrdf {fd : BrField} {b : Fin 32} {r : RForm} (h : s.Inv) : OutInv (execBrdf fd b r s) := by
  refine h.barOp fun h' hu => ?_
  cases hu
  exact h'.result

theorem resumeLanes {uid : Nat} {p : Thread → Bool} (h : s.Inv) : (s.resumeLanes uid p).Inv := h.updWave.settle

theorem execBarrierResume {wv lane : Nat} (h : s.Inv) : OutInv (execBarrierResume wv lane s) := by
  unfold Machine.execBarrierResume
  refine State.Inv.next ?_
  split
  · exact h.resumeLanes.ite h
  · exact h

/-! ## Rounds, effects as they arrive, and stalls (01 R20, R21; 19 R354 to R357) -/

theorem freeze {cl : Nat} {f : Cluster → Cluster} (h : s.Inv) : (s.freeze cl f).Inv := by
  unfold State.freeze
  exact h.updCluster

theorem thaw {n cl : Nat} {f : Cluster → Cluster} (h : s.Inv) : (s.thaw n cl f).Inv := by
  induction n generalizing s cl f with
  | zero => exact h
  | succ n ih => exact h.updCluster.ite (h.updCluster.updCluster.foldl fun ht => ih ht)

theorem behindPeer {cl : Nat} {keys : List Nat} {t : State} (h : s.Inv) (ht : s.behindPeer cl keys = some t) :
    t.Inv := by
  unfold State.behindPeer at ht
  split at ht
  · split at ht <;> cases ht
    exact h.freeze
  · cases ht

theorem noteReady {cl : Nat} (h : s.Inv) : (s.noteReady cl).Inv := by
  unfold State.noteReady
  split
  · exact h.updCluster.ite h
  · exact h

theorem noteStalls (h : s.Inv) : s.noteStalls.Inv := h.foldl fun ht => ht.noteReady
theorem abandon {a : Access} (h : s.Inv) : (s.abandon a).Inv := h.updAcc.updWave

theorem abandonAll {cl : Nat} (h : s.Inv) : (s.abandonAll cl).1.Inv :=
  (h.foldl fun ht => ht.abandon).foldl fun ht => ht.endCard

theorem endStall {cl : Nat} (h : s.Inv) : (s.endStall cl).Inv := by
  unfold State.endStall
  split
  · exact h
  · exact h.abandonAll.report.thaw

theorem execStallResume {cl : Nat} (h : s.Inv) : OutInv (execStallResume cl s) := by
  unfold Machine.execStallResume
  refine State.Inv.next ?_
  split
  · exact h.endStall.ite h
  · exact h

theorem clusterBoundary {cl cyc : Nat} (h : s.Inv) : (s.clusterBoundary cl cyc).Inv := by
  unfold State.clusterBoundary
  dsimp only
  split
  · exact (h.ite h.report).updCluster
  · exact h.updCluster

theorem boundary {n : Nat} (h : s.Inv) : (s.boundary n).Inv :=
  h.ite (h.freeze.ite (h.ite (h.freeze.ite (h.updSlice.clusterBoundary.ite h.updSlice))))

theorem deliverAt {wv i : Nat} (h : s.Inv) : (s.deliverAt wv i).Inv := by
  unfold State.deliverAt
  split
  · exact h
  · split
    · exact h
    · exact h.updAny.deliver.ite h

theorem accEffect {i : Nat} (h : s.Inv) : (s.accEffect i).Inv := by
  unfold State.accEffect
  split
  · exact h.movePad
  · split
    · exact h
    · split
      · exact h.dropAcc.ite h
      · split
        · exact h
        · split
          · exact h
          · split
            · exact h.behindPeer ‹_›
            · exact h.class0Effect.readyAfter.noteStalls

theorem padChain {i : Nat} (h : s.Inv) : (s.padChain i).Inv := by
  unfold State.padChain
  split
  · exact h
  · split
    · exact h
    · split
      · exact h.behindPeer ‹_›
      · exact h.laneEffects.updAcc.ite h.class0Effect

theorem redirects {i : Nat} (h : s.Inv) : (s.redirects i).Inv := by
  unfold State.redirects
  split
  · exact h
  · extract_lets u
    have h1 : u.Inv := h.dropAcc.foldl fun ht => ht.redirect
    split
    · exact h
    · split
      · exact h.behindPeer ‹_›
      · split
        · split
          · exact (h1.foldl fun ht => ht.applyWr).settleFlags
          · exact h1.settleFlags
        · exact h1.ite h1.updAny

theorem cardEvent {i kind : Nat} (h : s.Inv) : (s.cardEvent i kind).Inv := by
  unfold State.cardEvent
  split
  · exact h
  · split
    · exact h
    · split
      · exact h
      · split
        · exact h.behindPeer ‹_›
        · exact h.runCard.noteStalls

theorem elasticExit {wv : Nat} (h : s.Inv) : (s.elasticExit wv).Inv := by
  unfold State.elasticExit
  split
  · exact h
  · split
    · exact h
    · exact h.ite (h.updWave.ite h.updWave.enterHandler)

theorem beginRelease (h : s.Inv) : s.beginRelease.Inv :=
  (h.foldl fun ht => ht.ite (ht.foldl fun ht => ht.ite ht.freeze)).keep

theorem execReleaseStallEnd {cl : Nat} (h : s.Inv) : OutInv (execReleaseStallEnd cl s) := by
  unfold Machine.execReleaseStallEnd
  refine State.Inv.next ?_
  split
  · exact h.thaw.ite h
  · exact h

/-! ## Service of main memory (12) -/

theorem updChan {pc : Nat} {f : Chan → Chan} (h : s.Inv) : (s.updChan pc f).Inv :=
  h.withMem ⟨h.mem, Cells.wf_set h.chans⟩

theorem reportCounts {pc : Nat} (h : s.Inv) : (s.reportCounts pc).Inv := h.report
theorem setReq {i : Nat} {r : Req} (h : s.Inv) : (s.setReq i r).Inv := h.keep
theorem dropReq {r : Req} (h : s.Inv) : (s.dropReq r).Inv := h.keep
theorem voidReq {r : Req} (h : s.Inv) : (s.voidReq r).Inv := h.dropReq.ite h.dropReq.updAcc

theorem capFault {r : Req} (h : s.Inv) : (s.capFault r).Inv := by
  unfold State.capFault
  dsimp only
  split
  · exact h.voidReq.endContext.loseCard
  · exact h.voidReq

theorem beginCard {r : Req} (h : s.Inv) : (s.beginCard r).Inv := h.ite h.keep

theorem dispatch {i : Nat} (h : s.Inv) : (s.dispatch i).Inv := by
  unfold State.dispatch
  split
  · exact h
  · split
    · exact h
    · split
      · exact h.capFault
      · split
        · exact h.setReq.beginCard
        · exact h.setReq.ite h.setReq.beginCard

theorem dropTlb {asid ia : Nat} (h : s.Inv) : (s.dropTlb asid ia).Inv := h.dropWalks
theorem discard {asid : Nat} {l : LaneAcc} (h : s.Inv) : (s.discard asid l).Inv := (h.writeLoc.ite h).dropTlb

theorem reqLanes {a : Access} {r : Req} (h : s.Inv) : (s.reqLanes a r).Inv := by
  unfold State.reqLanes
  split
  · exact (h.foldl fun ht => ht.discard).updAcc
  · exact h.laneEffects.updAcc

theorem reqEffect {r : Req} (h : s.Inv) : (s.reqEffect r).Inv := by
  unfold State.reqEffect
  split
  · exact h.keep
  · split
    · exact h.dropReq
    · exact h.dropReq.ite (h.reqLanes.dropReq.updAcc.readyAfter.ite h.reqLanes.dropReq)

theorem uncorrectable {pc : Nat} {r : Req} {lost more : List Nat} (h : s.Inv) :
    (s.uncorrectable pc r lost more).Inv := by
  unfold State.uncorrectable
  extract_lets bad g _ u v w
  have h1 : u.Inv := h.keep
  have h2 : v.Inv := h1.voidReq.updChan.reportCounts
  have h3 : w.Inv := h2.ite h2.updAcc
  clear_value g
  split
  · exact h3.endContext.loseCard
  · exact h3

theorem serveReq {pc : Nat} {r : Req} {ecc : List Ecc} (h : s.Inv) : (s.serveReq pc r ecc).Inv := by
  unfold State.serveReq
  extract_lets found lost fixed again u
  have h1 : u.Inv := h.ite h.updChan.reportCounts
  exact h.uncorrectable.ite (h1.keep.ite h1.keep.reqEffect)

theorem serveAll {pc : Nat} {rs : List Req} {es : List Ecc} (h : s.Inv) : (s.serveAll pc rs es).Inv := by
  induction rs generalizing s es with
  | nil => exact h
  | cons r rs ih => exact ih h.serveReq

theorem serveClaim {pc : Nat} {ecc : List Ecc} {a : Claim} (h : s.Inv) : (s.serveClaim pc ecc a).Inv := by
  unfold State.serveClaim
  split
  · exact h
  · exact h.keep
  · exact (h.updChan.ite h).serveAll

theorem slotService {pc : Nat} {ecc : List Ecc} (h : s.Inv) : (s.slotService pc ecc).Inv := by
  unfold State.slotService
  extract_lets k c u
  split
  · exact h
  · split
    extract_lets first n v
    have h1 : u.Inv := h.updChan
    have h2 : v.Inv := h1.serveClaim
    exact (h2.ite h2.serveClaim).noteStalls

theorem takeGutter {pc : Nat} (h : s.Inv) : (s.takeGutter pc).Inv := by
  unfold State.takeGutter
  exact h.updChan

theorem sweepRetry {pc : Nat} {js : List Nat} {ecc : List Ecc} (h : s.Inv) : (s.sweepRetry pc js ecc).Inv :=
  h.keep.ite h.keep.updChan.reportCounts

theorem eccRetry {pc : Nat} {ecc : List Ecc} (h : s.Inv) : (s.eccRetry pc ecc).Inv := by
  unfold State.eccRetry
  split
  · exact h
  · split
    · exact h.takeGutter.serveReq.noteStalls
    · split
      · exact h
      · exact h.takeGutter.sweepRetry

theorem period {pc : Nat} (h : s.Inv) : (s.period pc).Inv := h.updChan.ite h.updChan.report
theorem setWidth {ch : Nat} {half : Bool} (h : s.Inv) : (s.setWidth ch half).Inv := h.updChan.updChan
theorem laneFault {ch : Nat} (h : s.Inv) : (s.laneFault ch).Inv := h.keep.setWidth
theorem coolStacks (h : s.Inv) : s.coolStacks.Inv := h.foldl fun ht => ht.foldl fun ht => ht.setWidth

theorem linkRetry {i : Nat} {ok : Bool} (h : s.Inv) : (s.linkRetry i ok).Inv := by
  unfold State.linkRetry
  split
  · exact h
  · split
    · exact h
    · exact h.ite h.uncorrectable.noteStalls

theorem sweepCheck {sw : Sweep} {ecc : List Ecc} (h : s.Inv) : (s.sweepCheck sw ecc).Inv :=
  h.keep.ite h.keep.updChan.reportCounts

theorem sweepEnd {sw : Sweep} (h : s.Inv) : (s.sweepEnd sw).Inv := h.keep.report

theorem sweepStep {ecc : List Ecc} (h : s.Inv) : (s.sweepStep ecc).Inv := by
  unfold State.sweepStep
  split
  · exact h
  · extract_lets a b s' u
    have h1 : s'.Inv := h.ite (h.withMem h.canon.moveGranule)
    have h2 : u.Inv := h1.ite h1.report
    exact h.sweepCheck.ite (h.ite (h2.sweepEnd.ite h2.keep))

theorem walkRead {i : Nat} (h : s.Inv) : (s.walkRead i).Inv := by
  unfold State.walkRead
  split
  · exact h
  · split
    · exact h
    · extract_lets u pte hit v w
      have h1 : u.Inv := h.dropReq
      have h2 : v.Inv := h1.updWave
      have h3 : w.Inv := h2.keep
      exact h.ite (h3.ite h3.keep)

/-! ## Page service, mapping fences and ordered windows (11 R226 to R230, 13 R279, R280) -/

theorem completeAcc {i : Nat} (h : s.Inv) : (s.completeAcc i).Inv := by
  unfold State.completeAcc
  dsimp only
  split
  · exact h
  · split
    · exact h
    · split
      · exact h.updAcc
      · split
        · exact ((h.collectAll.ite h).dropAcc.foldl fun ht => ht.applyWr).settleFlags
        · exact (h.collectAll.ite h).dropAcc.settleFlags

theorem postRequest {id : Nat} (h : s.Inv) : (s.postRequest id).Inv := by
  unfold State.postRequest
  split
  · exact h
  · exact h.updAsid.updAcc

theorem postRecord {asid : Nat} (h : s.Inv) : (s.postRecord asid).Inv := by
  unfold State.postRecord
  split
  · exact h
  · split
    · exact h
    · extract_lets q at' lost u v
      have h1 : u.Inv := h.updAsid
      have h2 : v.Inv := by
        refine h1.endContext.ite (h1.withMem ?_)
        dsimp only
        exact h1.canon.writeMany
      clear_value lost
      split
      · exact h
      · split
        · exact h2.poisonEnd
        · exact h2

theorem readCompletion {asid : Nat} (h : s.Inv) : (s.readCompletion asid).Inv := by
  unfold State.readCompletion
  split
  · exact h
  · exact h.ite ((h.foldl fun ht => ht.endContext.ite ht.poisonEnd).ite (h.updAsid.updAsid.ite h.updAsid.report))

theorem serveRecord {asid seq : Nat} (h : s.Inv) : (s.serveRecord asid seq).Inv := by
  unfold State.serveRecord
  split
  · exact h
  · split
    · exact h
    · exact h.updAsid

theorem fenceDone {asid : Nat} (h : s.Inv) : (s.fenceDone asid).Inv := by
  unfold State.fenceDone
  split
  · exact h
  · split
    · exact h
    · exact h.ite h.keep.updAsid.report

theorem mergeOne {x : Held} (h : s.Inv) : (s.mergeOne x).Inv := by
  unfold State.mergeOne
  extract_lets n l
  split
  · exact h.endContext.ite (h.poisonEnd.ite h.keep.writeLoc)
  · exact h

theorem closeWindow {gid : Nat} (h : s.Inv) : (s.closeWindow gid).Inv := by
  unfold State.closeWindow
  split
  · exact h
  · extract_lets mine u v
    have h1 : u.Inv := h.foldl fun ht => ht.mergeOne
    have h2 : v.Inv := h1.keep
    exact h.ite h2.updGrid.settleGrid

/-! ## Placement of blocks (07 R156 to R159, 19 R391) -/

theorem clearRoom {l : Launch} {cl : Nat} {r : Room} (h : s.Inv) : (s.clearRoom l cl r).Inv := by
  unfold State.clearRoom
  extract_lets _ u
  have hb : Cells.wf 0 u.mem.bytes = true := Cells.wf_foldl (fun hc => Cells.wf_drop hc) h.mem
  have ht : Cells.wf Tile.none u.tiles = true := Cells.wf_foldl (fun hc => Cells.wf_set hc) h.tiles
  have h1 : u.Inv := ⟨hb, ht, h.chans, h.slices, h.clusters⟩
  exact h1.foldl fun ht => ht.renew

theorem addWave {w : Wave} (h : s.Inv) : (s.addWave w).Inv := h.renewRegs.keep

theorem addWaves {g : Grid} {bid cl n : Nat} {r : Room} (h : s.Inv) : (s.addWaves g bid cl r n).Inv := by
  induction n with
  | zero => exact h
  | succ n ih => exact ih.keep.addWave

theorem placeBlock {g : Grid} {bl cl : Nat} {r : Room} (h : s.Inv) : (s.placeBlock g bl cl r).Inv :=
  h.clearRoom.keep.setBar.addWaves

theorem tryPlace {need : Nat → Launch} {put : State → Nat → Nat → Room → State} {xs : List (Nat × Nat)} {t : State}
    (h : s.Inv) (hput : ∀ {t bl cl r}, t.Inv → (put t bl cl r).Inv) (ht : s.tryPlace need put xs = some t) : t.Inv := by
  induction xs generalizing s with
  | nil => cases ht; exact h
  | cons x xs ih =>
    unfold State.tryPlace at ht
    split at ht
    · exact ih (hput h) ht
    · cases ht

theorem placeTeam {p team : Nat} {need : Nat → Launch} {put : State → Nat → Nat → Room → State} {bls : List Nat}
    {t : State × Nat} (h : s.Inv) (hput : ∀ {t bl cl r}, t.Inv → (put t bl cl r).Inv)
    (ht : s.placeTeam p team need put bls = some t) : t.1.Inv := by
  unfold State.placeTeam at ht
  extract_lets q at ht
  split at ht <;> obtain ⟨x, -, hx⟩ := List.exists_of_findSome?_eq_some ht
  · obtain ⟨u, hu, rfl⟩ := Option.map_eq_some_iff.mp hx
    exact h.tryPlace hput hu
  · extract_lets cs at hx
    split at hx
    · cases hx
    · obtain ⟨u, hu, rfl⟩ := Option.map_eq_some_iff.mp hx
      exact h.tryPlace hput hu

theorem searchAfter {p cl : Nat} (h : s.Inv) : (s.searchAfter p cl).Inv := h.updPart

theorem placeNext {p : Nat} {t : State} (h : s.Inv) (ht : s.placeNext p = some t) : t.Inv := by
  unfold State.placeNext at ht
  split at ht
  · cases ht
  · split at ht
    · cases ht
    · obtain ⟨u, hu, rfl⟩ := Option.map_eq_some_iff.mp ht
      exact (h.placeTeam (fun h' => h'.placeBlock) hu).updGrid.searchAfter

theorem restoreBlock {x : SavedBlock} {cl : Nat} {r : Room} (h : s.Inv) : (s.restoreBlock x cl r).Inv := by
  unfold State.restoreBlock
  extract_lets l u _ b shares m₁ m₂ m₃ v w
  have h1 : u.Inv := h.clearRoom
  have hm₁ : m₁.Canon := h1.canon.write.write
  have hm₂ : m₂.Canon := hm₁.foldl fun hm => hm.write
  have hm₃ : m₃.Canon := hm₂.foldl fun hm => hm.write
  have h2 : v.Inv := h1.withMem hm₃
  have h3 : w.Inv := h2.foldl fun ht => ht.addWave
  exact (h3.foldl fun ht => ht.setTile).settleFlags

theorem placeSaved {p : Nat} {t : State} (h : s.Inv) (ht : s.placeSaved p = some t) : t.Inv := by
  unfold State.placeSaved at ht
  split at ht
  · cases ht
  · obtain ⟨u, hu, rfl⟩ := Option.map_eq_some_iff.mp ht
    have h1 : u.1.Inv := h.placeTeam (fun h' => h'.restoreBlock) hu
    have h2 := h1.searchAfter (p := p) (cl := u.2)
    exact h2.keep.report.ite h2.keep

theorem place {p : Nat} (h : s.Inv) : (s.place p).Inv :=
  (getD h fun ht => h.placeSaved ht).ite (getD h fun ht => h.placeNext ht)

/-! ## System instructions (19 R364 to R374) -/

theorem execRte {next : Bool} {r : RForm} (h : s.Inv) : OutInv (execRte next r s) := by
  unfold Machine.execRte
  refine State.Inv.next ?_
  refine h.issueChecked fun h' => ?_
  split
  · exact h'.endBlock
  · exact h'.armLast.updWave.settle

theorem execCsrwr {n : Csr} {a : Opnd} (h : s.Inv) : OutInv (execCsrwr n a s) := by
  unfold Machine.execCsrwr
  refine State.Inv.next ?_
  refine h.issueChecked fun h' => ?_
  refine State.Inv.advance ?_
  split
  · exact h'.result
  · exact h'.result
  · exact h'

theorem execQst {q : Fin 8} {m : MForm} (h : s.Inv) : OutInv (execQst q m s) := by
  unfold Machine.execQst
  dsimp only
  refine State.Inv.next ?_
  refine h.issue fun h' => ?_
  split
  · exact h'.advance
  · split
    · exact h.reportBad.takeTrap
    · exact h'.addAccess.advance

/-! ## What a save area brings back (19 R390, R391) -/

theorem restoreSems {p area : Nat} (h : s.Inv) : (s.restoreSems p area).Inv := by
  unfold State.restoreSems
  dsimp only
  refine h.foldl fun ht => ?_
  split
  · exact ht.updSem.ite ht
  · exact ht

theorem restoreGraph {p area : Nat} (h : s.Inv) : (s.restoreGraph p area).Inv := by
  unfold State.restoreGraph
  exact h.updPart

/-! ## Pre-emption (19 R386 to R390) -/

theorem spillAll {p : Nat} (h : s.Inv) : (s.spillAll p).Inv := h.foldl fun ht => ht.keep.spillHeld.ite ht

theorem failArmed {p : Nat} (h : s.Inv) : (s.failArmed p).Inv := by
  unfold State.failArmed
  exact (h.foldl fun ht => ht.failEntry).updPart

theorem dropSidings {p : Nat} (h : s.Inv) : (s.dropSidings p).Inv := h.foldl fun ht => ht.updPort.updPart
theorem stopCards {p : Nat} (h : s.Inv) : (s.stopCards p).Inv := h.keep
theorem blocksOut {p : Nat} (h : s.Inv) : (s.blocksOut p).Inv := h.keep

theorem finishSave {p : Nat} (h : s.Inv) : (s.finishSave p).Inv := by
  unfold State.finishSave
  split
  · extract_lets u bs mine v w
    have h1 : u.Inv := h.dropSidings
    clear_value u
    have h2 : v.Inv := by
      unfold v
      refine (h1.withMem ?_).blocksOut
      dsimp only
      exact h1.canon.writeMany
    have h3 : w.Inv := h2.keep
    exact h.ite (h.found.ite h3.updPart.report)
  · exact h

theorem takeEffect {p : Nat} (h : s.Inv) : (s.takeEffect p).Inv := by
  unfold State.takeEffect
  split
  · exact h.ite h.updPart.spillAll.failArmed.dropSidings.stopCards.finishSave
  · exact h

theorem saveWave {wv : Nat} (h : s.Inv) : (s.saveWave wv).Inv := by
  unfold State.saveWave
  split
  · exact h
  · exact h.ite h.updWave.finishSave

theorem forceWave {uid : Nat} (h : s.Inv) : (s.forceWave uid).Inv := by
  unfold State.forceWave
  split
  · exact h
  · exact h.ite (h.endContext.ite (h.endContext.ite (h.found.ite h.updWave)))

theorem limitExpires {p : Nat} (h : s.Inv) : (s.limitExpires p).Inv := by
  unfold State.limitExpires
  split
  · exact h.ite (h.foldl fun ht => ht.forceWave).finishSave
  · exact h

/-! ## Steps of the marshal (18) -/

theorem takeEntry {p : Nat} (h : s.Inv) : (s.takeEntry p).Inv :=
  h.ite (h.updPart.gstop.ite (h.updPart.gstop.ite h.updPart.updPart))

theorem startWave {wv : Nat} (h : s.Inv) : (s.startWave wv).Inv := by
  unfold State.startWave
  split
  · exact h
  · exact h.ite (h.renew.updGrid.updWave.updBlock.ite h.renew.updGrid.updWave)

theorem freeTeam {b : Block} (h : s.Inv) : (s.freeTeam b).Inv := h.keep.ite h

theorem retireBlock {gid bl : Nat} (h : s.Inv) : (s.retireBlock gid bl).Inv := by
  unfold State.retireBlock
  split
  · exact h
  · exact h.ite h.updBlock.freeTeam.updGrid.mendGroups.settleGrid.finishSave

theorem deadline {gid code : Nat} (h : s.Inv) : (s.deadline gid code).Inv := h.endContext.foldl fun ht => ht.endStall

theorem execBlockBudgetExpiry {grid bl : Nat} (h : s.Inv) : OutInv (execBlockBudgetExpiry grid bl s) := by
  unfold Machine.execBlockBudgetExpiry
  refine State.Inv.next ?_
  split
  · exact h.deadline.ite h
  · exact h

theorem execGridBudgetExpiry {grid : Nat} (h : s.Inv) : OutInv (execGridBudgetExpiry grid s) := by
  unfold Machine.execGridBudgetExpiry
  refine State.Inv.next ?_
  split
  · exact h.deadline.settleGrid.ite h
  · exact h

theorem execGwaitgcTargetReached {part : Nat} (h : s.Inv) : OutInv (execGwaitgcTargetReached part s) := by
  unfold Machine.execGwaitgcTargetReached
  refine State.Inv.next ?_
  split
  · exact h.updPart.ite h
  · exact h

theorem execGwaitsemSatisfied {part i : Nat} (h : s.Inv) : OutInv (execGwaitsemSatisfied part i s) := by
  unfold Machine.execGwaitsemSatisfied
  refine State.Inv.next ?_
  split
  · exact h.commit.ite h
  · exact h

theorem phaseFault {p : Nat} (h : s.Inv) : (s.phaseFault p).Inv := by
  unfold State.phaseFault
  refine h.gstop.foldl fun ht => ?_
  split
  · split
    · exact ht.deadline.settleGrid.ite ht
    · exact ht
  · exact ht.foldl fun ht => ht.failEntry.ite ht
  · exact ht

/-! ## Events and power (19 R379 to R382; 23 R456 to R463) -/

theorem numbered {e : Ev} {n : Nat} (h : s.Inv) : (s.numbered e n).Inv := by
  unfold State.numbered
  extract_lets u
  have h1 : u.Inv := by
    unfold u
    split
    · refine h.withMem ?_
      dsimp only
      exact h.canon.writeMany
    · exact h
  split
  · exact h1.updPart
  · exact h1

theorem takeEvent (h : s.Inv) : s.takeEvent.Inv := by
  unfold State.takeEvent
  split
  · exact h
  · exact h.keep.postRequest.ite h.keep.keep.numbered

theorem writeEvent (h : s.Inv) : s.writeEvent.Inv := by
  unfold State.writeEvent
  split
  · exact h
  · refine h.withMem ?_
    dsimp only
    exact h.canon.writeMany

theorem writeDrop (h : s.Inv) : s.writeDrop.Inv := by
  unfold State.writeDrop
  split
  · exact h
  · exact h.keep

theorem arbitrate (h : s.Inv) : s.arbitrate.Inv := h.writeEvent.ite (h.writeDrop.ite h.takeEvent)
theorem setClocks {k : Nat} (h : s.Inv) : (s.setClocks k).Inv := h.keep (clusters := List.length_map _)
theorem updVf {f : Vf → Vf} (h : s.Inv) : (s.updVf f).Inv := h.keep
theorem setVolt {p : Fin 16} (h : s.Inv) : (s.setVolt p).Inv := h.updVf
theorem startMove {b : Fin 16} (h : s.Inv) : (s.startMove b).Inv := h.updVf.setClocks.ite h.updVf.setVolt

theorem mailbox {b : Fin 16} (h : s.Inv) : (s.mailbox b).Inv := by
  unfold State.mailbox
  split
  · exact h.updVf
  · exact h.ite h.startMove

theorem vfStep (h : s.Inv) : s.vfStep.Inv := by
  unfold State.vfStep
  split
  · exact h.setVolt.ite (h.updVf.ite h)
  · exact h.updVf.startMove
  · exact h

theorem execVoltageSettled (h : s.Inv) : OutInv (execVoltageSettled s) := by
  unfold Machine.execVoltageSettled
  refine State.Inv.next ?_
  split
  · exact h.ite h.updVf.setClocks
  · exact h

theorem setOver {cl n cause : Nat} (h : s.Inv) : (s.setOver cl n cause).Inv := h.updCluster
theorem unmetEvent {die : Nat} (h : s.Inv) : (s.unmetEvent die).Inv := h.report

theorem currentHigh {cl : Nat} (h : s.Inv) : (s.currentHigh cl).Inv := by
  unfold State.currentHigh
  extract_lets u c
  have h1 : u.Inv := h.updCluster
  exact h.ite (h1.keep.setOver.ite (h1.ite h1.updCluster.unmetEvent))

theorem currentLow {cl : Nat} (h : s.Inv) : (s.currentLow cl).Inv := h.ite (h.updCluster.setOver.ite h.updCluster)

theorem readCurrent {cl at' v : Nat} (h : s.Inv) : (s.readCurrent cl at' v).Inv := by
  unfold State.readCurrent
  exact h.updCluster

theorem readPower {at' v : Nat} (h : s.Inv) : (s.readPower at' v).Inv := h.keep

theorem applyBudget {mean : Nat} (h : s.Inv) : (s.applyBudget mean).Inv := by
  unfold State.applyBudget
  dsimp only
  split
  · split
    · exact h.keep.setOver
    · exact h.ite h.keep.unmetEvent
  · split
    · split
      · exact h.keep.keep.setOver
      · exact h.keep
    · exact h.keep

theorem recompute {mean : Nat} (h : s.Inv) : (s.recompute mean).Inv := h.keep.applyBudget.ite h
theorem rackCap {m : BitVec 128} (h : s.Inv) : (s.rackCap m).Inv := h.keep.ite h.keep

theorem execRackCapExpiry (h : s.Inv) : OutInv (execRackCapExpiry s) := by
  unfold Machine.execRackCapExpiry
  refine State.Inv.next ?_
  split
  · exact h.keep.ite h
  · exact h

theorem sense {at' : Nat} {x : Sense} (h : s.Inv) : (s.sense at' x).Inv := by
  unfold State.sense
  extract_lets _ temp
  have htemp {k c} : (temp k c).Inv := h.keep
  split
  · exact htemp.ite h
  · exact htemp.coolStacks
  · exact h.updCluster
  · exact h.updSlice
  · exact h.laneFault
  · exact h.keep
  · exact h.readCurrent.ite h
  · exact h.readPower
  · exact h.keep

theorem sensed (h : s.Inv) : s.sensed.Inv := h.keep.foldl fun ht => ht.sense

/-! ## Host commands (23 R453) -/

theorem refuse {status : Nat} (h : s.Inv) : (s.refuse status).Inv := h
theorem refuse10 {code : Nat} (h : s.Inv) : (s.refuse10 code).Inv := h
theorem accept (h : s.Inv) : s.accept.Inv := h
theorem cmdPartdef {a : BitVec 512} (h : s.Inv) : (s.cmdPartdef a).Inv := h.refuse.ite (h.refuse.ite h.updPart.accept)

theorem cmdAsidset {a : BitVec 512} (h : s.Inv) : (s.cmdAsidset a).Inv := by
  unfold State.cmdAsidset
  dsimp only
  split
  · exact h.refuse
  · split
    · exact h.refuse
    · split
      · exact h.keep.accept
      · split
        · exact h.keep.accept
        · exact h.refuse

theorem cmdMapfence {a : BitVec 512} (h : s.Inv) : (s.cmdMapfence a).Inv := by
  unfold State.cmdMapfence
  dsimp only
  split
  · exact h.refuse
  · split
    · exact h.refuse
    · exact h.dropAsid.updAsid.accept

theorem terminate {asid : Nat} (h : s.Inv) : (s.terminate asid).Inv := by
  unfold State.terminate
  refine h.foldl fun ht => ?_
  split
  · exact ht.report.updGrid.settleGrid
  · exact ht.endContext.settleGrid
  · exact ht

theorem cmdTerminate {a : BitVec 512} (h : s.Inv) : (s.cmdTerminate a).Inv := h.refuse.ite h.terminate.accept

theorem cmdSemassign {a : BitVec 512} (h : s.Inv) : (s.cmdSemassign a).Inv :=
  h.refuse.ite (h.refuse.ite (h.foldl fun ht => ht.updSem).accept)

theorem reportLost (h : s.Inv) : s.reportLost.Inv :=
  ((h.foldl fun ht => ht.foldl fun ht => ht.foldl fun ht => ht.report).foldl fun ht => ht.report).keep

theorem cmdRetire {a : BitVec 512} (h : s.Inv) : (s.cmdRetire a).Inv := by
  unfold State.cmdRetire
  dsimp only
  split
  · exact h.refuse10
  · exact h.keep.reportLost.accept

theorem cmdPreempt {a : BitVec 512} (h : s.Inv) : (s.cmdPreempt a).Inv :=
  h.refuse.ite (h.refuse.ite (h.refuse10.ite h.updPart.accept))

theorem resumeSave {p area : Nat} (h : s.Inv) : (s.resumeSave p area).Inv := by
  unfold State.resumeSave
  extract_lets bs u mine v
  have h1 : u.Inv := h.restoreGraph.restoreSems.updPart
  clear_value u
  have h2 : v.Inv := h1.keep
  exact h2.report.ite h2.keep

theorem cmdResume {a : BitVec 512} (h : s.Inv) : (s.cmdResume a).Inv := by
  unfold State.cmdResume
  exact h.refuse.ite (h.refuse10.ite h.resumeSave.accept)

theorem cmdMresume {a : BitVec 512} (h : s.Inv) : (s.cmdMresume a).Inv := h.refuse.ite (h.updPart.accept.ite h.refuse)

theorem ackSig {n : Nat} (h : s.Inv) : (s.ackSig n).Inv := by
  unfold State.ackSig
  refine h.foldl fun ht => ?_
  split
  · exact ht.commit
  · exact ht

theorem cmdGsigack {a : BitVec 512} (h : s.Inv) : (s.cmdGsigack a).Inv := h.ackSig.accept
theorem setMkey {k : Nat} {v : Option (BitVec 512)} (h : s.Inv) : (s.setMkey k v).Inv := h.keep
theorem setJkey {k : Nat} {v : Option (BitVec 256 × W32)} (h : s.Inv) : (s.setJkey k v).Inv := h.keep

theorem cmdMkeyload {slot : Nat} {a : BitVec 512} (h : s.Inv) : (s.cmdMkeyload slot a).Inv :=
  h.refuse.ite h.setMkey.accept

theorem cmdMkeyunload {slot : Nat} (h : s.Inv) : (s.cmdMkeyunload slot).Inv :=
  h.refuse.ite (h.refuse.ite h.setMkey.accept)

theorem cmdJkeyload {slot : Nat} {a : BitVec 512} (h : s.Inv) : (s.cmdJkeyload slot a).Inv :=
  h.refuse.ite h.setJkey.accept

theorem cmdJkeyunload {slot : Nat} (h : s.Inv) : (s.cmdJkeyunload slot).Inv :=
  h.refuse.ite (h.refuse.ite h.setJkey.accept)

theorem cmdAttest {a : BitVec 512} (h : s.Inv) : (s.cmdAttest a).Inv := by
  unfold State.cmdAttest
  dsimp only
  split
  · exact h.refuse
  · split
    · exact h.refuse
    · split
      · exact h.askSwitch.accept
      · exact h.refuse.ite h.askSwitch.accept

theorem cmdRevoke {a : BitVec 512} (h : s.Inv) : (s.cmdRevoke a).Inv := h.refuse.ite h.revoke.accept
theorem loadPlan {pl : Plan} (h : s.Inv) : (s.loadPlan pl).Inv := h.keep

theorem cmdSchedload {a : BitVec 512} (h : s.Inv) : (s.cmdSchedload a).Inv :=
  h.refuse.ite (h.refuse.ite h.loadPlan.accept)

theorem cmdTmplload {a : BitVec 512} (h : s.Inv) : (s.cmdTmplload a).Inv := by
  unfold State.cmdTmplload
  split
  · exact h.refuse.ite h.refuse
  · exact h.refuse.ite (h.refuse.ite h.updPort.accept)

theorem cmdWidthup {clear : Bool} {a : BitVec 512} (h : s.Inv) : (s.cmdWidthup clear a).Inv := by
  unfold State.cmdWidthup
  extract_lets u
  have h1 : u.Inv := h.sense.ite h
  exact Reply.Inv.ite h1.refuse (Reply.Inv.ite h1.refuse h1.setWidth.accept)

theorem cmdMxreset {a : BitVec 512} (h : s.Inv) : (s.cmdMxreset a).Inv :=
  h.refuse.ite (h.refuse.ite h.updCluster.accept)

theorem cmdRackcap {a : BitVec 512} (h : s.Inv) : (s.cmdRackcap a).Inv := h.rackCap

theorem perform {op slot : Nat} {clear : Bool} {a : BitVec 512} (h : s.Inv) : (s.perform op slot clear a).Inv := by
  unfold State.perform
  split
  · exact h.cmdPartdef
  · exact h.cmdAsidset
  · exact h.cmdMapfence
  · exact h.cmdTerminate
  · exact h.cmdSemassign
  · exact h.cmdRetire
  · exact h.cmdPreempt
  · exact h.cmdResume
  · exact h.cmdMresume
  · exact h.cmdGsigack
  · exact h.cmdMkeyload
  · exact h.cmdMkeyunload
  · exact h.cmdJkeyload
  · exact h.cmdJkeyunload
  · exact h.cmdAttest
  · exact h.cmdRevoke
  · exact h.cmdSchedload
  · exact h.cmdTmplload
  · exact h.cmdWidthup
  · exact h.cmdMxreset
  · exact h.cmdRackcap
  · exact h.refuse

/-! ## The host interface and the boot (23) -/

theorem ignore {p : Bool} (h : s.Inv) : (s.ignore p).Inv := h.keep
theorem moveOwner (h : s.Inv) : s.moveOwner.Inv := h.keep.report

theorem endCommand (h : s.Inv) : s.endCommand.Inv := by
  unfold State.endCommand
  extract_lets u
  have h1 : u.Inv := by
    unfold u
    split
    · exact h.ite h.keep
    · exact h
  split
  · exact h1.ite h1.moveOwner
  · exact h1

theorem hostWrite {p : Bool} {k : State → State} (h : s.Inv) (hk : ∀ {t}, t.Inv → (k t).Inv) : (s.hostWrite p k).Inv :=
  h.ite (h.endCommand.ignore.ite (hk h.endCommand))

theorem startCommand {p : Bool} {op : Nat} {reply : State → Reply} (h : s.Inv)
    (hreply : ∀ {t}, t.Inv → (reply t).Inv) : (s.startCommand p op reply).Inv :=
  h.keep.ite (keep (hreply h))

theorem command {p : Bool} {op slot : Nat} {clear : Bool} (h : s.Inv) : (s.command p op slot clear).Inv :=
  h.hostWrite fun h' => h'.startCommand fun h'' => Reply.Inv.ite h''.refuse h''.perform

theorem refuseWrite {port : Bool} {p off value : Nat} (h : s.Inv) : (s.refuseWrite port p off value).Inv :=
  h.ignore.report

theorem writePage {port : Bool} {p off value : Nat} (h : s.Inv) : (s.writePage port p off value).Inv := by
  unfold State.writePage
  dsimp only
  split
  · exact h
  · split
    · exact h.refuseWrite
    · split
      · exact h.updPart
      · exact h.refuseWrite

theorem writeQtail {port : Bool} {p : Nat} {v : W32} (h : s.Inv) : (s.writeQtail port p v).Inv :=
  h.updPart.ite h.refuseWrite

theorem writeSlot {port : Bool} {pc i : Nat} {v : Byte} {secure : Bool} (h : s.Inv) :
    (s.writeSlot port pc i v secure).Inv :=
  h.ite (h.ite (h.ignore.ite (h.ignore.ite h.updChan)))

theorem writePass {v : Nat} (h : s.Inv) : (s.writePass v).Inv := h.keep (clusters := List.length_mapIdx)
theorem writeCeil {v : Nat} (h : s.Inv) : (s.writeCeil v).Inv := h.keep (clusters := List.length_mapIdx)
theorem writeRatio {lo n v : Nat} (h : s.Inv) : (s.writeRatio lo n v).Inv := h.keep (slices := List.length_mapIdx)
theorem writeRing {port ok : Bool} {f : Arb → Arb} (h : s.Inv) : (s.writeRing port ok f).Inv := h.keep.ite h.ignore

theorem failover {p : Bool} {v : W32} (h : s.Inv) : (s.failover p v).Inv :=
  h.ite (h.endCommand.ignore.ite (h.endCommand.keep.ite h.endCommand.moveOwner))

theorem writeReg {port secure : Bool} {off : Nat} {value : W64} (h : s.Inv) :
    (s.writeReg port secure off value).Inv := by
  unfold State.writeReg
  extract_lets v keep
  have hkeep {ok f} : (keep ok f).Inv := h.keep.ite h.ignore
  split
  · exact h.ignore.ite (h.writeQtail.ite h.writePage)
  · split
    · exact h.writeSlot
    · split
      · exact hkeep
      · split
        · exact h.startCommand fun h' => h'.refuse.ite h'.perform
        · exact h.mailbox
        · exact h.writePass
        · exact h.writeCeil
        · exact h.writeRatio
        · exact h.writeRatio
        · exact h.writeRatio
        · exact hkeep
        · exact hkeep.coolStacks
        · exact h.writeRing
        · exact h.writeRing
        · exact h.keep
        · exact hkeep
        · exact hkeep
        · exact h

theorem aperture {write bound : Bool} {off n : Nat} {data : List Byte} (h : s.Inv) :
    (s.aperture write bound off n data).Inv :=
  h.keep.ite (h.keep.report.ite (h.keep.report.ite ((h.withMem h.canon.writeMany).ite h.keep)))

theorem spdm {m : SpdmMsg} (h : s.Inv) : (s.spdm m).Inv := by
  unfold State.spdm
  split
  · exact h.keep
  · exact h.updPart
  · exact State.Inv.ite h.perform h
  · exact h.writeReg.ite h

theorem execRackcap {mgmt : Option (BitVec 128)} {port : Bool} (h : s.Inv) : OutInv (execRackcap mgmt port s) := by
  unfold Machine.execRackcap
  refine State.Inv.next ?_
  split
  · exact h.rackCap.ite h
  · exact h.command

theorem cleared : s.cleared.Inv := ⟨rfl, rfl, rfl, List.length_replicate, List.length_replicate⟩
theorem stopBoot {stage code : Nat} (h : s.Inv) : (s.stopBoot stage code).Inv := h.keep

theorem configure (h : s.Inv) : s.configure.Inv := by
  unfold State.configure
  generalize liveList s.flash.retire = live
  exact h.keep (slices := List.length_replicate.trans h.slices.symm)
    (clusters := List.length_replicate.trans h.clusters.symm)

theorem boot {trained : Bool} : (s.boot trained).Inv := by
  unfold State.boot
  extract_lets u _ v
  have h1 : u.Inv := State.Inv.cleared
  have h2 : v.Inv := h1.keep
  exact h1.stopBoot.ite (h2.stopBoot.ite (h2.stopBoot.ite (h2.stopBoot.ite h2.configure)))

theorem rejectTrap {w lit : Nat} {r : Reject} (h : s.Inv) : (s.rejectTrap w lit r).Inv := h.takeTrap

/-! ## Every instruction -/

/-- Every instruction keeps the invariant: its meaning is made of operations that do. -/
theorem exec {i : Instr} (h : s.Inv) : OutInv (Machine.exec i s) := by
  unfold Machine.exec
  cases i with
  | iadd | isub | imul | imulhi | imad | idiv | irem | imin | imax | iabs | ineg | land | lor | lxor | landn | lnot
  | shl | shr | sar | rot | bfx | bfi | brev | sel | mov | lea => exact h.intOp
  | popc | clz | ctz => exact h.countOp
  | icmp => exact h.execIcmp
  | movi | movl | fclass | fxrd | fsgn | idrd | shfl | csrrd => exact h.alu.next
  | fadd | fsub | fmul | fma | fmin | fmax | fdiv | fsqrt | frcp | frsq | fexp | fexp2 | flog | flog2 | ferf | ferfc
  | fint | fscale => exact h.fltOp
  | fcmp => exact (h.issue fun h' => h'.resultFl.advance).next
  | ffrexp | cvt => exact h.aluFl.next
  | fxclr | fxen => exact h.thsOp
  | dot4 | dot8 | pack | unpack => exact h.packedOp
  | mxq => exact (h.issue fun h' => h'.result.advance.ite h'.resultFl.advance).next
  | bra | brc | jmpi | exit => exact (h.transfer fun h' => h').next
  | call | calli => exact (h.transfer fun h' => h'.pushCalls).next
  | ret => exact (h.transfer fun h' => h'.foldl fun ht => ht.popRet).next
  | nop | fence => exact (h.issue fun h' => h'.advance).next
  | elb => exact (h.issueChecked fun h' => h'.updWave.advance).next
  | ld | st | lds | sts | gath | scat | atom | cas | red | redx => exact h.memOp
  | vote | bcast | actm | flgrd => exact (h.issue fun h' => h'.result.advance).next
  | wred => exact h.execWred
  | wscan => exact (h.issue fun h' => h'.redResult.advance).next
  | binit => exact h.execBinit
  | barv => exact h.execBarv
  | bwait => exact h.execBwait
  | barw => exact h.execBarw
  | binval => exact h.execBinval
  | brdf => exact h.execBrdf
  | mma | mmasp => exact h.mmaIssue
  | tzero | lrel | flgclr | folrd | qrd | pkwr => exact (h.issue fun h' => (h'.ite h'.result).advance).next
  | tld | tst => exact h.tileMoveIssue
  | tflg => exact h.execTflg
  | pgreq => exact h.pageIssue fun h' => h'.ite h'.addAccess.report
  | dscd => exact h.pageIssue fun h' => h'.ite h'.addAccess
  | ordfl => exact (h.issue fun h' => h'.addAccess.updWave.advance.ite h'.advance).next
  | pgqry => exact (h.issue fun h' => h'.reportBad.result.advance).next
  | cpyj | gatj | dgstj => exact h.cardIssue
  | semadd | semset => exact h.semOp fun h' => h'.updSem
  | semrd => exact h.semOp fun h' => h'.result
  | semwt => exact h.semOp fun h' => h'.updWave
  | jcan => exact h.execJcan
  | tready => exact (h.issueChecked fun h' => (h'.ite h'.updTent).advance).next
  | tstat => exact (h.issueChecked fun h' => (h'.ite h'.result).advance).next
  | xld | xst => exact h.entryIssue.next
  | trap => exact (h.issue fun h' => h.takeTrap).next
  | rte => exact h.execRte
  | csrwr => exact h.execCsrwr
  | qst => exact h.execQst
  | restart => exact (h.issueChecked fun h' => h'.endBlock.ite (h'.found.ite h'.armLast.updWave.settle)).next
  | glaunch => exact h.gnode fun h' => h'.keep.addNode.gnext.ite h'.gstop
  | gcoll => exact h.gnodeIf fun h' => h'.addNode.gnext.foldl fun ht => ht.armEntry
  | gphase => exact h.gnode fun h' => h'.updPart.gnext
  | gif => exact h.gbranch fun h' => h'.gto
  | gwhile => exact h.gbranch fun h' => h'.loopPass.ite h'.updPart.gnext
  | gjmp => exact h.gnode fun h' => h'.gto
  | gwaitgc => exact h.execGwaitgc
  | gwaitsem => exact h.execGwaitsem
  | gsetc => exact h.execGsetc
  | gsig => exact h.gnode fun h' => (h'.report.addNode.ite h'.report).gnext
  | ghalt => exact h.gnode fun h' => h'.updPart.gnext.report
  | blockStart => exact h.startBlock.next
  | roundBoundary => exact h.boundary.next
  | resultDelivery => exact h.deliverAt.next
  | class0AccessEffect => exact h.accEffect.next
  | class1Completion => exact h.completeAcc.next
  | pageWalkRead => exact h.walkRead.next
  | elasticDeadline => exact h.elasticExit.next
  | barrierResume => exact h.execBarrierResume
  | releaseStallEnd => exact h.execReleaseStallEnd
  | padAtomicChain => exact h.padChain.next
  | redxRedirectWrite => exact h.redirects.next
  | engineSpan => exact (h.spanEvent.ite h.latchMma).next
  | tileUpdate => exact (h.mmaUpdate.ite h.moveTile).next
  | copyChunk | gatherChunk | digestChunk => exact h.cardEvent.next
  | semaphoreResume => exact h.semResume.next
  | stallResume => exact h.execStallResume
  | stallLimitExpiry => exact (h.endStall.ite h).next
  | memoryRequestDispatch => exact h.dispatch.next
  | memorySlotService => exact h.slotService.next
  | eccRetry => exact h.eccRetry.next
  | refresh => exact (h.takeGutter.ite h).next
  | slotTablePeriod => exact h.period.next
  | channelHalfWidth => exact h.laneFault.next
  | sweepGranule => exact h.sweepStep.next
  | groomVisit => exact h.groom.next
  | faultRecordPost => exact h.postRecord.next
  | completionRecordRead => exact h.readCompletion.next
  | faultRecordServed => exact h.serveRecord.next
  | mappingFenceComplete => exact h.fenceDone.next
  | windowCloseMerge => exact h.closeWindow.next
  | blockPlacement => exact h.place.next
  | waveStart => exact h.startWave.next
  | blockRetire => exact h.retireBlock.next
  | blockBudgetExpiry => exact h.execBlockBudgetExpiry
  | gridBudgetExpiry => exact h.execGridBudgetExpiry
  | queueEntryTake => exact h.takeEntry.next
  | launchCheck => exact h.launchCheck.next
  | gwaitgcTargetReached => exact h.execGwaitgcTargetReached
  | gwaitsemSatisfied => exact h.execGwaitsemSatisfied
  | phaseDeadlineExpiry => exact (h.phaseFault.ite h).next
  | entryFire => exact h.fire.next
  | transmitSlotRead => exact h.txRead.next
  | slotArrival => exact h.slotArrives.next
  | tagSlotArrival => exact h.tagArrives.next
  | syncSlotArrival => exact h.syncArrives.next
  | retrySlotSend => exact h.retrySend.next
  | folioBoundary => exact (h.endFolio.ite h).next
  | resyncResume => exact (h.resumePod.ite h.announce).next
  | ptpMessage => exact h.execPtpMessage
  | dieLinkRetry => exact h.linkRetry.next
  | portTrainingFailure => exact h.trainFail.next
  | attestResponse => exact h.control.next
  | controlRequestTimeout => exact h.execControlRequestTimeout
  | heartbeat => exact h.heartbeat.next
  | preemptTakeEffect => exact h.takeEffect.next
  | waveSave => exact h.saveWave.next
  | preemptLimitExpiry => exact h.limitExpires.next
  | eventRingWrite => exact h.arbitrate.next
  | vfMoveComplete => exact h.vfStep.next
  | currentLimitExceeded => exact h.currentHigh.next
  | currentLowStepDown => exact h.currentLow.next
  | budgetRecompute => exact h.recompute.next
  | rackCapExpiry => exact h.execRackCapExpiry
  | reset => exact boot.next
  | bar2Access => exact (h.ite ((h.hostWrite fun h' => h'.aperture).ite h.aperture)).next
  | hostSpdmRequest => exact (h.endCommand.spdm.ite h).next
  | qtailWrite => exact (h.hostWrite fun h' => h'.ignore.ite h'.writeQtail).next
  | failoverWrite => exact h.failover.next
  | vftgtWrite => exact (h.hostWrite fun h' => h'.mailbox).next
  | passhostWrite => exact (h.hostWrite fun h' => h'.writePass).next
  | ovrceilWrite => exact (h.hostWrite fun h' => h'.writeCeil).next
  | ratioWrite => exact (h.hostWrite fun h' => h'.writeRatio).next
  | slotTableWrite => exact (h.hostWrite fun h' => h'.writeSlot).next
  | registerWrite => exact (h.failover.ite (h.hostWrite fun h' => h'.writeReg)).next
  | partdef | asidset | mapfence | terminate | semassign | retire | preempt | resume | mresume | gsigack | mkeyload
  | mkeyunload | jkeyload | jkeyunload | attest | revoke | schedload | tmplload | widthup | mxreset =>
    exact h.command.next
  | rackcap => exact h.execRackcap
  | unassignedOpcode => exact h.takeTrap.next
  | illegalGraphWord => exact (h.ite h.gstop).next
  | voltageSettled => exact h.execVoltageSettled
  | syncSlotSend => exact h.syncSend.next
  | tagSlotSend => exact h.tagSend.next

theorem of_exec {i : Instr} {t : State} (h : s.Inv) (ht : Machine.exec i s = .next t) : t.Inv := h.exec ht

/-! ## The visit of a wave's slot (07 R139 to R144) -/

theorem onPath {w : Wave} {lanes : W32} (h : s.Inv) : (s.onPath w lanes).Inv := h.keep

theorem latchCards {wv : Nat} (h : s.Inv) : (s.latchCards wv).Inv := by
  unfold State.latchCards
  split
  · exact h
  · exact h.updWave

theorem note {w : Wave} {p : Ranked} (h : s.Inv) : (s.note w p).Inv := by
  unfold State.note
  dsimp only
  split
  · exact h.updWave.foldl fun ht => ht.askWalk
  · exact h.updWave

theorem runPath {w : Wave} {lanes : W32} (h : s.Inv) : (s.runPath w lanes).Inv := by
  unfold State.runPath
  dsimp only
  split
  · split
    · exact h.onPath.found
    · split
      · exact h.onPath.of_exec ‹_›
      · exact h.onPath
  · split
    · exact h.onPath.rejectTrap
    · exact h.onPath

theorem runBoth {w : Wave} {a b : W32} (h : s.Inv) : (s.runBoth w a b).Inv :=
  h.runPath.ite (h.runPath.ite h.runPath.runPath.updWave)

theorem clearCur (h : s.Inv) : s.clearCur.Inv := h.keep

theorem visit {wv : Nat} (h : s.Inv) : (s.visit wv).Inv := by
  unfold State.visit
  dsimp only
  split
  · exact h
  · split
    · exact h.startBlock
    · split
      · exact (h.foldl fun ht => ht.note).updWave
      · exact (h.foldl fun ht => ht.note).updWave.runPath.clearCur
      · exact (h.foldl fun ht => ht.note).updWave.runBoth.clearCur

/-! ## The next event (07 R139) -/

theorem graphWord {p : Nat} (h : s.Inv) : (s.graphWord p).Inv := by
  unfold State.graphWord
  extract_lets a w u
  have h1 : u.Inv := h.keep
  split
  · split
    · exact h1.of_exec ‹_›
    · exact h1
  · exact h.gstop

theorem event {i : Instr} (h : s.Inv) : (s.event i).Inv := by
  unfold State.event
  split
  · exact h.of_exec ‹_›
  · exact h

theorem takeAgenda (h : s.Inv) : s.takeAgenda.Inv := by
  unfold State.takeAgenda
  split
  · split
    · exact h.keep.updCluster
    · exact h.keep.event.ite h.keep
  · exact h

theorem doAct {a : Act} (h : s.Inv) : (s.doAct a).Inv := by
  unfold State.doAct
  split
  · exact h.event
  · exact h.visit
  · exact h.latchCards
  · exact h.graphWord
  · exact h.takeAgenda
  · exact h.noteStalls
  · exact h.beginRelease
  · exact h.endCommand
  · exact h.finishSave
  · exact h.settleGrid
  · exact h.settleEntry
  · exact h.controlSend
  · exact h.heldRead
  · exact h.updPort.event

theorem dark (h : s.Inv) : s.dark.Inv := by
  unfold State.dark
  split
  · exact boot.ite h.keep.takeAgenda
  · exact boot.ite h

theorem tick (h : s.Inv) : s.tick.Inv := by
  unfold State.tick
  split
  · exact h.dark
  · split
    · exact h.keep.sensed.doAct
    · exact h

/-! ## One step -/

theorem step (h : s.Inv) : OutInv (step s) := h.tick.next

end State.Inv
end Sys2Proof.Machine

/-- Settles O60: an instruction's meaning and a step are both made of operations that keep the invariant. -/
theorem invariantKept : Obligations.InvariantKept :=
  ⟨fun _ _ _ h ht => h.of_exec ht, fun _ _ h ht => h.step ht⟩
